-- ==== Sys2Proof/Word.lean ====
section
/-! DEFINITION. The word types of the Flotur D960 (R230, R263, R82) and the sparse lists the state is kept in. -/

namespace Sys2Proof

/-- A scalar register value, 64 bits (R17). -/
abbrev Word := BitVec 64
/-- One byte of memory. -/
abbrev Byte := BitVec 8
/-- An instruction word (R230). -/
abbrev IWord := BitVec 32
/-- A vector register, 512 bits (R263). -/
abbrev VReg := BitVec 512
/-- A buffer record, 256 bits (R82). -/
abbrev BRec := BitVec 256

/-- A sparse list keyed by place: an unlisted place holds a default that the reader names.
Keys rise strictly when every entry was placed by `set`. -/
abbrev SMap (α : Type) := List (Nat × α)

/-- The value at a key, or the default. -/
def SMap.get {α : Type} (d : α) : SMap α → Nat → α
  | [], _ => d
  | (k, v) :: m, i => if i = k then v else SMap.get d m i

/-- Whether a key is listed. -/
def SMap.has {α : Type} : SMap α → Nat → Bool
  | [], _ => false
  | (k, _) :: m, i => if i = k then true else SMap.has m i

/-- The list with a key's value replaced or entered in its place. -/
def SMap.set {α : Type} : SMap α → Nat → α → SMap α
  | [], i, x => [(i, x)]
  | (k, v) :: m, i, x =>
    if i = k then (i, x) :: m
    else if i < k then (i, x) :: (k, v) :: m
    else (k, v) :: SMap.set m i x

/-- The list without a key. -/
def SMap.del {α : Type} : SMap α → Nat → SMap α
  | [], _ => []
  | (k, v) :: m, i => if i = k then m else (k, v) :: SMap.del m i

/-- The value a wire of `w` bits carries for a Boolean. -/
def bit (b : Bool) : Word := if b then 1 else 0

end Sys2Proof
end

