-- ==== Sys2Proof/Syntax.lean ====
section
/-! DEFINITION. The instructions of the Flotur D960 (R232 to R237) and the steps of its device, host and links
(95_what_each_step_holds.md), one constructor for each row of the opcode table. Register fields of an instruction word stand as
the encoding gives them, the hint field included. A step of the device names its place by number: a core is
die * 768 + cluster * 48 + core, a strand is core * 16 + frame, a cluster is die * 16 + cluster. -/

namespace Sys2Proof

/-- Who consumes the bad data of a machine check (R383). -/
inductive CheckSite where
  /-- an instruction of a strand consumes it -/
  | strand (t : Nat)
  /-- an engine command consumes it, by its number -/
  | engine (id : Nat)
  /-- nothing consumes it; a partition is told, and a core whose dirty line is lost, if any -/
  | idle (p : BitVec 3) (lost : Option Nat)
  /-- a die-to-die link (code 0x24) -/
  | link (die1 die2 : BitVec 3)
  deriving DecidableEq, Repr

/-- A register outside the CSR space that a write names (R22, R50, R405, R410). -/
inductive RegPlace where
  /-- a master store into a core's control block, by offset from 0x28_0000 -/
  | coreCtl (core : Nat) (off : BitVec 12)
  /-- a master store into a cluster's controls, by offset from 0x3800_0000 -/
  | clusterCtl (cluster : Nat) (off : BitVec 16)
  /-- a host write into BAR0 of the management function -/
  | bar0 (off : BitVec 24)
  deriving DecidableEq, Repr

/-- How a host access reaches a VF: link 1 rather than link 0; and through the selective IDE stream of the VF's interface (R419). -/
structure HostPath where
  link : Bool
  ide : Bool
  deriving DecidableEq, Repr

/-- The instructions and steps, in the order of the opcode table. -/
inductive Instr where
  /-- Adds two scalar registers modulo 2^64 (R243). -/
  | add (d : BitVec 5) (a : BitVec 5) (b : BitVec 5) (h : BitVec 2)
  /-- Subtracts two scalar registers modulo 2^64 (R243). -/
  | sub (d : BitVec 5) (a : BitVec 5) (b : BitVec 5) (h : BitVec 2)
  /-- Bitwise AND of two scalar registers (R243). -/
  | and (d : BitVec 5) (a : BitVec 5) (b : BitVec 5) (h : BitVec 2)
  /-- Bitwise OR of two scalar registers (R243). -/
  | or (d : BitVec 5) (a : BitVec 5) (b : BitVec 5) (h : BitVec 2)
  /-- Bitwise exclusive OR of two scalar registers (R243). -/
  | xor (d : BitVec 5) (a : BitVec 5) (b : BitVec 5) (h : BitVec 2)
  /-- ANDs a with the complement of b (R243). -/
  | andn (d : BitVec 5) (a : BitVec 5) (b : BitVec 5) (h : BitVec 2)
  /-- Shifts a left by b[5:0] (R243). -/
  | shl (d : BitVec 5) (a : BitVec 5) (b : BitVec 5) (h : BitVec 2)
  /-- Shifts a right logically by b[5:0] (R243). -/
  | shr (d : BitVec 5) (a : BitVec 5) (b : BitVec 5) (h : BitVec 2)
  /-- Shifts a right arithmetically by b[5:0] (R243). -/
  | sha (d : BitVec 5) (a : BitVec 5) (b : BitVec 5) (h : BitVec 2)
  /-- Rotates a left by b[5:0] (R243). -/
  | rotl (d : BitVec 5) (a : BitVec 5) (b : BitVec 5) (h : BitVec 2)
  /-- Signed minimum of two registers (R243). -/
  | min (d : BitVec 5) (a : BitVec 5) (b : BitVec 5) (h : BitVec 2)
  /-- Signed maximum of two registers (R243). -/
  | max (d : BitVec 5) (a : BitVec 5) (b : BitVec 5) (h : BitVec 2)
  /-- Unsigned minimum of two registers (R243). -/
  | minn (d : BitVec 5) (a : BitVec 5) (b : BitVec 5) (h : BitVec 2)
  /-- Unsigned maximum of two registers (R243). -/
  | maxn (d : BitVec 5) (a : BitVec 5) (b : BitVec 5) (h : BitVec 2)
  /-- Sets 1 when a is signed-less than b (R243). -/
  | slt (d : BitVec 5) (a : BitVec 5) (b : BitVec 5) (h : BitVec 2)
  /-- Sets 1 when a is unsigned-less than b (R243). -/
  | sltn (d : BitVec 5) (a : BitVec 5) (b : BitVec 5) (h : BitVec 2)
  /-- Sets 1 when a equals b (R243). -/
  | seq (d : BitVec 5) (a : BitVec 5) (b : BitVec 5) (h : BitVec 2)
  /-- Counts leading zero bits of a (R243). -/
  | clz (d : BitVec 5) (a : BitVec 5) (h : BitVec 2)
  /-- Counts trailing zero bits of a (R243). -/
  | ctz (d : BitVec 5) (a : BitVec 5) (h : BitVec 2)
  /-- Counts one bits of a (R243). -/
  | popc (d : BitVec 5) (a : BitVec 5) (h : BitVec 2)
  /-- Sign-extends the low 8, 16 or 32 bits of a (R243). -/
  | sext (d : BitVec 5) (a : BitVec 5) (h : BitVec 2) (s : BitVec 3)
  /-- Zero-extends the low 8, 16 or 32 bits of a (R243). -/
  | zext (d : BitVec 5) (a : BitVec 5) (h : BitVec 2) (s : BitVec 3)
  /-- Adds a to b shifted left by sub (R243). -/
  | lea (d : BitVec 5) (a : BitVec 5) (b : BitVec 5) (h : BitVec 2) (s : BitVec 3)
  /-- Low 64 bits of a times b (R243). -/
  | mul (d : BitVec 5) (a : BitVec 5) (b : BitVec 5) (h : BitVec 2)
  /-- High 64 bits of the signed product (R243). -/
  | mulh (d : BitVec 5) (a : BitVec 5) (b : BitVec 5) (h : BitVec 2)
  /-- High 64 bits of the unsigned product (R243). -/
  | mulhn (d : BitVec 5) (a : BitVec 5) (b : BitVec 5) (h : BitVec 2)
  /-- Signed division truncating toward zero, trapping on a zero divisor (R244). -/
  | div (d : BitVec 5) (a : BitVec 5) (b : BitVec 5) (h : BitVec 2)
  /-- Unsigned division, trapping on a zero divisor (R244). -/
  | divn (d : BitVec 5) (a : BitVec 5) (b : BitVec 5) (h : BitVec 2)
  /-- Signed remainder, trapping on a zero divisor (R244). -/
  | rem (d : BitVec 5) (a : BitVec 5) (b : BitVec 5) (h : BitVec 2)
  /-- Unsigned remainder, trapping on a zero divisor (R244). -/
  | remn (d : BitVec 5) (a : BitVec 5) (b : BitVec 5) (h : BitVec 2)
  /-- Writes b to d when a is non-zero (R243). -/
  | cmov (d : BitVec 5) (a : BitVec 5) (b : BitVec 5) (h : BitVec 2)
  /-- Adds a sign-extended immediate (R245). -/
  | addi (d : BitVec 5) (a : BitVec 5) (i : BitVec 16)
  /-- ANDs with a zero-extended immediate (R245). -/
  | andi (d : BitVec 5) (a : BitVec 5) (i : BitVec 16)
  /-- ORs with a zero-extended immediate (R245). -/
  | ori (d : BitVec 5) (a : BitVec 5) (i : BitVec 16)
  /-- XORs with a zero-extended immediate (R245). -/
  | xori (d : BitVec 5) (a : BitVec 5) (i : BitVec 16)
  /-- Sets 1 when a is signed-less than the immediate (R245). -/
  | slti (d : BitVec 5) (a : BitVec 5) (i : BitVec 16)
  /-- Shifts or rotates a by an immediate count (R245). -/
  | shi (d : BitVec 5) (a : BitVec 5) (k : BitVec 2) (c : BitVec 6)
  /-- Loads the immediate shifted left by 16 (R245). -/
  | lih (d : BitVec 5) (i : BitVec 16)
  /-- Shifts a left by 16 and ORs in the immediate (R245). -/
  | lix (d : BitVec 5) (a : BitVec 5) (i : BitVec 16)
  /-- Branches when a equals b (R246). -/
  | beq (a : BitVec 5) (b : BitVec 5) (i : BitVec 16)
  /-- Branches when a differs from b (R246). -/
  | bne (a : BitVec 5) (b : BitVec 5) (i : BitVec 16)
  /-- Branches when a is signed-less than b (R246). -/
  | blt (a : BitVec 5) (b : BitVec 5) (i : BitVec 16)
  /-- Branches when a is signed-greater or equal to b (R246). -/
  | bge (a : BitVec 5) (b : BitVec 5) (i : BitVec 16)
  /-- Branches when a is unsigned-less than b (R246). -/
  | bltn (a : BitVec 5) (b : BitVec 5) (i : BitVec 16)
  /-- Branches when a is unsigned-greater or equal to b (R246). -/
  | bgen (a : BitVec 5) (b : BitVec 5) (i : BitVec 16)
  /-- Jumps by a 26-bit word displacement (R247). -/
  | j (i : BitVec 26)
  /-- Jumps and links the next address in s1 (R247). -/
  | jl (i : BitVec 26)
  /-- Jumps to a register plus offset and links in d (R247). -/
  | jlr (d : BitVec 5) (a : BitVec 5) (i : BitVec 16)
  /-- Loads a scalar from memory (R282). -/
  | lds (d : BitVec 5) (a : BitVec 5) (w : BitVec 3) (i : BitVec 13)
  /-- Stores a scalar to memory (R282). -/
  | sts (d : BitVec 5) (a : BitVec 5) (w : BitVec 3) (i : BitVec 13)
  /-- Loads a scalar as an acquire at a scope (R282). -/
  | ldaq (d : BitVec 5) (a : BitVec 5) (w : BitVec 3) (c : BitVec 3) (i : BitVec 10)
  /-- Stores a scalar as a release at a scope (R282). -/
  | strl (d : BitVec 5) (a : BitVec 5) (w : BitVec 3) (c : BitVec 3) (i : BitVec 10)
  /-- Loads a vector register through a buffer record (R285). -/
  | vld (d : BitVec 5) (r : BitVec 4) (o : BitVec 5) (i : BitVec 7) (h : BitVec 2) (s : BitVec 3)
  /-- Stores a vector register through a buffer record (R285). -/
  | vst (d : BitVec 5) (r : BitVec 4) (o : BitVec 5) (i : BitVec 7) (h : BitVec 2) (s : BitVec 3)
  /-- Gathers lanes through a buffer record by an index vector (R285). -/
  | vldg (d : BitVec 5) (r : BitVec 4) (o : BitVec 5) (h : BitVec 2) (s : BitVec 3)
  /-- Scatters lanes through a buffer record by an index vector (R285). -/
  | vsts (d : BitVec 5) (r : BitVec 4) (o : BitVec 5) (h : BitVec 2) (s : BitVec 3)
  /-- Loads x16 blocks with their scales into a vector and k register (R287). -/
  | vldx (d : BitVec 5) (r : BitVec 4) (o : BitVec 5) (k : BitVec 3) (h : BitVec 2)
  /-- Stores x16 blocks with their scales (R287). -/
  | vstx (d : BitVec 5) (r : BitVec 4) (o : BitVec 5) (k : BitVec 3) (h : BitVec 2)
  /-- Loads one unit into a scalar through a buffer record (R285). -/
  | sld (d : BitVec 5) (r : BitVec 4) (o : BitVec 5) (i : BitVec 7) (h : BitVec 2) (s : BitVec 3)
  /-- Stores one unit from a scalar through a buffer record (R285). -/
  | sst (d : BitVec 5) (r : BitVec 4) (o : BitVec 5) (i : BitVec 7) (h : BitVec 2) (s : BitVec 3)
  /-- Requests fills for the units a VLD would name, faulting never (R289). -/
  | pfetch (r : BitVec 4) (o : BitVec 5) (i : BitVec 7) (h : BitVec 2) (s : BitVec 3)
  /-- Atomic integer add at a scope (R290). -/
  | aadd (d : BitVec 5) (a : BitVec 5) (b : BitVec 5) (t : BitVec 2) (h : BitVec 2) (s : BitVec 3)
  /-- Atomic bitwise AND (R290). -/
  | aand (d : BitVec 5) (a : BitVec 5) (b : BitVec 5) (t : BitVec 2) (h : BitVec 2) (s : BitVec 3)
  /-- Atomic bitwise OR (R290). -/
  | aor (d : BitVec 5) (a : BitVec 5) (b : BitVec 5) (t : BitVec 2) (h : BitVec 2) (s : BitVec 3)
  /-- Atomic bitwise XOR (R290). -/
  | axor (d : BitVec 5) (a : BitVec 5) (b : BitVec 5) (t : BitVec 2) (h : BitVec 2) (s : BitVec 3)
  /-- Atomic signed minimum (R290). -/
  | amin (d : BitVec 5) (a : BitVec 5) (b : BitVec 5) (t : BitVec 2) (h : BitVec 2) (s : BitVec 3)
  /-- Atomic signed maximum (R290). -/
  | amax (d : BitVec 5) (a : BitVec 5) (b : BitVec 5) (t : BitVec 2) (h : BitVec 2) (s : BitVec 3)
  /-- Atomic unsigned minimum (R290). -/
  | aminn (d : BitVec 5) (a : BitVec 5) (b : BitVec 5) (t : BitVec 2) (h : BitVec 2) (s : BitVec 3)
  /-- Atomic unsigned maximum (R290). -/
  | amaxn (d : BitVec 5) (a : BitVec 5) (b : BitVec 5) (t : BitVec 2) (h : BitVec 2) (s : BitVec 3)
  /-- Atomic exchange (R290). -/
  | axchg (d : BitVec 5) (a : BitVec 5) (b : BitVec 5) (t : BitVec 2) (h : BitVec 2) (s : BitVec 3)
  /-- Atomic f32 add rounded RNE (R290). -/
  | afadd (d : BitVec 5) (a : BitVec 5) (b : BitVec 5) (h : BitVec 2) (s : BitVec 3)
  /-- Atomic f16 or bf16 add (R290). -/
  | afaddh (d : BitVec 5) (a : BitVec 5) (b : BitVec 5) (t : BitVec 2) (h : BitVec 2) (s : BitVec 3)
  /-- Atomic float maximum (R290). -/
  | afmax (d : BitVec 5) (a : BitVec 5) (b : BitVec 5) (t : BitVec 2) (h : BitVec 2) (s : BitVec 3)
  /-- Atomic compare and swap (R291). -/
  | acas (d : BitVec 5) (a : BitVec 5) (b : BitVec 5) (t : BitVec 2) (h : BitVec 2) (s : BitVec 3)
  /-- Orders all earlier accesses before later ones at a scope (R293). -/
  | fence (h : BitVec 2) (s : BitVec 3)
  /-- Orders accesses through both names of the core's local memory (R293). -/
  | lbfenc (h : BitVec 2)
  /-- Performs earlier stores at home and empties the fetch buffer (R293). -/
  | ifenc (h : BitVec 2)
  /-- Waits for every earlier engine command, message and handover to complete (R293). -/
  | efenc (h : BitVec 2)
  /-- Loads a 32-byte buffer record from memory (R294). -/
  | brld (d : BitVec 4) (a : BitVec 5) (h : BitVec 2)
  /-- Stores a buffer record to memory (R294). -/
  | brst (d : BitVec 4) (a : BitVec 5) (h : BitVec 2)
  /-- Sets one field of a buffer record (R294). -/
  | brsetf (d : BitVec 4) (a : BitVec 5) (f : BitVec 5) (h : BitVec 2)
  /-- Reads one field of a buffer record (R294). -/
  | brgetf (d : BitVec 5) (a : BitVec 4) (f : BitVec 5) (h : BitVec 2)
  /-- Copies one buffer record register to another (R294). -/
  | brcpy (d : BitVec 4) (a : BitVec 4) (h : BitVec 2)
  /-- Reads and removes the oldest entry of a queue register, blocking when empty (R295). -/
  | qrd (d : BitVec 5) (h : BitVec 2) (q : BitVec 3)
  /-- Appends a value to a queue register, blocking when the partner queue is full (R295). -/
  | qwr (a : BitVec 5) (h : BitVec 2) (q : BitVec 3)
  /-- Reads a queue entry without blocking and reports status (R295). -/
  | qtry (d : BitVec 5) (a : BitVec 5) (h : BitVec 2) (q : BitVec 3)
  /-- Returns the occupancy of a queue register (R295). -/
  | qcnt (d : BitVec 5) (h : BitVec 2) (q : BitVec 3)
  /-- Names the strand's queue partner (R295). -/
  | qpair (a : BitVec 5) (h : BitVec 2)
  /-- Lane-wise wrapping integer add (R268). -/
  | vadd (d : BitVec 5) (a : BitVec 5) (b : BitVec 5) (m : BitVec 3) (t : BitVec 3)
  /-- Lane-wise wrapping integer subtract (R268). -/
  | vsub (d : BitVec 5) (a : BitVec 5) (b : BitVec 5) (m : BitVec 3) (t : BitVec 3)
  /-- Lane-wise low product (R268). -/
  | vmul (d : BitVec 5) (a : BitVec 5) (b : BitVec 5) (m : BitVec 3) (t : BitVec 3)
  /-- Lane-wise high product (R268). -/
  | vmulh (d : BitVec 5) (a : BitVec 5) (b : BitVec 5) (m : BitVec 3) (t : BitVec 3)
  /-- Lane-wise minimum (R268). -/
  | vmin (d : BitVec 5) (a : BitVec 5) (b : BitVec 5) (m : BitVec 3) (t : BitVec 3)
  /-- Lane-wise maximum (R268). -/
  | vmax (d : BitVec 5) (a : BitVec 5) (b : BitVec 5) (m : BitVec 3) (t : BitVec 3)
  /-- Lane-wise AND (R268). -/
  | vand (d : BitVec 5) (a : BitVec 5) (b : BitVec 5) (m : BitVec 3) (t : BitVec 3)
  /-- Lane-wise OR (R268). -/
  | vor (d : BitVec 5) (a : BitVec 5) (b : BitVec 5) (m : BitVec 3) (t : BitVec 3)
  /-- Lane-wise XOR (R268). -/
  | vxor (d : BitVec 5) (a : BitVec 5) (b : BitVec 5) (m : BitVec 3) (t : BitVec 3)
  /-- Lane-wise shift left (R268). -/
  | vshl (d : BitVec 5) (a : BitVec 5) (b : BitVec 5) (m : BitVec 3) (t : BitVec 3)
  /-- Lane-wise logical shift right (R268). -/
  | vshr (d : BitVec 5) (a : BitVec 5) (b : BitVec 5) (m : BitVec 3) (t : BitVec 3)
  /-- Lane-wise arithmetic shift right (R268). -/
  | vsha (d : BitVec 5) (a : BitVec 5) (b : BitVec 5) (m : BitVec 3) (t : BitVec 3)
  /-- Lane-wise wrapping absolute value (R268). -/
  | vabs (d : BitVec 5) (a : BitVec 5) (m : BitVec 3) (t : BitVec 3)
  /-- Lane-wise wrapping negation (R268). -/
  | vneg (d : BitVec 5) (a : BitVec 5) (m : BitVec 3) (t : BitVec 3)
  /-- Lane-wise saturating add (R268). -/
  | vadds (d : BitVec 5) (a : BitVec 5) (b : BitVec 5) (m : BitVec 3) (t : BitVec 3)
  /-- Lane-wise saturating subtract (R268). -/
  | vsubs (d : BitVec 5) (a : BitVec 5) (b : BitVec 5) (m : BitVec 3) (t : BitVec 3)
  /-- Lane-wise equality compare into a k register (R268). -/
  | vcmpeq (d : BitVec 3) (a : BitVec 5) (b : BitVec 5) (m : BitVec 3) (t : BitVec 3)
  /-- Lane-wise less-than compare into a k register (R268). -/
  | vcmplt (d : BitVec 3) (a : BitVec 5) (b : BitVec 5) (m : BitVec 3) (t : BitVec 3)
  /-- Lane-wise less-or-equal compare into a k register (R268). -/
  | vcmple (d : BitVec 3) (a : BitVec 5) (b : BitVec 5) (m : BitVec 3) (t : BitVec 3)
  /-- Selects lanes of va or vb by the mask (R268). -/
  | vsel (d : BitVec 5) (a : BitVec 5) (b : BitVec 5) (m : BitVec 3) (t : BitVec 3)
  /-- Lane-wise float add (R269). -/
  | vfadd (d : BitVec 5) (a : BitVec 5) (b : BitVec 5) (m : BitVec 3) (t : BitVec 3)
  /-- Lane-wise float subtract (R269). -/
  | vfsub (d : BitVec 5) (a : BitVec 5) (b : BitVec 5) (m : BitVec 3) (t : BitVec 3)
  /-- Lane-wise float multiply (R269). -/
  | vfmul (d : BitVec 5) (a : BitVec 5) (b : BitVec 5) (m : BitVec 3) (t : BitVec 3)
  /-- Fused a times b plus c with one rounding (R269). -/
  | vfma (d : BitVec 5) (a : BitVec 5) (b : BitVec 5) (m : BitVec 3) (t : BitVec 3)
  /-- Fused a times b minus c with one rounding (R269). -/
  | vfms (d : BitVec 5) (a : BitVec 5) (b : BitVec 5) (m : BitVec 3) (t : BitVec 3)
  /-- Fused c minus a times b with one rounding (R269). -/
  | vfnma (d : BitVec 5) (a : BitVec 5) (b : BitVec 5) (m : BitVec 3) (t : BitVec 3)
  /-- Lane-wise float minimum (R269). -/
  | vfmin (d : BitVec 5) (a : BitVec 5) (b : BitVec 5) (m : BitVec 3) (t : BitVec 3)
  /-- Lane-wise float maximum (R269). -/
  | vfmax (d : BitVec 5) (a : BitVec 5) (b : BitVec 5) (m : BitVec 3) (t : BitVec 3)
  /-- Clears the sign bit of each lane (R269). -/
  | vfabs (d : BitVec 5) (a : BitVec 5) (m : BitVec 3) (t : BitVec 3)
  /-- Inverts the sign bit of each lane (R269). -/
  | vfneg (d : BitVec 5) (a : BitVec 5) (m : BitVec 3) (t : BitVec 3)
  /-- Gives a truncated reciprocal seed per lane (R272). -/
  | vfrcp (d : BitVec 5) (a : BitVec 5) (m : BitVec 3) (t : BitVec 3)
  /-- Gives a truncated reciprocal square root seed per lane (R272). -/
  | vfrsq (d : BitVec 5) (a : BitVec 5) (m : BitVec 3) (t : BitVec 3)
  /-- Float equality compare into a k register (R269). -/
  | vfceq (d : BitVec 3) (a : BitVec 5) (b : BitVec 5) (m : BitVec 3) (t : BitVec 3)
  /-- Float less-than compare into a k register (R269). -/
  | vfclt (d : BitVec 3) (a : BitVec 5) (b : BitVec 5) (m : BitVec 3) (t : BitVec 3)
  /-- Float less-or-equal compare into a k register (R269). -/
  | vfcle (d : BitVec 3) (a : BitVec 5) (b : BitVec 5) (m : BitVec 3) (t : BitVec 3)
  /-- Writes the class code of each lane (R271). -/
  | vfclass (d : BitVec 5) (a : BitVec 5) (m : BitVec 3) (t : BitVec 3)
  /-- Converts elements between formats under a rounding mode (R273). -/
  | vcvt (d : BitVec 5) (a : BitVec 5) (b : BitVec 5) (m : BitVec 3) (g : BitVec 5) (r : BitVec 3)
  /-- Quantises 16 f32 lanes into one block slot and its scale (R275). -/
  | vqblk (d : BitVec 5) (a : BitVec 5) (b : BitVec 5) (k : BitVec 3) (t : BitVec 3)
  /-- Dequantises one block slot into 16 f32 lanes (R275). -/
  | vdqblk (d : BitVec 5) (a : BitVec 5) (b : BitVec 5) (k : BitVec 3) (t : BitVec 3)
  /-- Adds two block-packed registers exactly and requantises (R275). -/
  | vbaddq (d : BitVec 5) (a : BitVec 5) (k : BitVec 3) (t : BitVec 3)
  /-- Shifts the block scales of a k register (R275). -/
  | vbscal (a : BitVec 5) (k : BitVec 3) (t : BitVec 3)
  /-- Broadcasts a scalar into active lanes (R276). -/
  | vbcast (d : BitVec 5) (a : BitVec 5) (m : BitVec 3) (t : BitVec 3)
  /-- Extracts one lane into a scalar (R276). -/
  | vext (d : BitVec 5) (a : BitVec 5) (b : BitVec 5) (t : BitVec 3)
  /-- Inserts a scalar into one lane (R276). -/
  | vins (d : BitVec 5) (a : BitVec 5) (b : BitVec 5) (t : BitVec 3)
  /-- Permutes lanes by an index vector (R276). -/
  | vperm (d : BitVec 5) (a : BitVec 5) (b : BitVec 5) (m : BitVec 3) (t : BitVec 3)
  /-- Compresses active lanes to the bottom and counts them (R276). -/
  | vcomp (d : BitVec 5) (a : BitVec 5) (b : BitVec 5) (m : BitVec 3) (t : BitVec 3)
  /-- Expands low lanes into active lanes (R276). -/
  | vexpd (d : BitVec 5) (a : BitVec 5) (m : BitVec 3) (t : BitVec 3)
  /-- Writes a plus the lane index into active lanes (R276). -/
  | viota (d : BitVec 5) (a : BitVec 5) (m : BitVec 3) (t : BitVec 3)
  /-- Slides lanes by a signed amount (R276). -/
  | vslide (d : BitVec 5) (a : BitVec 5) (b : BitVec 5) (m : BitVec 3) (t : BitVec 3)
  /-- Copies active lanes (R276). -/
  | vmov (d : BitVec 5) (a : BitVec 5) (m : BitVec 3) (t : BitVec 3)
  /-- Integer sum of active lanes into a scalar (R277). -/
  | vredadd (d : BitVec 5) (a : BitVec 5) (m : BitVec 3) (t : BitVec 3)
  /-- Integer maximum of active lanes (R277). -/
  | vredmax (d : BitVec 5) (a : BitVec 5) (m : BitVec 3) (t : BitVec 3)
  /-- Integer minimum of active lanes (R277). -/
  | vredmin (d : BitVec 5) (a : BitVec 5) (m : BitVec 3) (t : BitVec 3)
  /-- Pairwise-tree float sum of lanes (R108). -/
  | vfredadd (d : BitVec 5) (a : BitVec 5) (m : BitVec 3) (t : BitVec 3)
  /-- Pairwise-tree float maximum of lanes (R108). -/
  | vfredmax (d : BitVec 5) (a : BitVec 5) (m : BitVec 3) (t : BitVec 3)
  /-- Integer prefix sum over lanes (R277). -/
  | vscanadd (d : BitVec 5) (a : BitVec 5) (m : BitVec 3) (t : BitVec 3)
  /-- Sequential float prefix sum over lanes (R109). -/
  | vfscanadd (d : BitVec 5) (a : BitVec 5) (m : BitVec 3) (t : BitVec 3)
  /-- ANDs two mask registers (R278). -/
  | kand (d : BitVec 3) (a : BitVec 3) (b : BitVec 3)
  /-- ORs two mask registers (R278). -/
  | kor (d : BitVec 3) (a : BitVec 3) (b : BitVec 3)
  /-- XORs two mask registers (R278). -/
  | kxor (d : BitVec 3) (a : BitVec 3) (b : BitVec 3)
  /-- Inverts a mask register (R278). -/
  | knot (d : BitVec 3) (a : BitVec 3)
  /-- Copies a mask register (R278). -/
  | kmov (d : BitVec 3) (a : BitVec 3)
  /-- Copies a mask register into a scalar (R278). -/
  | kget (d : BitVec 5) (a : BitVec 3)
  /-- Counts one bits of a mask register (R278). -/
  | kpopc (d : BitVec 5) (a : BitVec 3)
  /-- Index of the lowest set mask bit (R278). -/
  | kfirst (d : BitVec 5) (a : BitVec 3)
  /-- Fills lanes with M64 of key and counter (R279). -/
  | vrand (d : BitVec 5) (a : BitVec 5) (b : BitVec 5) (m : BitVec 3)
  /-- Marks vector registers dead by a bit mask (R280). -/
  | vlive (a : BitVec 5)
  /-- Spawns one task at the issuer's priority (R323). -/
  | fork (d : BitVec 5) (a : BitVec 5) (b : BitVec 5) (h : BitVec 2)
  /-- Spawns one task at a named priority (R323). -/
  | forkP (d : BitVec 5) (a : BitVec 5) (b : BitVec 5) (h : BitVec 2) (p : BitVec 2)
  /-- Ends the task, releasing its stores and decrementing its completion cell (R215). -/
  | done (n : BitVec 5) (h : BitVec 2)
  /-- Gives up residence when another strand waits for it (R324). -/
  | yield (h : BitVec 2)
  /-- Initialises a local join cell with count, flags and handler (R325). -/
  | jcinit (d : BitVec 5) (a : BitVec 5) (b : BitVec 5) (h : BitVec 2)
  /-- Forcibly re-initialises a join cell, trapping parked strands (R325). -/
  | jcinitForce (d : BitVec 5) (a : BitVec 5) (b : BitVec 5) (h : BitVec 2)
  /-- Sends a decrement with payload words to a join cell (R326). -/
  | jcdec (d : BitVec 5) (a : BitVec 5) (n : BitVec 5) (h : BitVec 2)
  /-- Parks the strand until a local cell reaches zero (R327). -/
  | jcwait (a : BitVec 5) (h : BitVec 2)
  /-- Reads one word of a local join cell (R327). -/
  | jcrd (d : BitVec 5) (a : BitVec 5) (h : BitVec 2) (s : BitVec 3)
  /-- Hands a writer seal to another rank (R165). -/
  | sealg (d : BitVec 5) (a : BitVec 5) (b : BitVec 5) (h : BitVec 2)
  /-- Reports the seal state of a page for the issuer (R166). -/
  | sealq (d : BitVec 5) (a : BitVec 5) (h : BitVec 2)
  /-- Forms a completion word naming a local cell by rank (R328). -/
  | self (d : BitVec 5) (a : BitVec 5) (h : BitVec 2)
  /-- Requests power gating of the core (R329). -/
  | gate (h : BitVec 2)
  /-- Migrates the issuing strand to another core (R330). -/
  | migr (d : BitVec 5) (a : BitVec 5) (h : BitVec 2)
  /-- Reads a CSR (R248). -/
  | csrrd (d : BitVec 5) (c : BitVec 12)
  /-- Writes a CSR and returns its old value (R248). -/
  | csrwr (d : BitVec 5) (a : BitVec 5) (c : BitVec 12)
  /-- Sets bits of a CSR and returns its old value (R248). -/
  | csrset (d : BitVec 5) (a : BitVec 5) (c : BitVec 12)
  /-- Clears bits of a CSR and returns its old value (R248). -/
  | csrclr (d : BitVec 5) (a : BitVec 5) (c : BitVec 12)
  /-- Raises a system call trap (R253). -/
  | sysc (c : BitVec 12)
  /-- Raises a software trap with a code (R253). -/
  | trap (c : BitVec 12)
  /-- Returns from a trap to TPC at the saved level (R255). -/
  | eret
  /-- Raises a breakpoint trap or halts the strand (R253). -/
  | brk
  /-- Signals a halt group on the cross-trigger network (R253). -/
  | haltg (g : BitVec 4)
  /-- Holds the strand until an interrupt, arrival or timeout (R256). -/
  | wfi
  /-- Writes one rank-table entry (R258). -/
  | rkset (a : BitVec 5) (b : BitVec 5) (h : BitVec 2)
  /-- Exchanges the entries of two valid ranks (R259). -/
  | rktrn (a : BitVec 5) (b : BitVec 5) (h : BitVec 2)
  /-- Removes the cached translations of one page (R79). -/
  | tlbinv (a : BitVec 5) (h : BitVec 2)
  /-- Removes the cached translations of a 64 MiB range (R79). -/
  | tlbinvRng (a : BitVec 5) (h : BitVec 2)
  /-- Removes every cached translation of the partition (R79). -/
  | tlbinvAll (h : BitVec 2)
  /-- Waits until earlier TLBINVs and accesses through removed entries are done (R80). -/
  | ptsync (h : BitVec 2)
  /-- Sets the die mask of a partition (R261). -/
  | part (d : BitVec 5) (a : BitVec 5) (b : BitVec 5) (h : BitVec 2)
  /-- Gang-stops and saves another partition's context (R386). -/
  | preemptSave (d : BitVec 5) (a : BitVec 5) (h : BitVec 2)
  /-- Restores a saved partition and releases it (R386). -/
  | preemptRest (d : BitVec 5) (a : BitVec 5) (h : BitVec 2)
  /-- Issues a Loom semiring matrix multiply of A rows by the active set (R314). -/
  | lmm (rc : BitVec 4) (ra : BitVec 4) (n : BitVec 5) (f : BitVec 5) (h : BitVec 2) (c : BitVec 5) (w : BitVec 3) (u : BitVec 1) (cs : BitVec 2)
  /-- Issues grouped products over the four macros (R315). -/
  | lmmg (rc : BitVec 4) (ra : BitVec 4) (ro : BitVec 4) (c : BitVec 5) (h : BitVec 2) (w : BitVec 3) (u : BitVec 1) (cs : BitVec 2)
  /-- Issues a product with bitmap-packed sparse A (R316). -/
  | lmms (rc : BitVec 4) (ra : BitVec 4) (n : BitVec 5) (f : BitVec 5) (h : BitVec 2) (c : BitVec 5) (w : BitVec 3) (u : BitVec 1) (cs : BitVec 2)
  /-- Loads the staging macro set from a B record (R311). -/
  | lbld (rb : BitVec 4) (p : BitVec 5) (c : BitVec 5) (h : BitVec 2)
  /-- Exchanges the staging and active macro sets (R312). -/
  | lbswp (h : BitVec 2)
  /-- Fills an accumulator record with the pair's identity (R313). -/
  | laini (rc : BitVec 4) (c : BitVec 5) (h : BitVec 2) (w : BitVec 3)
  /-- Reads out and converts accumulators into a destination record (R317). -/
  | ladr (rd : BitVec 4) (rc : BitVec 4) (c : BitVec 5) (h : BitVec 2) (rm : BitVec 3)
  /-- Writes a semiring pair code into a weave slot (R309). -/
  | lsemi (a : BitVec 5) (h : BitVec 2) (w : BitVec 3)
  /-- Returns the Loom status word (R310). -/
  | lstat (d : BitVec 5) (h : BitVec 2)
  /-- Selects the k best candidates of each line and updates routing counters (R358). -/
  | topk (ro : BitVec 4) (rs : BitVec 4) (p : BitVec 5) (c : BitVec 5) (h : BitVec 2) (sb : BitVec 5) (mn : BitVec 1) (ky : BitVec 1) (sp : BitVec 1) (cl : BitVec 1)
  /-- Snapshots and clears routing counters of a group (R359). -/
  | rcsnap (rd : BitVec 4) (a : BitVec 5) (h : BitVec 2)
  /-- Reads one routing counter (R359). -/
  | rcrd (d : BitVec 5) (a : BitVec 5) (h : BitVec 2) (x : BitVec 1)
  /-- Spawns grain-sized tasks over a trip count and arms a cell (R223). -/
  | rfork (j : BitVec 5) (c : BitVec 5) (f : BitVec 5) (t : BitVec 5) (h : BitVec 2) (g : BitVec 16)
  /-- Submits a launch packet from a strand (R333). -/
  | mfork (p : BitVec 5) (h : BitVec 2)
  /-- Sends a decrement with payload to a rank's cell (R335). -/
  | send (d : BitVec 5) (hd : BitVec 5) (h : BitVec 2) (n : BitVec 4)
  /-- Sends the same message to consecutive ranks (R336). -/
  | sendm (d : BitVec 5) (hd : BitVec 5) (m : BitVec 5) (h : BitVec 2) (n : BitVec 4)
  /-- Copies from a rank's local memory into the issuer's (R337). -/
  | rread (d : BitVec 5) (rl : BitVec 4) (sr : BitVec 5) (c : BitVec 5) (h : BitVec 2)
  /-- Exchanges tile edge strips with up to four neighbours (R339). -/
  | halo (rt : BitVec 4) (nb : BitVec 5) (h : BitVec 2) (hw : BitVec 4)
  /-- Copies records into a receiver's target row by row (R338). -/
  | rwrite (d : BitVec 5) (rs : BitVec 4) (rt : BitVec 4) (c : BitVec 5) (h : BitVec 2)
  /-- Opens a shadow on a buffer record's range (R142). -/
  | shdw (r : BitVec 4) (h : BitVec 2)
  /-- Closes and publishes a shadow in one step (R144). -/
  | publ (r : BitVec 4) (h : BitVec 2)
  /-- Closes and discards a shadow (R145). -/
  | disc (r : BitVec 4) (h : BitVec 2)
  /-- Starts a templated copy on a channel (R150). -/
  | cpyt (a : BitVec 5) (t : BitVec 5) (h : BitVec 2)
  /-- Reads a copy channel's state word (R343). -/
  | wmrd (d : BitVec 5) (a : BitVec 5) (h : BitVec 2)
  /-- Folds a record's bytes into a running SHAKE256 digest (R345). -/
  | digest (rd : BitVec 4) (rs : BitVec 4) (h : BitVec 2)
  /-- Invalidates cached copy templates (R151). -/
  | tmplinv (t : BitVec 5) (h : BitVec 2) (al : BitVec 1)
  /-- Specialises a source into a residual held by a handle (R353). -/
  | spec (d : BitVec 5) (sr : BitVec 5) (ra : BitVec 4) (h : BitVec 2)
  /-- Releases one reference to a handle (R350). -/
  | hrel (hd : BitVec 5) (h : BitVec 2)
  /-- Adds one reference to a handle (R350). -/
  | href (hd : BitVec 5) (h : BitVec 2)
  /-- Calls a residual, setting bound registers and the residency tag (R401). -/
  | hcall (hd : BitVec 5) (h : BitVec 2)
  /-- Reads a handle's status word (R354). -/
  | hstat (d : BitVec 5) (hd : BitVec 5) (h : BitVec 2)
  /-- Installs a Bolter stage set (R362). -/
  | stgdef (a : BitVec 5) (r : BitVec 4) (h : BitVec 2)
  /-- Puts a record into a Bolter set (R363). -/
  | stgput (st : BitVec 5) (i : BitVec 5) (h : BitVec 2)
  /-- Reports a stage outcome for a record (R365). -/
  | stgend (st : BitVec 5) (i : BitVec 5) (o : BitVec 5) (h : BitVec 2)
  /-- Stores pass and reject counts of a complete window (R367). -/
  | stgsnap (rd : BitVec 4) (st : BitVec 5) (w : BitVec 5) (h : BitVec 2)
  /-- Parks the stage task until its record-order turn (R366). -/
  | stgseq (st : BitVec 5) (i : BitVec 5) (h : BitVec 2)
  /-- Starts an Assay launch over tiles (R370). -/
  | glnch (rt : BitVec 4) (dd : BitVec 5) (h : BitVec 2)
  /-- Reports a check task's residual (R371). -/
  | gres (a : BitVec 5) (h : BitVec 2)
  /-- Waits for a launch to end and loads its status word (R372). -/
  | gstat (d : BitVec 5) (a : BitVec 5) (h : BitVec 2)
  /-- Fixes the value of a ready load from outbox, core copy or home (R117). -/
  | load (t n j : Nat)
  /-- A ready store joins its outbox or the loop-back port (R117). -/
  | enter (t n : Nat)
  /-- An outbox entry reaches the core copy or the home copy (R117). -/
  | drain (t n : Nat) (home : Bool)
  /-- A loop-back port access reaches the local-memory banks (R117). -/
  | loopBack (t n : Nat)
  /-- A line becomes present in the core copy from home (R117). -/
  | fill (core line : Nat)
  /-- The dirty bytes of a line go to the home copy (R117). -/
  | writeBack (core line : Nat)
  /-- A clean line becomes absent from the core copy (R117). -/
  | drop (core line : Nat)
  /-- One read-modify-write step of an atomic (R126). -/
  | atomic (t n : Nat)
  /-- The next instruction word is read into the fetch buffer (R132). -/
  | fetch (t : Nat)
  /-- A fence completes, writing back and dropping lines at wide scope (R122). -/
  | fenceComplete (t : Nat)
  /-- Earlier accesses through both names have reached the banks (R131). -/
  | lbfencComplete (t : Nat)
  /-- Stores are at home and the fetch buffer is emptied (R132). -/
  | ifencComplete (t : Nat)
  /-- Earlier engine work has completed and clean RC lines are dropped (R293). -/
  | efencComplete (t : Nat)
  /-- An issued engine command joins its queue, taking snapshots and scoreboard entries (R134). -/
  | accept (t : Nat)
  /-- An engine reads one unit from home or shadow (R134). -/
  | engineRead (id i : Nat)
  /-- An engine writes one unit to home or shadow (R134). -/
  | engineWrite (id i : Nat)
  /-- An engine command completes, freeing entries, merging flags and decrementing its cell (R134). -/
  | complete (id : Nat)
  /-- Every written byte of a shadow is placed at home in one step (R144). -/
  | publishStep (t : Nat)
  /-- A closed shadow is freed without touching home (R145). -/
  | discardStep (t : Nat)
  /-- A waiting SHDW opens its shadow once a slot and reservation are free (R142). -/
  | shadowOpen (t : Nat)
  /-- A request meeting an invalid entry parks in its walk home's fault queue (R156). -/
  | park (id i : Nat)
  /-- A parked request is translated afresh and performed once or parks again (R157). -/
  | replay (p : BitVec 3) (n : Nat)
  /-- A walker completes a coalesced table walk and fills the TLBs (R75). -/
  | walk (core : Nat) (va : Word)
  /-- A network interface drops a cached rank-table entry (R28). -/
  | niEntryDrop (core rank : Nat)
  /-- A decrement with payload is taken at a join cell (R218). -/
  | decrement (n : Nat)
  /-- A task record enters a core's task queue or spill (R211). -/
  | taskRecordArrival (n : Nat)
  /-- A queue-register entry arrives in the partner's queue (R226). -/
  | queueEntryArrival (n : Nat)
  /-- A travelling seal is installed in the receiver's SEALK slot or fails (R165). -/
  | handoverInstall (n : Nat)
  /-- A vacated frame forwards a message to the rank's new place (R30). -/
  | messageForward (n : Nat)
  /-- A vacated frame's forwarding entry is dropped once all is forwarded (R30). -/
  | forwardingEntryDrop (t : Nat)
  /-- The device begins moving a strand to a core of the same stage (R33). -/
  | liveMigration (t core : Nat)
  /-- The context lands in the new frame and the rank entry becomes valid (R30). -/
  | migrationComplete (t : Nat)
  /-- A queued record is assigned to an idle strand and the task starts (R212). -/
  | taskAssign (core : Nat)
  /-- A record waiting 4,096 cycles moves up one priority (R212). -/
  | recordAging (core prio : Nat)
  /-- An empty core in relaxed mode steals a record within its cluster (R213). -/
  | steal (core : Nat)
  /-- A waiting strand enters residence (R205). -/
  | residenceEnter (core : Nat)
  /-- A resident strand leaves residence and writes back its context (R205). -/
  | residenceLeave (t : Nat)
  /-- A strand blocked for 256 cycles becomes eligible to leave residence (R205). -/
  | blockedTimeout (t : Nat)
  /-- A WFI hold ends after 4,096 cycles (R256). -/
  | wfiTimeout (t : Nat)
  /-- A strand takes a pending interrupt before its next instruction (R376). -/
  | interruptTake (t : Nat)
  /-- A gate-requested core with nothing pending starts closing (R228). -/
  | gateClosing (core : Nat)
  /-- A closing core finishes writing back and becomes gated (R228). -/
  | gateClosed (core : Nat)
  /-- An arrival at the cluster NI starts waking a gated core (R228). -/
  | wake (core : Nat)
  /-- A waking core is on and held arrivals are delivered (R228). -/
  | powerRestored (core : Nat)
  /-- The device adds line-request counts to a PTE's counter (R54). -/
  | pteCountUpdate (p : BitVec 3) (pte : Nat)
  /-- Each epoch the tier engine halves counters and fills the victim queue (R56). -/
  | tierSweep (p : BitVec 3)
  /-- A swap's copy ends, frames exchange and stalled accesses resume (R57). -/
  | tierSwapComplete (p : BitVec 3)
  /-- A swap meeting an uncorrectable error is abandoned (R61). -/
  | tierSwapAbandon (p : BitVec 3) (victim : Bool)
  /-- A whole host launch packet in an aperture slot is accepted (R225). -/
  | launchPacketAccept (path : HostPath) (p : BitVec 3) (slot : Nat) (packet : BitVec 512)
  /-- Pool granules are granted, base words written and copies spawned (R46). -/
  | launchGrant (p : BitVec 3)
  /-- The die's Forge traces a queued SPEC and emits the residual (R348). -/
  | forgeRun (die : BitVec 3)
  /-- The Bolter draws the next stage for a record and spawns its task (R364). -/
  | routingDecision (p : BitVec 3) (set : BitVec 4) (record : Nat)
  /-- After both tile tasks end the shadow is published or the exact path spawned (R370). -/
  | assayTileDecide (p : BitVec 3) (launch tile : Nat)
  /-- The Loom exchanges its macro sets after earlier users finish (R298). -/
  | lbswpExchange (id : Nat)
  /-- Every core of a partition stops issuing and halts its strands (R389). -/
  | gangStop (p : BitVec 3) (why : BitVec 8)
  /-- Quiet is set once commands, messages and outboxes have settled (R390). -/
  | chaltQuiet (p : BitVec 3)
  /-- Member cores of a signalled halt group halt (R395). -/
  | haltGroupStop (core : Nat) (g : BitVec 4)
  /-- A write of CTRIG.halt signals a halt group (R394). -/
  | ctrigHalt (p : BitVec 3) (g : BitVec 4)
  /-- A write of CTRIG.rel releases a halt group and vector-halted strands (R392). -/
  | ctrigRel (p : BitVec 3) (g : BitVec 4)
  /-- The host gang-stops a partition with reason 1 (R405). -/
  | hstopStop (p : BitVec 3)
  /-- The host releases a partition's gang stop (R406). -/
  | hstopRel (p : BitVec 3)
  /-- Both partners' digests of a slot are compared in one step (R399). -/
  | replicaCompare (p : BitVec 3) (slot : BitVec 11)
  /-- An uncorrectable error is detected and reported by trap, record or interrupt (R383). -/
  | machineCheck (code : BitVec 8) (site : CheckSite) (addr : Word)
  /-- A corrected error is counted in CECNT (R381). -/
  | correctedError (cluster : BitVec 7)
  /-- A die-to-die link fails, gang-stopping affected partitions (R383). -/
  | dieLinkFail (die1 die2 : BitVec 3)
  /-- Writing NICTL.flush drops every cached rank entry of the NI (R22). -/
  | nictlFlush (core : Nat)
  /-- Writing FQCTL.replay replays every parked request once (R157). -/
  | fqctlReplay (p : BitVec 3)
  /-- Writing WMWIN.own takes the strand's latest accepted copy on the channel (R139). -/
  | wmwinOwn (t : Nat) (n : BitVec 2) (value : Word)
  /-- A write to DNOTE records DCAUSE event 12 (R168). -/
  | dnoteWrite (p : BitVec 3) (pc : Word)
  /-- A write changes the partition mode when the partition is quiet (R168). -/
  | dmodeWrite (p : BitVec 3) (value : Word)
  /-- A write sets the salt and resets the root ordinal and packet count (R168). -/
  | dsaltWrite (p : BitVec 3) (value : Word)
  /-- A write clears a DCAUSE entry's count and pc (R174). -/
  | dcauseClear (p : BitVec 3) (n : BitVec 4)
  /-- A write sets the running level and empties the fetch buffer (R240). -/
  | alevelWrite (p : BitVec 3) (value : Word)
  /-- A write sets tiering thresholds and enables or disables swaps (R55). -/
  | tierctlWrite (p : BitVec 3) (value : Word)
  /-- A master store sets a halted core's stage number (R22). -/
  | cstageWrite (core : Nat) (value : Word)
  /-- A master store creates or frees strands on a halted core (R204). -/
  | cschedStrandsWrite (core : Nat) (value : Word)
  /-- A store to a halted strand's state word sets its resume state and level (R203). -/
  | frameStateStore (t : Nat) (value : Word)
  /-- A kind-1 store into a register slot of a resident strand takes effect (R19). -/
  | frameRegisterStore (t off : Nat) (value : Word)
  /-- A write to a register with no behaviour of its own, under its field rules (R248). -/
  | registerWrite (reg : RegPlace) (value : Word)
  /-- A host access through a VF's memory window is performed at home (R404). -/
  | bar2Access (path : HostPath) (p : BitVec 3) (off : Nat) (size : Nat) (data : Option Word)
  /-- A host write forms, changes or dissolves a partition (R411). -/
  | pcmaskWrite (p : BitVec 3) (mask : BitVec 8)
  /-- The host writes a partition-kept CSR while the partition is held (R412). -/
  | csrWindowWrite (p : BitVec 3) (csr : BitVec 12) (value : Word)
  /-- The host launches the boot packet and releases the hold (R414). -/
  | pcbootGo (p : BitVec 3)
  /-- Mailbox operation returning serial number and firmware versions (R415). -/
  | identify (tag : BitVec 32) (len : BitVec 16)
  /-- Mailbox operation returning temperatures and power (R415). -/
  | readSensors (tag : BitVec 32) (len : BitVec 16) (temps : List (BitVec 16)) (power coolant : BitVec 32)
  /-- Mailbox operation returning corrected error counts (R415). -/
  | readErrorCounts (tag : BitVec 32) (len : BitVec 16) (io0 io1 : Word)
  /-- Mailbox operation writing a block of the staged image (R415). -/
  | stageFirmwareBlock (tag : BitVec 32) (len : BitVec 16)
  /-- Mailbox operation committing the staged image for the next reset (R415). -/
  | commitStagedImage (tag : BitVec 32) (len : BitVec 16)
  /-- Mailbox operation returning one SHAKE256 measurement (R415). -/
  | readMeasurement (tag : BitVec 32) (len : BitVec 16)
  /-- A mailbox operation ends, writing its response and setting done (R415). -/
  | mailboxOperationEnd
  /-- Reset is released and the module reaches stage 1 (R416). -/
  | resetRelease
  /-- Memory and die links are trained and link 1 enumerates (R416). -/
  | stage2
  /-- Staged capabilities are linked and partitions can be formed (R409). -/
  | stage3
  /-- A start stage fails and the failure code is set (R417). -/
  | stageFailure (code : BitVec 16)
  /-- An SPDM attestation request over DOE is answered (R418). -/
  | spdmRequest (request : List Byte)
  /-- A partition's TDI enters CONFIG_LOCKED or RUN (R419). -/
  | tdiConfigLock (p : BitVec 3) (link run : Bool)
  /-- Returns a TDI to CONFIG_UNLOCKED, gang-stopping and clearing its dies (R419). -/
  | stopInterface (p : BitVec 3)
  /-- A die junction exceeds 110 °C and compute dies lose power (R422). -/
  | thermalTrip
  /-- The arithmetic clock is lowered when power or temperature exceeds limits (R422). -/
  | throttle
  /-- Enabling a Slodun port reads and checks its ring records (R421). -/
  | slenEnable (port : Fin 12)
  /-- An arriving link block lands in its ring slot and decrements a gateway cell (R421). -/
  | receiveBlock (port : Fin 12) (data : BitVec 512) (scales : Word)
  /-- A write of SLTXD marks a transmit slot ready (R421). -/
  | sltxdReady (port : Fin 12) (slot : BitVec 32)
  /-- The port sends a ready transmit slot after earlier blocks (R421). -/
  | transmitBlock (port : Fin 12)
  /-- A Slodun port completes training (R420). -/
  | linkUp (port : Fin 12) (peer : BitVec 16) (lanes : BitVec 4)
  /-- A Slodun link drops and undelivered blocks are lost (R421). -/
  | linkDown (port : Fin 12)
  /-- The Slodun peer acknowledges transmitted blocks, advancing the block the transmit window is measured from (R421). -/
  | peerAcknowledgement (port : Fin 12) (block : BitVec 32)
  /-- A host write to a launch aperture slot that is partial or misaligned is dropped and the drop is reported to the partition fault queue (R225). -/
  | apertureWrite (path : HostPath) (p : BitVec 3) (off : Nat)
  deriving DecidableEq, Repr

end Sys2Proof
end

