-- ==== Sys2Proof/WellFormed.lean ====
section
/-! DEFINITION. Which instructions have an encoding: the coded fields hold no illegal code (R234, R237). -/

namespace Sys2Proof

/-- The format codes VCVT takes: 0 to 15 and 22 (R234, R273). -/
def cvtFormat (f : BitVec 5) : Bool := f.toNat ≤ 15 || f.toNat == 22

/-- The slots of a block-packed register by VBLK type (R274). -/
def blockSlots (t : BitVec 3) : Nat := if t.toNat = 2 ∨ t.toNat = 4 then 8 else 4

/-- The field checks of an instruction beyond its widths. A device step has no word, so nothing is checked of it. -/
def Instr.wf : Instr → Bool
  | .sext _ _ _ s => decide (s.toNat ≤ 2)
  | .zext _ _ _ s => decide (4 ≤ s.toNat) && decide (s.toNat ≤ 6)
  | .lds _ _ w _ => decide (w.toNat ≤ 6)
  | .sts _ _ w _ => decide (w.toNat ≤ 6)
  | .ldaq _ _ w c _ => decide (w.toNat ≤ 6) && decide (c.toNat ≤ 4)
  | .strl _ _ w c _ => decide (w.toNat ≤ 6) && decide (c.toNat ≤ 4)
  | .vld _ _ _ _ _ s => decide (s.toNat ≤ 4)
  | .vst _ _ _ _ _ s => decide (s.toNat ≤ 4)
  | .vldg _ _ _ _ s => decide (s.toNat ≤ 3)
  | .vsts _ _ _ _ s => decide (s.toNat ≤ 3)
  | .vldx _ _ _ k _ => decide (k.toNat ≠ 0)
  | .vstx _ _ _ k _ => decide (k.toNat ≠ 0)
  | .sld _ _ _ _ _ s => decide (s.toNat ≤ 3)
  | .sst _ _ _ _ _ s => decide (s.toNat ≤ 3)
  | .pfetch _ _ _ _ s => decide (s.toNat ≤ 5)
  | .aadd _ _ _ t _ s => decide (t.toNat ≤ 1) && decide (s.toNat ≤ 4)
  | .aand _ _ _ t _ s => decide (t.toNat ≤ 1) && decide (s.toNat ≤ 4)
  | .aor _ _ _ t _ s => decide (t.toNat ≤ 1) && decide (s.toNat ≤ 4)
  | .axor _ _ _ t _ s => decide (t.toNat ≤ 1) && decide (s.toNat ≤ 4)
  | .amin _ _ _ t _ s => decide (t.toNat ≤ 1) && decide (s.toNat ≤ 4)
  | .amax _ _ _ t _ s => decide (t.toNat ≤ 1) && decide (s.toNat ≤ 4)
  | .aminn _ _ _ t _ s => decide (t.toNat ≤ 1) && decide (s.toNat ≤ 4)
  | .amaxn _ _ _ t _ s => decide (t.toNat ≤ 1) && decide (s.toNat ≤ 4)
  | .axchg _ _ _ t _ s => decide (t.toNat ≤ 1) && decide (s.toNat ≤ 4)
  | .afadd _ _ _ _ s => decide (s.toNat ≤ 4)
  | .afaddh _ _ _ t _ s => decide (t.toNat ≤ 1) && decide (s.toNat ≤ 4)
  | .afmax _ _ _ t _ s => decide (t.toNat ≤ 2) && decide (s.toNat ≤ 4)
  | .acas _ _ _ t _ s => decide (t.toNat ≤ 1) && decide (s.toNat ≤ 4)
  | .fence _ s => decide (s.toNat ≤ 4)
  | .brsetf _ _ f _ => decide (f.toNat ≤ 11)
  | .brgetf _ _ f _ => decide (f.toNat ≤ 11)
  | .vabs _ _ _ t => decide (t.toNat ≤ 3)
  | .vneg _ _ _ t => decide (t.toNat ≤ 3)
  | .vfadd _ _ _ _ t => decide (t.toNat ≤ 2)
  | .vfsub _ _ _ _ t => decide (t.toNat ≤ 2)
  | .vfmul _ _ _ _ t => decide (t.toNat ≤ 2)
  | .vfma _ _ _ _ t => decide (t.toNat ≤ 2)
  | .vfms _ _ _ _ t => decide (t.toNat ≤ 2)
  | .vfnma _ _ _ _ t => decide (t.toNat ≤ 2)
  | .vfmin _ _ _ _ t => decide (t.toNat ≤ 4)
  | .vfmax _ _ _ _ t => decide (t.toNat ≤ 4)
  | .vfabs _ _ _ t => decide (t.toNat ≤ 4)
  | .vfneg _ _ _ t => decide (t.toNat ≤ 4)
  | .vfrcp _ _ _ t => decide (t.toNat ≤ 2)
  | .vfrsq _ _ _ t => decide (t.toNat ≤ 2)
  | .vfceq _ _ _ _ t => decide (t.toNat ≤ 4)
  | .vfclt _ _ _ _ t => decide (t.toNat ≤ 4)
  | .vfcle _ _ _ _ t => decide (t.toNat ≤ 4)
  | .vfclass _ _ _ t => decide (t.toNat ≤ 4)
  | .vcvt _ _ b _ g r => cvtFormat b && cvtFormat g && decide (r.toNat ≤ 6)
  | .vqblk _ _ b k t => decide (k.toNat ≠ 0) && decide (t.toNat ≤ 5) && decide (b.toNat < blockSlots t)
  | .vdqblk _ _ b k t => decide (k.toNat ≠ 0) && decide (t.toNat ≤ 5) && decide (b.toNat < blockSlots t)
  | .vbaddq _ _ k t => decide (k.toNat ≠ 0) && decide (k.toNat ≤ 6) && decide (t.toNat ≤ 5)
  | .vbscal _ k t => decide (k.toNat ≠ 0) && decide (t.toNat ≤ 5)
  | .vfredadd _ _ _ t => decide (t.toNat ≤ 2)
  | .vfredmax _ _ _ t => decide (t.toNat ≤ 2)
  | .vfscanadd _ _ _ t => decide (t.toNat ≤ 2)
  | .jcrd _ _ _ s => decide (s.toNat ≤ 3)
  | .ladr _ _ _ _ rm => decide (rm.toNat ≤ 5)
  | .topk _ _ _ _ _ sb _ _ sp _ => decide (sp = 1 ∨ sb = 0)
  | .rfork _ _ _ _ _ g => decide (g.toNat ≠ 0)
  | .send _ _ _ n => decide (n.toNat ≤ 8)
  | .sendm _ _ _ _ n => decide (n.toNat ≤ 8)
  | .halo _ _ _ hw => decide (hw.toNat ≠ 0)
  | .tmplinv t _ al => decide (al = 0 ∨ t = 0)
  | _ => true

end Sys2Proof
end

