-- ==== Sys2Proof/Decode.lean ====
section
/-! DEFINITION. The decoder of R238, total on any two words, and the encoder written from the same tables (R232 to R237). -/

namespace Sys2Proof

/-- Why a word is no instruction (R238). Each raises cause 0x01. -/
inductive Illegal where
  /-- a reserved major -/
  | major
  /-- an unassigned selector: fn, fn5, fn[3:0], opsel or imm[15:12] -/
  | selector
  /-- an illegal code in a coded field, a register out of its class, or a reserved-zero field that is not zero -/
  | field
  deriving DecidableEq, Repr

/-- The words of a well-formed instruction, the first word first. A device step has none. -/
def encode : Instr → List IWord
  | .add d a b h => [1#6 ++ d ++ a ++ b ++ 0#6 ++ h ++ 0#3]
  | .sub d a b h => [1#6 ++ d ++ a ++ b ++ 1#6 ++ h ++ 0#3]
  | .and d a b h => [1#6 ++ d ++ a ++ b ++ 2#6 ++ h ++ 0#3]
  | .or d a b h => [1#6 ++ d ++ a ++ b ++ 3#6 ++ h ++ 0#3]
  | .xor d a b h => [1#6 ++ d ++ a ++ b ++ 4#6 ++ h ++ 0#3]
  | .andn d a b h => [1#6 ++ d ++ a ++ b ++ 5#6 ++ h ++ 0#3]
  | .shl d a b h => [1#6 ++ d ++ a ++ b ++ 6#6 ++ h ++ 0#3]
  | .shr d a b h => [1#6 ++ d ++ a ++ b ++ 7#6 ++ h ++ 0#3]
  | .sha d a b h => [1#6 ++ d ++ a ++ b ++ 8#6 ++ h ++ 0#3]
  | .rotl d a b h => [1#6 ++ d ++ a ++ b ++ 9#6 ++ h ++ 0#3]
  | .min d a b h => [1#6 ++ d ++ a ++ b ++ 10#6 ++ h ++ 0#3]
  | .max d a b h => [1#6 ++ d ++ a ++ b ++ 11#6 ++ h ++ 0#3]
  | .minn d a b h => [1#6 ++ d ++ a ++ b ++ 12#6 ++ h ++ 0#3]
  | .maxn d a b h => [1#6 ++ d ++ a ++ b ++ 13#6 ++ h ++ 0#3]
  | .slt d a b h => [1#6 ++ d ++ a ++ b ++ 14#6 ++ h ++ 0#3]
  | .sltn d a b h => [1#6 ++ d ++ a ++ b ++ 15#6 ++ h ++ 0#3]
  | .seq d a b h => [1#6 ++ d ++ a ++ b ++ 16#6 ++ h ++ 0#3]
  | .clz d a h => [1#6 ++ d ++ a ++ 17#11 ++ h ++ 0#3]
  | .ctz d a h => [1#6 ++ d ++ a ++ 18#11 ++ h ++ 0#3]
  | .popc d a h => [1#6 ++ d ++ a ++ 19#11 ++ h ++ 0#3]
  | .sext d a h s => [1#6 ++ d ++ a ++ 20#11 ++ h ++ s]
  | .zext d a h s => [1#6 ++ d ++ a ++ 21#11 ++ h ++ s]
  | .lea d a b h s => [1#6 ++ d ++ a ++ b ++ 22#6 ++ h ++ s]
  | .mul d a b h => [1#6 ++ d ++ a ++ b ++ 23#6 ++ h ++ 0#3]
  | .mulh d a b h => [1#6 ++ d ++ a ++ b ++ 24#6 ++ h ++ 0#3]
  | .mulhn d a b h => [1#6 ++ d ++ a ++ b ++ 25#6 ++ h ++ 0#3]
  | .div d a b h => [1#6 ++ d ++ a ++ b ++ 26#6 ++ h ++ 0#3]
  | .divn d a b h => [1#6 ++ d ++ a ++ b ++ 27#6 ++ h ++ 0#3]
  | .rem d a b h => [1#6 ++ d ++ a ++ b ++ 28#6 ++ h ++ 0#3]
  | .remn d a b h => [1#6 ++ d ++ a ++ b ++ 29#6 ++ h ++ 0#3]
  | .cmov d a b h => [1#6 ++ d ++ a ++ b ++ 30#6 ++ h ++ 0#3]
  | .addi d a i => [2#6 ++ d ++ a ++ i]
  | .andi d a i => [3#6 ++ d ++ a ++ i]
  | .ori d a i => [4#6 ++ d ++ a ++ i]
  | .xori d a i => [5#6 ++ d ++ a ++ i]
  | .slti d a i => [6#6 ++ d ++ a ++ i]
  | .shi d a k c => [7#6 ++ d ++ a ++ 0#8 ++ k ++ c]
  | .lih d i => [8#6 ++ d ++ 0#5 ++ i]
  | .lix d a i => [9#6 ++ d ++ a ++ i]
  | .beq a b i => [10#6 ++ a ++ b ++ i]
  | .bne a b i => [11#6 ++ a ++ b ++ i]
  | .blt a b i => [12#6 ++ a ++ b ++ i]
  | .bge a b i => [13#6 ++ a ++ b ++ i]
  | .bltn a b i => [14#6 ++ a ++ b ++ i]
  | .bgen a b i => [15#6 ++ a ++ b ++ i]
  | .j i => [16#6 ++ i]
  | .jl i => [17#6 ++ i]
  | .jlr d a i => [18#6 ++ d ++ a ++ i]
  | .lds d a w i => [20#6 ++ d ++ a ++ w ++ i]
  | .sts d a w i => [21#6 ++ d ++ a ++ w ++ i]
  | .ldaq d a w c i => [22#6 ++ d ++ a ++ w ++ c ++ i]
  | .strl d a w c i => [23#6 ++ d ++ a ++ w ++ c ++ i]
  | .vld d r o i h s => [24#6 ++ d ++ r ++ o ++ i ++ h ++ s]
  | .vst d r o i h s => [25#6 ++ d ++ r ++ o ++ i ++ h ++ s]
  | .vldg d r o h s => [26#6 ++ d ++ r ++ o ++ 0#7 ++ h ++ s]
  | .vsts d r o h s => [27#6 ++ d ++ r ++ o ++ 0#7 ++ h ++ s]
  | .vldx d r o k h => [28#6 ++ d ++ r ++ o ++ 0#4 ++ k ++ h ++ 5#3]
  | .vstx d r o k h => [29#6 ++ d ++ r ++ o ++ 0#4 ++ k ++ h ++ 5#3]
  | .sld d r o i h s => [30#6 ++ d ++ r ++ o ++ i ++ h ++ s]
  | .sst d r o i h s => [31#6 ++ d ++ r ++ o ++ i ++ h ++ s]
  | .pfetch r o i h s => [1152#11 ++ r ++ o ++ i ++ h ++ s]
  | .aadd d a b t h s => [32#6 ++ d ++ a ++ b ++ t ++ 0#4 ++ h ++ s]
  | .aand d a b t h s => [32#6 ++ d ++ a ++ b ++ t ++ 1#4 ++ h ++ s]
  | .aor d a b t h s => [32#6 ++ d ++ a ++ b ++ t ++ 2#4 ++ h ++ s]
  | .axor d a b t h s => [32#6 ++ d ++ a ++ b ++ t ++ 3#4 ++ h ++ s]
  | .amin d a b t h s => [32#6 ++ d ++ a ++ b ++ t ++ 4#4 ++ h ++ s]
  | .amax d a b t h s => [32#6 ++ d ++ a ++ b ++ t ++ 5#4 ++ h ++ s]
  | .aminn d a b t h s => [32#6 ++ d ++ a ++ b ++ t ++ 6#4 ++ h ++ s]
  | .amaxn d a b t h s => [32#6 ++ d ++ a ++ b ++ t ++ 7#4 ++ h ++ s]
  | .axchg d a b t h s => [32#6 ++ d ++ a ++ b ++ t ++ 8#4 ++ h ++ s]
  | .afadd d a b h s => [32#6 ++ d ++ a ++ b ++ 9#6 ++ h ++ s]
  | .afaddh d a b t h s => [32#6 ++ d ++ a ++ b ++ t ++ 10#4 ++ h ++ s]
  | .afmax d a b t h s => [32#6 ++ d ++ a ++ b ++ t ++ 11#4 ++ h ++ s]
  | .acas d a b t h s => [33#6 ++ d ++ a ++ b ++ t ++ 0#4 ++ h ++ s]
  | .fence h s => [71303168#27 ++ h ++ s]
  | .lbfenc h => [71303169#27 ++ h ++ 0#3]
  | .ifenc h => [71303170#27 ++ h ++ 0#3]
  | .efenc h => [71303171#27 ++ h ++ 0#3]
  | .brld d a h => [70#7 ++ d ++ a ++ 0#11 ++ h ++ 0#3]
  | .brst d a h => [70#7 ++ d ++ a ++ 1#11 ++ h ++ 0#3]
  | .brsetf d a f h => [70#7 ++ d ++ a ++ f ++ 2#6 ++ h ++ 0#3]
  | .brgetf d a f h => [35#6 ++ d ++ 0#1 ++ a ++ f ++ 3#6 ++ h ++ 0#3]
  | .brcpy d a h => [70#7 ++ d ++ 0#1 ++ a ++ 4#11 ++ h ++ 0#3]
  | .qrd d h q => [37#6 ++ d ++ 0#16 ++ h ++ q]
  | .qwr a h q => [1184#11 ++ a ++ 1#11 ++ h ++ q]
  | .qtry d a h q => [37#6 ++ d ++ a ++ 2#11 ++ h ++ q]
  | .qcnt d h q => [37#6 ++ d ++ 3#16 ++ h ++ q]
  | .qpair a h => [1184#11 ++ a ++ 4#11 ++ h ++ 0#3]
  | .vadd d a b m t => [38#6 ++ d ++ a ++ b ++ m ++ 0#5 ++ t]
  | .vsub d a b m t => [38#6 ++ d ++ a ++ b ++ m ++ 1#5 ++ t]
  | .vmul d a b m t => [38#6 ++ d ++ a ++ b ++ m ++ 2#5 ++ t]
  | .vmulh d a b m t => [38#6 ++ d ++ a ++ b ++ m ++ 3#5 ++ t]
  | .vmin d a b m t => [38#6 ++ d ++ a ++ b ++ m ++ 4#5 ++ t]
  | .vmax d a b m t => [38#6 ++ d ++ a ++ b ++ m ++ 5#5 ++ t]
  | .vand d a b m t => [38#6 ++ d ++ a ++ b ++ m ++ 6#5 ++ t]
  | .vor d a b m t => [38#6 ++ d ++ a ++ b ++ m ++ 7#5 ++ t]
  | .vxor d a b m t => [38#6 ++ d ++ a ++ b ++ m ++ 8#5 ++ t]
  | .vshl d a b m t => [38#6 ++ d ++ a ++ b ++ m ++ 9#5 ++ t]
  | .vshr d a b m t => [38#6 ++ d ++ a ++ b ++ m ++ 10#5 ++ t]
  | .vsha d a b m t => [38#6 ++ d ++ a ++ b ++ m ++ 11#5 ++ t]
  | .vabs d a m t => [38#6 ++ d ++ a ++ 0#5 ++ m ++ 12#5 ++ t]
  | .vneg d a m t => [38#6 ++ d ++ a ++ 0#5 ++ m ++ 13#5 ++ t]
  | .vadds d a b m t => [38#6 ++ d ++ a ++ b ++ m ++ 14#5 ++ t]
  | .vsubs d a b m t => [38#6 ++ d ++ a ++ b ++ m ++ 15#5 ++ t]
  | .vcmpeq d a b m t => [152#8 ++ d ++ a ++ b ++ m ++ 16#5 ++ t]
  | .vcmplt d a b m t => [152#8 ++ d ++ a ++ b ++ m ++ 17#5 ++ t]
  | .vcmple d a b m t => [152#8 ++ d ++ a ++ b ++ m ++ 18#5 ++ t]
  | .vsel d a b m t => [38#6 ++ d ++ a ++ b ++ m ++ 19#5 ++ t]
  | .vfadd d a b m t => [39#6 ++ d ++ a ++ b ++ m ++ 0#5 ++ t]
  | .vfsub d a b m t => [39#6 ++ d ++ a ++ b ++ m ++ 1#5 ++ t]
  | .vfmul d a b m t => [39#6 ++ d ++ a ++ b ++ m ++ 2#5 ++ t]
  | .vfma d a b m t => [39#6 ++ d ++ a ++ b ++ m ++ 3#5 ++ t]
  | .vfms d a b m t => [39#6 ++ d ++ a ++ b ++ m ++ 4#5 ++ t]
  | .vfnma d a b m t => [39#6 ++ d ++ a ++ b ++ m ++ 5#5 ++ t]
  | .vfmin d a b m t => [39#6 ++ d ++ a ++ b ++ m ++ 6#5 ++ t]
  | .vfmax d a b m t => [39#6 ++ d ++ a ++ b ++ m ++ 7#5 ++ t]
  | .vfabs d a m t => [39#6 ++ d ++ a ++ 0#5 ++ m ++ 8#5 ++ t]
  | .vfneg d a m t => [39#6 ++ d ++ a ++ 0#5 ++ m ++ 9#5 ++ t]
  | .vfrcp d a m t => [39#6 ++ d ++ a ++ 0#5 ++ m ++ 10#5 ++ t]
  | .vfrsq d a m t => [39#6 ++ d ++ a ++ 0#5 ++ m ++ 11#5 ++ t]
  | .vfceq d a b m t => [156#8 ++ d ++ a ++ b ++ m ++ 12#5 ++ t]
  | .vfclt d a b m t => [156#8 ++ d ++ a ++ b ++ m ++ 13#5 ++ t]
  | .vfcle d a b m t => [156#8 ++ d ++ a ++ b ++ m ++ 14#5 ++ t]
  | .vfclass d a m t => [39#6 ++ d ++ a ++ 0#5 ++ m ++ 15#5 ++ t]
  | .vcvt d a b m g r => [40#6 ++ d ++ a ++ b ++ m ++ g ++ r]
  | .vqblk d a b k t => [41#6 ++ d ++ a ++ b ++ k ++ 0#5 ++ t]
  | .vdqblk d a b k t => [41#6 ++ d ++ a ++ b ++ k ++ 1#5 ++ t]
  | .vbaddq d a k t => [41#6 ++ d ++ a ++ 0#5 ++ k ++ 2#5 ++ t]
  | .vbscal a k t => [1312#11 ++ a ++ 0#5 ++ k ++ 3#5 ++ t]
  | .vbcast d a m t => [42#6 ++ d ++ a ++ 0#5 ++ m ++ 0#5 ++ t]
  | .vext d a b t => [42#6 ++ d ++ a ++ b ++ 1#8 ++ t]
  | .vins d a b t => [42#6 ++ d ++ a ++ b ++ 2#8 ++ t]
  | .vperm d a b m t => [42#6 ++ d ++ a ++ b ++ m ++ 3#5 ++ t]
  | .vcomp d a b m t => [42#6 ++ d ++ a ++ b ++ m ++ 4#5 ++ t]
  | .vexpd d a m t => [42#6 ++ d ++ a ++ 0#5 ++ m ++ 5#5 ++ t]
  | .viota d a m t => [42#6 ++ d ++ a ++ 0#5 ++ m ++ 6#5 ++ t]
  | .vslide d a b m t => [42#6 ++ d ++ a ++ b ++ m ++ 7#5 ++ t]
  | .vmov d a m t => [42#6 ++ d ++ a ++ 0#5 ++ m ++ 8#5 ++ t]
  | .vredadd d a m t => [43#6 ++ d ++ a ++ 0#5 ++ m ++ 0#5 ++ t]
  | .vredmax d a m t => [43#6 ++ d ++ a ++ 0#5 ++ m ++ 1#5 ++ t]
  | .vredmin d a m t => [43#6 ++ d ++ a ++ 0#5 ++ m ++ 2#5 ++ t]
  | .vfredadd d a m t => [43#6 ++ d ++ a ++ 0#5 ++ m ++ 3#5 ++ t]
  | .vfredmax d a m t => [43#6 ++ d ++ a ++ 0#5 ++ m ++ 4#5 ++ t]
  | .vscanadd d a m t => [43#6 ++ d ++ a ++ 0#5 ++ m ++ 5#5 ++ t]
  | .vfscanadd d a m t => [43#6 ++ d ++ a ++ 0#5 ++ m ++ 6#5 ++ t]
  | .kand d a b => [176#8 ++ d ++ 0#2 ++ a ++ 0#2 ++ b ++ 0#11]
  | .kor d a b => [176#8 ++ d ++ 0#2 ++ a ++ 0#2 ++ b ++ 8#11]
  | .kxor d a b => [176#8 ++ d ++ 0#2 ++ a ++ 0#2 ++ b ++ 16#11]
  | .knot d a => [176#8 ++ d ++ 0#2 ++ a ++ 24#16]
  | .kmov d a => [176#8 ++ d ++ 0#2 ++ a ++ 32#16]
  | .kget d a => [44#6 ++ d ++ 0#2 ++ a ++ 40#16]
  | .kpopc d a => [44#6 ++ d ++ 0#2 ++ a ++ 48#16]
  | .kfirst d a => [44#6 ++ d ++ 0#2 ++ a ++ 56#16]
  | .vrand d a b m => [45#6 ++ d ++ a ++ b ++ m ++ 6#8]
  | .vlive a => [1440#11 ++ a ++ 8#16]
  | .fork d a b h => [46#6 ++ d ++ a ++ b ++ 0#6 ++ h ++ 0#3]
  | .forkP d a b h p => [46#6 ++ d ++ a ++ b ++ 0#6 ++ h ++ 1#1 ++ p]
  | .done n h => [47104#16 ++ n ++ 1#6 ++ h ++ 0#3]
  | .yield h => [96468994#27 ++ h ++ 0#3]
  | .jcinit d a b h => [46#6 ++ d ++ a ++ b ++ 3#6 ++ h ++ 0#3]
  | .jcinitForce d a b h => [46#6 ++ d ++ a ++ b ++ 3#6 ++ h ++ 1#3]
  | .jcdec d a n h => [46#6 ++ d ++ a ++ n ++ 4#6 ++ h ++ 0#3]
  | .jcwait a h => [1472#11 ++ a ++ 5#11 ++ h ++ 0#3]
  | .jcrd d a h s => [46#6 ++ d ++ a ++ 6#11 ++ h ++ s]
  | .sealg d a b h => [46#6 ++ d ++ a ++ b ++ 7#6 ++ h ++ 0#3]
  | .sealq d a h => [46#6 ++ d ++ a ++ 8#11 ++ h ++ 0#3]
  | .self d a h => [46#6 ++ d ++ a ++ 9#11 ++ h ++ 0#3]
  | .gate h => [96469002#27 ++ h ++ 0#3]
  | .migr d a h => [46#6 ++ d ++ a ++ 11#11 ++ h ++ 0#3]
  | .csrrd d c => [48#6 ++ d ++ 0#9 ++ c]
  | .csrwr d a c => [48#6 ++ d ++ a ++ 1#4 ++ c]
  | .csrset d a c => [48#6 ++ d ++ a ++ 2#4 ++ c]
  | .csrclr d a c => [48#6 ++ d ++ a ++ 3#4 ++ c]
  | .sysc c => [786436#20 ++ c]
  | .trap c => [786437#20 ++ c]
  | .eret => [3221250048#32]
  | .brk => [3221254144#32]
  | .haltg g => [201328640#28 ++ g]
  | .wfi => [3221262336#32]
  | .rkset a b h => [1568#11 ++ a ++ b ++ 0#6 ++ h ++ 0#3]
  | .rktrn a b h => [1568#11 ++ a ++ b ++ 1#6 ++ h ++ 0#3]
  | .tlbinv a h => [1568#11 ++ a ++ 2#11 ++ h ++ 0#3]
  | .tlbinvRng a h => [1568#11 ++ a ++ 2#11 ++ h ++ 1#3]
  | .tlbinvAll h => [102760450#27 ++ h ++ 2#3]
  | .ptsync h => [102760451#27 ++ h ++ 0#3]
  | .part d a b h => [49#6 ++ d ++ a ++ b ++ 4#6 ++ h ++ 0#3]
  | .preemptSave d a h => [49#6 ++ d ++ a ++ 5#11 ++ h ++ 0#3]
  | .preemptRest d a h => [49#6 ++ d ++ a ++ 5#11 ++ h ++ 1#3]
  | .lmm rc ra n f h c w u cs => [1792#11 ++ rc ++ 0#1 ++ ra ++ n ++ f ++ h, c ++ w ++ u ++ cs ++ 0#21]
  | .lmmg rc ra ro c h w u cs => [1794#11 ++ rc ++ 0#1 ++ ra ++ 0#1 ++ ro ++ c ++ h, 0#5 ++ w ++ u ++ cs ++ 0#21]
  | .lmms rc ra n f h c w u cs => [1796#11 ++ rc ++ 0#1 ++ ra ++ n ++ f ++ h, c ++ w ++ u ++ cs ++ 0#21]
  | .lbld rb p c h => [1798#11 ++ rb ++ p ++ c ++ 0#5 ++ h, 0#32]
  | .lbswp h => [943718400#30 ++ h, 0#32]
  | .laini rc c h w => [1802#11 ++ rc ++ c ++ 0#10 ++ h, 0#5 ++ w ++ 0#24]
  | .ladr rd rc c h rm => [1804#11 ++ rd ++ 0#1 ++ rc ++ c ++ 0#5 ++ h, 0#29 ++ rm]
  | .lsemi a h w => [903#10 ++ a ++ 0#15 ++ h, 0#5 ++ w ++ 0#24]
  | .lstat d h => [904#10 ++ d ++ 0#15 ++ h, 0#32]
  | .topk ro rs p c h sb mn ky sp cl => [1824#11 ++ ro ++ 0#1 ++ rs ++ p ++ c ++ h, 0#23 ++ sb ++ mn ++ ky ++ sp ++ cl]
  | .rcsnap rd a h => [1826#11 ++ rd ++ a ++ 0#10 ++ h, 0#32]
  | .rcrd d a h x => [914#10 ++ d ++ a ++ 0#10 ++ h, 0#31 ++ x]
  | .rfork j c f t h g => [928#10 ++ j ++ c ++ f ++ t ++ h, 0#16 ++ g]
  | .mfork p h => [929#10 ++ p ++ 0#15 ++ h, 0#32]
  | .send d hd h n => [944#10 ++ d ++ hd ++ 0#10 ++ h, 0#28 ++ n]
  | .sendm d hd m h n => [945#10 ++ d ++ hd ++ m ++ 0#5 ++ h, 0#28 ++ n]
  | .rread d rl sr c h => [946#10 ++ d ++ 0#1 ++ rl ++ sr ++ c ++ h, 0#32]
  | .halo rt nb h hw => [1894#11 ++ rt ++ nb ++ 0#10 ++ h, 0#28 ++ hw]
  | .rwrite d rs rt c h => [948#10 ++ d ++ 0#1 ++ rs ++ 0#1 ++ rt ++ c ++ h, 0#32]
  | .shdw r h => [1920#11 ++ r ++ 0#15 ++ h, 0#32]
  | .publ r h => [1922#11 ++ r ++ 0#15 ++ h, 0#32]
  | .disc r h => [1924#11 ++ r ++ 0#15 ++ h, 0#32]
  | .cpyt a t h => [963#10 ++ a ++ t ++ 0#10 ++ h, 0#32]
  | .wmrd d a h => [964#10 ++ d ++ a ++ 0#10 ++ h, 0#32]
  | .digest rd rs h => [1930#11 ++ rd ++ 0#1 ++ rs ++ 0#10 ++ h, 0#32]
  | .tmplinv t h al => [966#10 ++ t ++ 0#15 ++ h, 0#31 ++ al]
  | .spec d sr ra h => [976#10 ++ d ++ sr ++ 0#1 ++ ra ++ 0#5 ++ h, 0#32]
  | .hrel hd h => [977#10 ++ hd ++ 0#15 ++ h, 0#32]
  | .href hd h => [978#10 ++ hd ++ 0#15 ++ h, 0#32]
  | .hcall hd h => [979#10 ++ hd ++ 0#15 ++ h, 0#32]
  | .hstat d hd h => [980#10 ++ d ++ hd ++ 0#10 ++ h, 0#32]
  | .stgdef a r h => [992#10 ++ a ++ 0#1 ++ r ++ 0#10 ++ h, 0#32]
  | .stgput st i h => [993#10 ++ st ++ i ++ 0#10 ++ h, 0#32]
  | .stgend st i o h => [994#10 ++ st ++ i ++ o ++ 0#5 ++ h, 0#32]
  | .stgsnap rd st w h => [1990#11 ++ rd ++ st ++ w ++ 0#5 ++ h, 0#32]
  | .stgseq st i h => [996#10 ++ st ++ i ++ 0#10 ++ h, 0#32]
  | .glnch rt dd h => [2016#11 ++ rt ++ dd ++ 0#10 ++ h, 0#32]
  | .gres a h => [1009#10 ++ a ++ 0#15 ++ h, 0#32]
  | .gstat d a h => [1010#10 ++ d ++ a ++ 0#10 ++ h, 0#32]
  | _ => []

/-- An instruction whose field checks passed, or the refusal of a bad field. -/
def fieldsOk (ok : Bool) (i : Instr) : Except Illegal Instr :=
  if ok && i.wf then .ok i else .error .field

/-- Major 0x01, ALU (R236). -/
def decode01 (w : IWord) : Except Illegal Instr :=
  match (w.extractLsb' 5 6).toNat with
  | 0 => fieldsOk (w.extractLsb' 0 3 == 0#3) (.add (w.extractLsb' 21 5) (w.extractLsb' 16 5) (w.extractLsb' 11 5) (w.extractLsb' 3 2))
  | 1 => fieldsOk (w.extractLsb' 0 3 == 0#3) (.sub (w.extractLsb' 21 5) (w.extractLsb' 16 5) (w.extractLsb' 11 5) (w.extractLsb' 3 2))
  | 2 => fieldsOk (w.extractLsb' 0 3 == 0#3) (.and (w.extractLsb' 21 5) (w.extractLsb' 16 5) (w.extractLsb' 11 5) (w.extractLsb' 3 2))
  | 3 => fieldsOk (w.extractLsb' 0 3 == 0#3) (.or (w.extractLsb' 21 5) (w.extractLsb' 16 5) (w.extractLsb' 11 5) (w.extractLsb' 3 2))
  | 4 => fieldsOk (w.extractLsb' 0 3 == 0#3) (.xor (w.extractLsb' 21 5) (w.extractLsb' 16 5) (w.extractLsb' 11 5) (w.extractLsb' 3 2))
  | 5 => fieldsOk (w.extractLsb' 0 3 == 0#3) (.andn (w.extractLsb' 21 5) (w.extractLsb' 16 5) (w.extractLsb' 11 5) (w.extractLsb' 3 2))
  | 6 => fieldsOk (w.extractLsb' 0 3 == 0#3) (.shl (w.extractLsb' 21 5) (w.extractLsb' 16 5) (w.extractLsb' 11 5) (w.extractLsb' 3 2))
  | 7 => fieldsOk (w.extractLsb' 0 3 == 0#3) (.shr (w.extractLsb' 21 5) (w.extractLsb' 16 5) (w.extractLsb' 11 5) (w.extractLsb' 3 2))
  | 8 => fieldsOk (w.extractLsb' 0 3 == 0#3) (.sha (w.extractLsb' 21 5) (w.extractLsb' 16 5) (w.extractLsb' 11 5) (w.extractLsb' 3 2))
  | 9 => fieldsOk (w.extractLsb' 0 3 == 0#3) (.rotl (w.extractLsb' 21 5) (w.extractLsb' 16 5) (w.extractLsb' 11 5) (w.extractLsb' 3 2))
  | 10 => fieldsOk (w.extractLsb' 0 3 == 0#3) (.min (w.extractLsb' 21 5) (w.extractLsb' 16 5) (w.extractLsb' 11 5) (w.extractLsb' 3 2))
  | 11 => fieldsOk (w.extractLsb' 0 3 == 0#3) (.max (w.extractLsb' 21 5) (w.extractLsb' 16 5) (w.extractLsb' 11 5) (w.extractLsb' 3 2))
  | 12 => fieldsOk (w.extractLsb' 0 3 == 0#3) (.minn (w.extractLsb' 21 5) (w.extractLsb' 16 5) (w.extractLsb' 11 5) (w.extractLsb' 3 2))
  | 13 => fieldsOk (w.extractLsb' 0 3 == 0#3) (.maxn (w.extractLsb' 21 5) (w.extractLsb' 16 5) (w.extractLsb' 11 5) (w.extractLsb' 3 2))
  | 14 => fieldsOk (w.extractLsb' 0 3 == 0#3) (.slt (w.extractLsb' 21 5) (w.extractLsb' 16 5) (w.extractLsb' 11 5) (w.extractLsb' 3 2))
  | 15 => fieldsOk (w.extractLsb' 0 3 == 0#3) (.sltn (w.extractLsb' 21 5) (w.extractLsb' 16 5) (w.extractLsb' 11 5) (w.extractLsb' 3 2))
  | 16 => fieldsOk (w.extractLsb' 0 3 == 0#3) (.seq (w.extractLsb' 21 5) (w.extractLsb' 16 5) (w.extractLsb' 11 5) (w.extractLsb' 3 2))
  | 17 => fieldsOk (w.extractLsb' 11 5 == 0#5 && w.extractLsb' 0 3 == 0#3) (.clz (w.extractLsb' 21 5) (w.extractLsb' 16 5) (w.extractLsb' 3 2))
  | 18 => fieldsOk (w.extractLsb' 11 5 == 0#5 && w.extractLsb' 0 3 == 0#3) (.ctz (w.extractLsb' 21 5) (w.extractLsb' 16 5) (w.extractLsb' 3 2))
  | 19 => fieldsOk (w.extractLsb' 11 5 == 0#5 && w.extractLsb' 0 3 == 0#3) (.popc (w.extractLsb' 21 5) (w.extractLsb' 16 5) (w.extractLsb' 3 2))
  | 20 => fieldsOk (w.extractLsb' 11 5 == 0#5) (.sext (w.extractLsb' 21 5) (w.extractLsb' 16 5) (w.extractLsb' 3 2) (w.extractLsb' 0 3))
  | 21 => fieldsOk (w.extractLsb' 11 5 == 0#5) (.zext (w.extractLsb' 21 5) (w.extractLsb' 16 5) (w.extractLsb' 3 2) (w.extractLsb' 0 3))
  | 22 => fieldsOk (true) (.lea (w.extractLsb' 21 5) (w.extractLsb' 16 5) (w.extractLsb' 11 5) (w.extractLsb' 3 2) (w.extractLsb' 0 3))
  | 23 => fieldsOk (w.extractLsb' 0 3 == 0#3) (.mul (w.extractLsb' 21 5) (w.extractLsb' 16 5) (w.extractLsb' 11 5) (w.extractLsb' 3 2))
  | 24 => fieldsOk (w.extractLsb' 0 3 == 0#3) (.mulh (w.extractLsb' 21 5) (w.extractLsb' 16 5) (w.extractLsb' 11 5) (w.extractLsb' 3 2))
  | 25 => fieldsOk (w.extractLsb' 0 3 == 0#3) (.mulhn (w.extractLsb' 21 5) (w.extractLsb' 16 5) (w.extractLsb' 11 5) (w.extractLsb' 3 2))
  | 26 => fieldsOk (w.extractLsb' 0 3 == 0#3) (.div (w.extractLsb' 21 5) (w.extractLsb' 16 5) (w.extractLsb' 11 5) (w.extractLsb' 3 2))
  | 27 => fieldsOk (w.extractLsb' 0 3 == 0#3) (.divn (w.extractLsb' 21 5) (w.extractLsb' 16 5) (w.extractLsb' 11 5) (w.extractLsb' 3 2))
  | 28 => fieldsOk (w.extractLsb' 0 3 == 0#3) (.rem (w.extractLsb' 21 5) (w.extractLsb' 16 5) (w.extractLsb' 11 5) (w.extractLsb' 3 2))
  | 29 => fieldsOk (w.extractLsb' 0 3 == 0#3) (.remn (w.extractLsb' 21 5) (w.extractLsb' 16 5) (w.extractLsb' 11 5) (w.extractLsb' 3 2))
  | 30 => fieldsOk (w.extractLsb' 0 3 == 0#3) (.cmov (w.extractLsb' 21 5) (w.extractLsb' 16 5) (w.extractLsb' 11 5) (w.extractLsb' 3 2))
  | _ => .error .selector

/-- Major 0x20, ATOM (R236). -/
def decode20 (w : IWord) : Except Illegal Instr :=
  match (w.extractLsb' 5 4).toNat with
  | 0 => fieldsOk (true) (.aadd (w.extractLsb' 21 5) (w.extractLsb' 16 5) (w.extractLsb' 11 5) (w.extractLsb' 9 2) (w.extractLsb' 3 2) (w.extractLsb' 0 3))
  | 1 => fieldsOk (true) (.aand (w.extractLsb' 21 5) (w.extractLsb' 16 5) (w.extractLsb' 11 5) (w.extractLsb' 9 2) (w.extractLsb' 3 2) (w.extractLsb' 0 3))
  | 2 => fieldsOk (true) (.aor (w.extractLsb' 21 5) (w.extractLsb' 16 5) (w.extractLsb' 11 5) (w.extractLsb' 9 2) (w.extractLsb' 3 2) (w.extractLsb' 0 3))
  | 3 => fieldsOk (true) (.axor (w.extractLsb' 21 5) (w.extractLsb' 16 5) (w.extractLsb' 11 5) (w.extractLsb' 9 2) (w.extractLsb' 3 2) (w.extractLsb' 0 3))
  | 4 => fieldsOk (true) (.amin (w.extractLsb' 21 5) (w.extractLsb' 16 5) (w.extractLsb' 11 5) (w.extractLsb' 9 2) (w.extractLsb' 3 2) (w.extractLsb' 0 3))
  | 5 => fieldsOk (true) (.amax (w.extractLsb' 21 5) (w.extractLsb' 16 5) (w.extractLsb' 11 5) (w.extractLsb' 9 2) (w.extractLsb' 3 2) (w.extractLsb' 0 3))
  | 6 => fieldsOk (true) (.aminn (w.extractLsb' 21 5) (w.extractLsb' 16 5) (w.extractLsb' 11 5) (w.extractLsb' 9 2) (w.extractLsb' 3 2) (w.extractLsb' 0 3))
  | 7 => fieldsOk (true) (.amaxn (w.extractLsb' 21 5) (w.extractLsb' 16 5) (w.extractLsb' 11 5) (w.extractLsb' 9 2) (w.extractLsb' 3 2) (w.extractLsb' 0 3))
  | 8 => fieldsOk (true) (.axchg (w.extractLsb' 21 5) (w.extractLsb' 16 5) (w.extractLsb' 11 5) (w.extractLsb' 9 2) (w.extractLsb' 3 2) (w.extractLsb' 0 3))
  | 9 => fieldsOk (w.extractLsb' 9 2 == 0#2) (.afadd (w.extractLsb' 21 5) (w.extractLsb' 16 5) (w.extractLsb' 11 5) (w.extractLsb' 3 2) (w.extractLsb' 0 3))
  | 10 => fieldsOk (true) (.afaddh (w.extractLsb' 21 5) (w.extractLsb' 16 5) (w.extractLsb' 11 5) (w.extractLsb' 9 2) (w.extractLsb' 3 2) (w.extractLsb' 0 3))
  | 11 => fieldsOk (true) (.afmax (w.extractLsb' 21 5) (w.extractLsb' 16 5) (w.extractLsb' 11 5) (w.extractLsb' 9 2) (w.extractLsb' 3 2) (w.extractLsb' 0 3))
  | _ => .error .selector

/-- Major 0x21, ACAS (R236). -/
def decode21 (w : IWord) : Except Illegal Instr :=
  match (w.extractLsb' 5 4).toNat with
  | 0 => fieldsOk (true) (.acas (w.extractLsb' 21 5) (w.extractLsb' 16 5) (w.extractLsb' 11 5) (w.extractLsb' 9 2) (w.extractLsb' 3 2) (w.extractLsb' 0 3))
  | _ => .error .selector

/-- Major 0x22, FENCE (R236). -/
def decode22 (w : IWord) : Except Illegal Instr :=
  match (w.extractLsb' 5 6).toNat with
  | 0 => fieldsOk (w.extractLsb' 11 15 == 0#15) (.fence (w.extractLsb' 3 2) (w.extractLsb' 0 3))
  | 1 => fieldsOk (w.extractLsb' 11 15 == 0#15 && w.extractLsb' 0 3 == 0#3) (.lbfenc (w.extractLsb' 3 2))
  | 2 => fieldsOk (w.extractLsb' 11 15 == 0#15 && w.extractLsb' 0 3 == 0#3) (.ifenc (w.extractLsb' 3 2))
  | 3 => fieldsOk (w.extractLsb' 11 15 == 0#15 && w.extractLsb' 0 3 == 0#3) (.efenc (w.extractLsb' 3 2))
  | _ => .error .selector

/-- Major 0x23, BREC (R236). -/
def decode23 (w : IWord) : Except Illegal Instr :=
  match (w.extractLsb' 5 6).toNat with
  | 0 => fieldsOk (w.extractLsb' 25 1 == 0#1 && w.extractLsb' 11 5 == 0#5 && w.extractLsb' 0 3 == 0#3) (.brld (w.extractLsb' 21 4) (w.extractLsb' 16 5) (w.extractLsb' 3 2))
  | 1 => fieldsOk (w.extractLsb' 25 1 == 0#1 && w.extractLsb' 11 5 == 0#5 && w.extractLsb' 0 3 == 0#3) (.brst (w.extractLsb' 21 4) (w.extractLsb' 16 5) (w.extractLsb' 3 2))
  | 2 => fieldsOk (w.extractLsb' 25 1 == 0#1 && w.extractLsb' 0 3 == 0#3) (.brsetf (w.extractLsb' 21 4) (w.extractLsb' 16 5) (w.extractLsb' 11 5) (w.extractLsb' 3 2))
  | 3 => fieldsOk (w.extractLsb' 20 1 == 0#1 && w.extractLsb' 0 3 == 0#3) (.brgetf (w.extractLsb' 21 5) (w.extractLsb' 16 4) (w.extractLsb' 11 5) (w.extractLsb' 3 2))
  | 4 => fieldsOk (w.extractLsb' 25 1 == 0#1 && w.extractLsb' 20 1 == 0#1 && w.extractLsb' 11 5 == 0#5 && w.extractLsb' 0 3 == 0#3) (.brcpy (w.extractLsb' 21 4) (w.extractLsb' 16 4) (w.extractLsb' 3 2))
  | _ => .error .selector

/-- Major 0x25, QUEUE (R236). -/
def decode25 (w : IWord) : Except Illegal Instr :=
  match (w.extractLsb' 5 6).toNat with
  | 0 => fieldsOk (w.extractLsb' 11 10 == 0#10) (.qrd (w.extractLsb' 21 5) (w.extractLsb' 3 2) (w.extractLsb' 0 3))
  | 1 => fieldsOk (w.extractLsb' 21 5 == 0#5 && w.extractLsb' 11 5 == 0#5) (.qwr (w.extractLsb' 16 5) (w.extractLsb' 3 2) (w.extractLsb' 0 3))
  | 2 => fieldsOk (w.extractLsb' 11 5 == 0#5) (.qtry (w.extractLsb' 21 5) (w.extractLsb' 16 5) (w.extractLsb' 3 2) (w.extractLsb' 0 3))
  | 3 => fieldsOk (w.extractLsb' 11 10 == 0#10) (.qcnt (w.extractLsb' 21 5) (w.extractLsb' 3 2) (w.extractLsb' 0 3))
  | 4 => fieldsOk (w.extractLsb' 21 5 == 0#5 && w.extractLsb' 11 5 == 0#5 && w.extractLsb' 0 3 == 0#3) (.qpair (w.extractLsb' 16 5) (w.extractLsb' 3 2))
  | _ => .error .selector

/-- Major 0x26, VINT (R236). -/
def decode26 (w : IWord) : Except Illegal Instr :=
  match (w.extractLsb' 3 5).toNat with
  | 0 => fieldsOk (true) (.vadd (w.extractLsb' 21 5) (w.extractLsb' 16 5) (w.extractLsb' 11 5) (w.extractLsb' 8 3) (w.extractLsb' 0 3))
  | 1 => fieldsOk (true) (.vsub (w.extractLsb' 21 5) (w.extractLsb' 16 5) (w.extractLsb' 11 5) (w.extractLsb' 8 3) (w.extractLsb' 0 3))
  | 2 => fieldsOk (true) (.vmul (w.extractLsb' 21 5) (w.extractLsb' 16 5) (w.extractLsb' 11 5) (w.extractLsb' 8 3) (w.extractLsb' 0 3))
  | 3 => fieldsOk (true) (.vmulh (w.extractLsb' 21 5) (w.extractLsb' 16 5) (w.extractLsb' 11 5) (w.extractLsb' 8 3) (w.extractLsb' 0 3))
  | 4 => fieldsOk (true) (.vmin (w.extractLsb' 21 5) (w.extractLsb' 16 5) (w.extractLsb' 11 5) (w.extractLsb' 8 3) (w.extractLsb' 0 3))
  | 5 => fieldsOk (true) (.vmax (w.extractLsb' 21 5) (w.extractLsb' 16 5) (w.extractLsb' 11 5) (w.extractLsb' 8 3) (w.extractLsb' 0 3))
  | 6 => fieldsOk (true) (.vand (w.extractLsb' 21 5) (w.extractLsb' 16 5) (w.extractLsb' 11 5) (w.extractLsb' 8 3) (w.extractLsb' 0 3))
  | 7 => fieldsOk (true) (.vor (w.extractLsb' 21 5) (w.extractLsb' 16 5) (w.extractLsb' 11 5) (w.extractLsb' 8 3) (w.extractLsb' 0 3))
  | 8 => fieldsOk (true) (.vxor (w.extractLsb' 21 5) (w.extractLsb' 16 5) (w.extractLsb' 11 5) (w.extractLsb' 8 3) (w.extractLsb' 0 3))
  | 9 => fieldsOk (true) (.vshl (w.extractLsb' 21 5) (w.extractLsb' 16 5) (w.extractLsb' 11 5) (w.extractLsb' 8 3) (w.extractLsb' 0 3))
  | 10 => fieldsOk (true) (.vshr (w.extractLsb' 21 5) (w.extractLsb' 16 5) (w.extractLsb' 11 5) (w.extractLsb' 8 3) (w.extractLsb' 0 3))
  | 11 => fieldsOk (true) (.vsha (w.extractLsb' 21 5) (w.extractLsb' 16 5) (w.extractLsb' 11 5) (w.extractLsb' 8 3) (w.extractLsb' 0 3))
  | 12 => fieldsOk (w.extractLsb' 11 5 == 0#5) (.vabs (w.extractLsb' 21 5) (w.extractLsb' 16 5) (w.extractLsb' 8 3) (w.extractLsb' 0 3))
  | 13 => fieldsOk (w.extractLsb' 11 5 == 0#5) (.vneg (w.extractLsb' 21 5) (w.extractLsb' 16 5) (w.extractLsb' 8 3) (w.extractLsb' 0 3))
  | 14 => fieldsOk (true) (.vadds (w.extractLsb' 21 5) (w.extractLsb' 16 5) (w.extractLsb' 11 5) (w.extractLsb' 8 3) (w.extractLsb' 0 3))
  | 15 => fieldsOk (true) (.vsubs (w.extractLsb' 21 5) (w.extractLsb' 16 5) (w.extractLsb' 11 5) (w.extractLsb' 8 3) (w.extractLsb' 0 3))
  | 16 => fieldsOk (w.extractLsb' 24 2 == 0#2) (.vcmpeq (w.extractLsb' 21 3) (w.extractLsb' 16 5) (w.extractLsb' 11 5) (w.extractLsb' 8 3) (w.extractLsb' 0 3))
  | 17 => fieldsOk (w.extractLsb' 24 2 == 0#2) (.vcmplt (w.extractLsb' 21 3) (w.extractLsb' 16 5) (w.extractLsb' 11 5) (w.extractLsb' 8 3) (w.extractLsb' 0 3))
  | 18 => fieldsOk (w.extractLsb' 24 2 == 0#2) (.vcmple (w.extractLsb' 21 3) (w.extractLsb' 16 5) (w.extractLsb' 11 5) (w.extractLsb' 8 3) (w.extractLsb' 0 3))
  | 19 => fieldsOk (true) (.vsel (w.extractLsb' 21 5) (w.extractLsb' 16 5) (w.extractLsb' 11 5) (w.extractLsb' 8 3) (w.extractLsb' 0 3))
  | _ => .error .selector

/-- Major 0x27, VFLT (R236). -/
def decode27 (w : IWord) : Except Illegal Instr :=
  match (w.extractLsb' 3 5).toNat with
  | 0 => fieldsOk (true) (.vfadd (w.extractLsb' 21 5) (w.extractLsb' 16 5) (w.extractLsb' 11 5) (w.extractLsb' 8 3) (w.extractLsb' 0 3))
  | 1 => fieldsOk (true) (.vfsub (w.extractLsb' 21 5) (w.extractLsb' 16 5) (w.extractLsb' 11 5) (w.extractLsb' 8 3) (w.extractLsb' 0 3))
  | 2 => fieldsOk (true) (.vfmul (w.extractLsb' 21 5) (w.extractLsb' 16 5) (w.extractLsb' 11 5) (w.extractLsb' 8 3) (w.extractLsb' 0 3))
  | 3 => fieldsOk (true) (.vfma (w.extractLsb' 21 5) (w.extractLsb' 16 5) (w.extractLsb' 11 5) (w.extractLsb' 8 3) (w.extractLsb' 0 3))
  | 4 => fieldsOk (true) (.vfms (w.extractLsb' 21 5) (w.extractLsb' 16 5) (w.extractLsb' 11 5) (w.extractLsb' 8 3) (w.extractLsb' 0 3))
  | 5 => fieldsOk (true) (.vfnma (w.extractLsb' 21 5) (w.extractLsb' 16 5) (w.extractLsb' 11 5) (w.extractLsb' 8 3) (w.extractLsb' 0 3))
  | 6 => fieldsOk (true) (.vfmin (w.extractLsb' 21 5) (w.extractLsb' 16 5) (w.extractLsb' 11 5) (w.extractLsb' 8 3) (w.extractLsb' 0 3))
  | 7 => fieldsOk (true) (.vfmax (w.extractLsb' 21 5) (w.extractLsb' 16 5) (w.extractLsb' 11 5) (w.extractLsb' 8 3) (w.extractLsb' 0 3))
  | 8 => fieldsOk (w.extractLsb' 11 5 == 0#5) (.vfabs (w.extractLsb' 21 5) (w.extractLsb' 16 5) (w.extractLsb' 8 3) (w.extractLsb' 0 3))
  | 9 => fieldsOk (w.extractLsb' 11 5 == 0#5) (.vfneg (w.extractLsb' 21 5) (w.extractLsb' 16 5) (w.extractLsb' 8 3) (w.extractLsb' 0 3))
  | 10 => fieldsOk (w.extractLsb' 11 5 == 0#5) (.vfrcp (w.extractLsb' 21 5) (w.extractLsb' 16 5) (w.extractLsb' 8 3) (w.extractLsb' 0 3))
  | 11 => fieldsOk (w.extractLsb' 11 5 == 0#5) (.vfrsq (w.extractLsb' 21 5) (w.extractLsb' 16 5) (w.extractLsb' 8 3) (w.extractLsb' 0 3))
  | 12 => fieldsOk (w.extractLsb' 24 2 == 0#2) (.vfceq (w.extractLsb' 21 3) (w.extractLsb' 16 5) (w.extractLsb' 11 5) (w.extractLsb' 8 3) (w.extractLsb' 0 3))
  | 13 => fieldsOk (w.extractLsb' 24 2 == 0#2) (.vfclt (w.extractLsb' 21 3) (w.extractLsb' 16 5) (w.extractLsb' 11 5) (w.extractLsb' 8 3) (w.extractLsb' 0 3))
  | 14 => fieldsOk (w.extractLsb' 24 2 == 0#2) (.vfcle (w.extractLsb' 21 3) (w.extractLsb' 16 5) (w.extractLsb' 11 5) (w.extractLsb' 8 3) (w.extractLsb' 0 3))
  | 15 => fieldsOk (w.extractLsb' 11 5 == 0#5) (.vfclass (w.extractLsb' 21 5) (w.extractLsb' 16 5) (w.extractLsb' 8 3) (w.extractLsb' 0 3))
  | _ => .error .selector

/-- Major 0x29, VBLK (R236). -/
def decode29 (w : IWord) : Except Illegal Instr :=
  match (w.extractLsb' 3 5).toNat with
  | 0 => fieldsOk (true) (.vqblk (w.extractLsb' 21 5) (w.extractLsb' 16 5) (w.extractLsb' 11 5) (w.extractLsb' 8 3) (w.extractLsb' 0 3))
  | 1 => fieldsOk (true) (.vdqblk (w.extractLsb' 21 5) (w.extractLsb' 16 5) (w.extractLsb' 11 5) (w.extractLsb' 8 3) (w.extractLsb' 0 3))
  | 2 => fieldsOk (w.extractLsb' 11 5 == 0#5) (.vbaddq (w.extractLsb' 21 5) (w.extractLsb' 16 5) (w.extractLsb' 8 3) (w.extractLsb' 0 3))
  | 3 => fieldsOk (w.extractLsb' 21 5 == 0#5 && w.extractLsb' 11 5 == 0#5) (.vbscal (w.extractLsb' 16 5) (w.extractLsb' 8 3) (w.extractLsb' 0 3))
  | _ => .error .selector

/-- Major 0x2A, VXFER (R236). -/
def decode2A (w : IWord) : Except Illegal Instr :=
  match (w.extractLsb' 3 5).toNat with
  | 0 => fieldsOk (w.extractLsb' 11 5 == 0#5) (.vbcast (w.extractLsb' 21 5) (w.extractLsb' 16 5) (w.extractLsb' 8 3) (w.extractLsb' 0 3))
  | 1 => fieldsOk (w.extractLsb' 8 3 == 0#3) (.vext (w.extractLsb' 21 5) (w.extractLsb' 16 5) (w.extractLsb' 11 5) (w.extractLsb' 0 3))
  | 2 => fieldsOk (w.extractLsb' 8 3 == 0#3) (.vins (w.extractLsb' 21 5) (w.extractLsb' 16 5) (w.extractLsb' 11 5) (w.extractLsb' 0 3))
  | 3 => fieldsOk (true) (.vperm (w.extractLsb' 21 5) (w.extractLsb' 16 5) (w.extractLsb' 11 5) (w.extractLsb' 8 3) (w.extractLsb' 0 3))
  | 4 => fieldsOk (true) (.vcomp (w.extractLsb' 21 5) (w.extractLsb' 16 5) (w.extractLsb' 11 5) (w.extractLsb' 8 3) (w.extractLsb' 0 3))
  | 5 => fieldsOk (w.extractLsb' 11 5 == 0#5) (.vexpd (w.extractLsb' 21 5) (w.extractLsb' 16 5) (w.extractLsb' 8 3) (w.extractLsb' 0 3))
  | 6 => fieldsOk (w.extractLsb' 11 5 == 0#5) (.viota (w.extractLsb' 21 5) (w.extractLsb' 16 5) (w.extractLsb' 8 3) (w.extractLsb' 0 3))
  | 7 => fieldsOk (true) (.vslide (w.extractLsb' 21 5) (w.extractLsb' 16 5) (w.extractLsb' 11 5) (w.extractLsb' 8 3) (w.extractLsb' 0 3))
  | 8 => fieldsOk (w.extractLsb' 11 5 == 0#5) (.vmov (w.extractLsb' 21 5) (w.extractLsb' 16 5) (w.extractLsb' 8 3) (w.extractLsb' 0 3))
  | _ => .error .selector

/-- Major 0x2B, VRED (R236). -/
def decode2B (w : IWord) : Except Illegal Instr :=
  match (w.extractLsb' 3 5).toNat with
  | 0 => fieldsOk (w.extractLsb' 11 5 == 0#5) (.vredadd (w.extractLsb' 21 5) (w.extractLsb' 16 5) (w.extractLsb' 8 3) (w.extractLsb' 0 3))
  | 1 => fieldsOk (w.extractLsb' 11 5 == 0#5) (.vredmax (w.extractLsb' 21 5) (w.extractLsb' 16 5) (w.extractLsb' 8 3) (w.extractLsb' 0 3))
  | 2 => fieldsOk (w.extractLsb' 11 5 == 0#5) (.vredmin (w.extractLsb' 21 5) (w.extractLsb' 16 5) (w.extractLsb' 8 3) (w.extractLsb' 0 3))
  | 3 => fieldsOk (w.extractLsb' 11 5 == 0#5) (.vfredadd (w.extractLsb' 21 5) (w.extractLsb' 16 5) (w.extractLsb' 8 3) (w.extractLsb' 0 3))
  | 4 => fieldsOk (w.extractLsb' 11 5 == 0#5) (.vfredmax (w.extractLsb' 21 5) (w.extractLsb' 16 5) (w.extractLsb' 8 3) (w.extractLsb' 0 3))
  | 5 => fieldsOk (w.extractLsb' 11 5 == 0#5) (.vscanadd (w.extractLsb' 21 5) (w.extractLsb' 16 5) (w.extractLsb' 8 3) (w.extractLsb' 0 3))
  | 6 => fieldsOk (w.extractLsb' 11 5 == 0#5) (.vfscanadd (w.extractLsb' 21 5) (w.extractLsb' 16 5) (w.extractLsb' 8 3) (w.extractLsb' 0 3))
  | _ => .error .selector

/-- Major 0x2C, KOPS (R236). -/
def decode2C (w : IWord) : Except Illegal Instr :=
  match (w.extractLsb' 3 5).toNat with
  | 0 => fieldsOk (w.extractLsb' 24 2 == 0#2 && w.extractLsb' 19 2 == 0#2 && w.extractLsb' 14 2 == 0#2 && w.extractLsb' 8 3 == 0#3 && w.extractLsb' 0 3 == 0#3) (.kand (w.extractLsb' 21 3) (w.extractLsb' 16 3) (w.extractLsb' 11 3))
  | 1 => fieldsOk (w.extractLsb' 24 2 == 0#2 && w.extractLsb' 19 2 == 0#2 && w.extractLsb' 14 2 == 0#2 && w.extractLsb' 8 3 == 0#3 && w.extractLsb' 0 3 == 0#3) (.kor (w.extractLsb' 21 3) (w.extractLsb' 16 3) (w.extractLsb' 11 3))
  | 2 => fieldsOk (w.extractLsb' 24 2 == 0#2 && w.extractLsb' 19 2 == 0#2 && w.extractLsb' 14 2 == 0#2 && w.extractLsb' 8 3 == 0#3 && w.extractLsb' 0 3 == 0#3) (.kxor (w.extractLsb' 21 3) (w.extractLsb' 16 3) (w.extractLsb' 11 3))
  | 3 => fieldsOk (w.extractLsb' 24 2 == 0#2 && w.extractLsb' 19 2 == 0#2 && w.extractLsb' 8 8 == 0#8 && w.extractLsb' 0 3 == 0#3) (.knot (w.extractLsb' 21 3) (w.extractLsb' 16 3))
  | 4 => fieldsOk (w.extractLsb' 24 2 == 0#2 && w.extractLsb' 19 2 == 0#2 && w.extractLsb' 8 8 == 0#8 && w.extractLsb' 0 3 == 0#3) (.kmov (w.extractLsb' 21 3) (w.extractLsb' 16 3))
  | 5 => fieldsOk (w.extractLsb' 19 2 == 0#2 && w.extractLsb' 8 8 == 0#8 && w.extractLsb' 0 3 == 0#3) (.kget (w.extractLsb' 21 5) (w.extractLsb' 16 3))
  | 6 => fieldsOk (w.extractLsb' 19 2 == 0#2 && w.extractLsb' 8 8 == 0#8 && w.extractLsb' 0 3 == 0#3) (.kpopc (w.extractLsb' 21 5) (w.extractLsb' 16 3))
  | 7 => fieldsOk (w.extractLsb' 19 2 == 0#2 && w.extractLsb' 8 8 == 0#8 && w.extractLsb' 0 3 == 0#3) (.kfirst (w.extractLsb' 21 5) (w.extractLsb' 16 3))
  | _ => .error .selector

/-- Major 0x2D, VRAND and VLIVE (R236). -/
def decode2D (w : IWord) : Except Illegal Instr :=
  match (w.extractLsb' 3 5).toNat with
  | 0 => fieldsOk (w.extractLsb' 0 3 == 6#3) (.vrand (w.extractLsb' 21 5) (w.extractLsb' 16 5) (w.extractLsb' 11 5) (w.extractLsb' 8 3))
  | 1 => fieldsOk (w.extractLsb' 21 5 == 0#5 && w.extractLsb' 8 8 == 0#8 && w.extractLsb' 0 3 == 0#3) (.vlive (w.extractLsb' 16 5))
  | _ => .error .selector

/-- Major 0x2E, TASK (R236). -/
def decode2E (w : IWord) : Except Illegal Instr :=
  match (w.extractLsb' 5 6).toNat with
  | 0 =>
      if w.extractLsb' 0 3 == 0#3 then fieldsOk (w.extractLsb' 0 3 == 0#3) (.fork (w.extractLsb' 21 5) (w.extractLsb' 16 5) (w.extractLsb' 11 5) (w.extractLsb' 3 2))
      else fieldsOk (w.extractLsb' 2 1 == 1#1) (.forkP (w.extractLsb' 21 5) (w.extractLsb' 16 5) (w.extractLsb' 11 5) (w.extractLsb' 3 2) (w.extractLsb' 0 2))
  | 1 => fieldsOk (w.extractLsb' 16 10 == 0#10 && w.extractLsb' 0 3 == 0#3) (.done (w.extractLsb' 11 5) (w.extractLsb' 3 2))
  | 2 => fieldsOk (w.extractLsb' 11 15 == 0#15 && w.extractLsb' 0 3 == 0#3) (.yield (w.extractLsb' 3 2))
  | 3 =>
      if w.extractLsb' 0 3 == 0#3 then fieldsOk (w.extractLsb' 0 3 == 0#3) (.jcinit (w.extractLsb' 21 5) (w.extractLsb' 16 5) (w.extractLsb' 11 5) (w.extractLsb' 3 2))
      else fieldsOk (w.extractLsb' 0 3 == 1#3) (.jcinitForce (w.extractLsb' 21 5) (w.extractLsb' 16 5) (w.extractLsb' 11 5) (w.extractLsb' 3 2))
  | 4 => fieldsOk (w.extractLsb' 0 3 == 0#3) (.jcdec (w.extractLsb' 21 5) (w.extractLsb' 16 5) (w.extractLsb' 11 5) (w.extractLsb' 3 2))
  | 5 => fieldsOk (w.extractLsb' 21 5 == 0#5 && w.extractLsb' 11 5 == 0#5 && w.extractLsb' 0 3 == 0#3) (.jcwait (w.extractLsb' 16 5) (w.extractLsb' 3 2))
  | 6 => fieldsOk (w.extractLsb' 11 5 == 0#5) (.jcrd (w.extractLsb' 21 5) (w.extractLsb' 16 5) (w.extractLsb' 3 2) (w.extractLsb' 0 3))
  | 7 => fieldsOk (w.extractLsb' 0 3 == 0#3) (.sealg (w.extractLsb' 21 5) (w.extractLsb' 16 5) (w.extractLsb' 11 5) (w.extractLsb' 3 2))
  | 8 => fieldsOk (w.extractLsb' 11 5 == 0#5 && w.extractLsb' 0 3 == 0#3) (.sealq (w.extractLsb' 21 5) (w.extractLsb' 16 5) (w.extractLsb' 3 2))
  | 9 => fieldsOk (w.extractLsb' 11 5 == 0#5 && w.extractLsb' 0 3 == 0#3) (.self (w.extractLsb' 21 5) (w.extractLsb' 16 5) (w.extractLsb' 3 2))
  | 10 => fieldsOk (w.extractLsb' 11 15 == 0#15 && w.extractLsb' 0 3 == 0#3) (.gate (w.extractLsb' 3 2))
  | 11 => fieldsOk (w.extractLsb' 11 5 == 0#5 && w.extractLsb' 0 3 == 0#3) (.migr (w.extractLsb' 21 5) (w.extractLsb' 16 5) (w.extractLsb' 3 2))
  | _ => .error .selector

/-- Major 0x30, SYS (R236). -/
def decode30 (w : IWord) : Except Illegal Instr :=
  match (w.extractLsb' 12 4).toNat with
  | 0 => fieldsOk (w.extractLsb' 16 5 == 0#5) (.csrrd (w.extractLsb' 21 5) (w.extractLsb' 0 12))
  | 1 => fieldsOk (true) (.csrwr (w.extractLsb' 21 5) (w.extractLsb' 16 5) (w.extractLsb' 0 12))
  | 2 => fieldsOk (true) (.csrset (w.extractLsb' 21 5) (w.extractLsb' 16 5) (w.extractLsb' 0 12))
  | 3 => fieldsOk (true) (.csrclr (w.extractLsb' 21 5) (w.extractLsb' 16 5) (w.extractLsb' 0 12))
  | 4 => fieldsOk (w.extractLsb' 16 10 == 0#10) (.sysc (w.extractLsb' 0 12))
  | 5 => fieldsOk (w.extractLsb' 16 10 == 0#10) (.trap (w.extractLsb' 0 12))
  | 6 => fieldsOk (w.extractLsb' 16 10 == 0#10 && w.extractLsb' 0 12 == 0#12) (.eret)
  | 7 => fieldsOk (w.extractLsb' 16 10 == 0#10 && w.extractLsb' 0 12 == 0#12) (.brk)
  | 8 => fieldsOk (w.extractLsb' 16 10 == 0#10 && w.extractLsb' 4 8 == 0#8) (.haltg (w.extractLsb' 0 4))
  | 9 => fieldsOk (w.extractLsb' 16 10 == 0#10 && w.extractLsb' 0 12 == 0#12) (.wfi)
  | _ => .error .selector

/-- Major 0x31, PRIV (R236). -/
def decode31 (w : IWord) : Except Illegal Instr :=
  match (w.extractLsb' 5 6).toNat with
  | 0 => fieldsOk (w.extractLsb' 21 5 == 0#5 && w.extractLsb' 0 3 == 0#3) (.rkset (w.extractLsb' 16 5) (w.extractLsb' 11 5) (w.extractLsb' 3 2))
  | 1 => fieldsOk (w.extractLsb' 21 5 == 0#5 && w.extractLsb' 0 3 == 0#3) (.rktrn (w.extractLsb' 16 5) (w.extractLsb' 11 5) (w.extractLsb' 3 2))
  | 2 =>
      if w.extractLsb' 0 3 == 0#3 then fieldsOk (w.extractLsb' 21 5 == 0#5 && w.extractLsb' 11 5 == 0#5 && w.extractLsb' 0 3 == 0#3) (.tlbinv (w.extractLsb' 16 5) (w.extractLsb' 3 2))
      else if w.extractLsb' 0 3 == 1#3 then fieldsOk (w.extractLsb' 21 5 == 0#5 && w.extractLsb' 11 5 == 0#5 && w.extractLsb' 0 3 == 1#3) (.tlbinvRng (w.extractLsb' 16 5) (w.extractLsb' 3 2))
      else fieldsOk (w.extractLsb' 11 15 == 0#15 && w.extractLsb' 0 3 == 2#3) (.tlbinvAll (w.extractLsb' 3 2))
  | 3 => fieldsOk (w.extractLsb' 11 15 == 0#15 && w.extractLsb' 0 3 == 0#3) (.ptsync (w.extractLsb' 3 2))
  | 4 => fieldsOk (w.extractLsb' 0 3 == 0#3) (.part (w.extractLsb' 21 5) (w.extractLsb' 16 5) (w.extractLsb' 11 5) (w.extractLsb' 3 2))
  | 5 =>
      if w.extractLsb' 0 3 == 0#3 then fieldsOk (w.extractLsb' 11 5 == 0#5 && w.extractLsb' 0 3 == 0#3) (.preemptSave (w.extractLsb' 21 5) (w.extractLsb' 16 5) (w.extractLsb' 3 2))
      else fieldsOk (w.extractLsb' 11 5 == 0#5 && w.extractLsb' 0 3 == 1#3) (.preemptRest (w.extractLsb' 21 5) (w.extractLsb' 16 5) (w.extractLsb' 3 2))
  | _ => .error .selector

/-- Major 0x38, LOOM (R236). -/
def decode38 (w x : IWord) : Except Illegal Instr :=
  match (w.extractLsb' 22 4).toNat with
  | 0 => fieldsOk (w.extractLsb' 21 1 == 0#1 && w.extractLsb' 16 1 == 0#1 && x.extractLsb' 0 21 == 0#21) (.lmm (w.extractLsb' 17 4) (w.extractLsb' 12 4) (w.extractLsb' 7 5) (w.extractLsb' 2 5) (w.extractLsb' 0 2) (x.extractLsb' 27 5) (x.extractLsb' 24 3) (x.extractLsb' 23 1) (x.extractLsb' 21 2))
  | 1 => fieldsOk (w.extractLsb' 21 1 == 0#1 && w.extractLsb' 16 1 == 0#1 && w.extractLsb' 11 1 == 0#1 && x.extractLsb' 27 5 == 0#5 && x.extractLsb' 0 21 == 0#21) (.lmmg (w.extractLsb' 17 4) (w.extractLsb' 12 4) (w.extractLsb' 7 4) (w.extractLsb' 2 5) (w.extractLsb' 0 2) (x.extractLsb' 24 3) (x.extractLsb' 23 1) (x.extractLsb' 21 2))
  | 2 => fieldsOk (w.extractLsb' 21 1 == 0#1 && w.extractLsb' 16 1 == 0#1 && x.extractLsb' 0 21 == 0#21) (.lmms (w.extractLsb' 17 4) (w.extractLsb' 12 4) (w.extractLsb' 7 5) (w.extractLsb' 2 5) (w.extractLsb' 0 2) (x.extractLsb' 27 5) (x.extractLsb' 24 3) (x.extractLsb' 23 1) (x.extractLsb' 21 2))
  | 3 => fieldsOk (w.extractLsb' 21 1 == 0#1 && w.extractLsb' 2 5 == 0#5 && x.extractLsb' 0 32 == 0#32) (.lbld (w.extractLsb' 17 4) (w.extractLsb' 12 5) (w.extractLsb' 7 5) (w.extractLsb' 0 2))
  | 4 => fieldsOk (w.extractLsb' 2 20 == 0#20 && x.extractLsb' 0 32 == 0#32) (.lbswp (w.extractLsb' 0 2))
  | 5 => fieldsOk (w.extractLsb' 21 1 == 0#1 && w.extractLsb' 2 10 == 0#10 && x.extractLsb' 27 5 == 0#5 && x.extractLsb' 0 24 == 0#24) (.laini (w.extractLsb' 17 4) (w.extractLsb' 12 5) (w.extractLsb' 0 2) (x.extractLsb' 24 3))
  | 6 => fieldsOk (w.extractLsb' 21 1 == 0#1 && w.extractLsb' 16 1 == 0#1 && w.extractLsb' 2 5 == 0#5 && x.extractLsb' 3 29 == 0#29) (.ladr (w.extractLsb' 17 4) (w.extractLsb' 12 4) (w.extractLsb' 7 5) (w.extractLsb' 0 2) (x.extractLsb' 0 3))
  | 7 => fieldsOk (w.extractLsb' 2 15 == 0#15 && x.extractLsb' 27 5 == 0#5 && x.extractLsb' 0 24 == 0#24) (.lsemi (w.extractLsb' 17 5) (w.extractLsb' 0 2) (x.extractLsb' 24 3))
  | 8 => fieldsOk (w.extractLsb' 2 15 == 0#15 && x.extractLsb' 0 32 == 0#32) (.lstat (w.extractLsb' 17 5) (w.extractLsb' 0 2))
  | _ => .error .selector

/-- Major 0x39, search (R236). -/
def decode39 (w x : IWord) : Except Illegal Instr :=
  match (w.extractLsb' 22 4).toNat with
  | 0 => fieldsOk (w.extractLsb' 21 1 == 0#1 && w.extractLsb' 16 1 == 0#1 && x.extractLsb' 9 23 == 0#23) (.topk (w.extractLsb' 17 4) (w.extractLsb' 12 4) (w.extractLsb' 7 5) (w.extractLsb' 2 5) (w.extractLsb' 0 2) (x.extractLsb' 4 5) (x.extractLsb' 3 1) (x.extractLsb' 2 1) (x.extractLsb' 1 1) (x.extractLsb' 0 1))
  | 1 => fieldsOk (w.extractLsb' 21 1 == 0#1 && w.extractLsb' 2 10 == 0#10 && x.extractLsb' 0 32 == 0#32) (.rcsnap (w.extractLsb' 17 4) (w.extractLsb' 12 5) (w.extractLsb' 0 2))
  | 2 => fieldsOk (w.extractLsb' 2 10 == 0#10 && x.extractLsb' 1 31 == 0#31) (.rcrd (w.extractLsb' 17 5) (w.extractLsb' 12 5) (w.extractLsb' 0 2) (x.extractLsb' 0 1))
  | _ => .error .selector

/-- Major 0x3A, bulk spawn (R236). -/
def decode3A (w x : IWord) : Except Illegal Instr :=
  match (w.extractLsb' 22 4).toNat with
  | 0 => fieldsOk (x.extractLsb' 16 16 == 0#16) (.rfork (w.extractLsb' 17 5) (w.extractLsb' 12 5) (w.extractLsb' 7 5) (w.extractLsb' 2 5) (w.extractLsb' 0 2) (x.extractLsb' 0 16))
  | 1 => fieldsOk (w.extractLsb' 2 15 == 0#15 && x.extractLsb' 0 32 == 0#32) (.mfork (w.extractLsb' 17 5) (w.extractLsb' 0 2))
  | _ => .error .selector

/-- Major 0x3B, MSG (R236). -/
def decode3B (w x : IWord) : Except Illegal Instr :=
  match (w.extractLsb' 22 4).toNat with
  | 0 => fieldsOk (w.extractLsb' 2 10 == 0#10 && x.extractLsb' 4 28 == 0#28) (.send (w.extractLsb' 17 5) (w.extractLsb' 12 5) (w.extractLsb' 0 2) (x.extractLsb' 0 4))
  | 1 => fieldsOk (w.extractLsb' 2 5 == 0#5 && x.extractLsb' 4 28 == 0#28) (.sendm (w.extractLsb' 17 5) (w.extractLsb' 12 5) (w.extractLsb' 7 5) (w.extractLsb' 0 2) (x.extractLsb' 0 4))
  | 2 => fieldsOk (w.extractLsb' 16 1 == 0#1 && x.extractLsb' 0 32 == 0#32) (.rread (w.extractLsb' 17 5) (w.extractLsb' 12 4) (w.extractLsb' 7 5) (w.extractLsb' 2 5) (w.extractLsb' 0 2))
  | 3 => fieldsOk (w.extractLsb' 21 1 == 0#1 && w.extractLsb' 2 10 == 0#10 && x.extractLsb' 4 28 == 0#28) (.halo (w.extractLsb' 17 4) (w.extractLsb' 12 5) (w.extractLsb' 0 2) (x.extractLsb' 0 4))
  | 4 => fieldsOk (w.extractLsb' 16 1 == 0#1 && w.extractLsb' 11 1 == 0#1 && x.extractLsb' 0 32 == 0#32) (.rwrite (w.extractLsb' 17 5) (w.extractLsb' 12 4) (w.extractLsb' 7 4) (w.extractLsb' 2 5) (w.extractLsb' 0 2))
  | _ => .error .selector

/-- Major 0x3C, ENG (R236). -/
def decode3C (w x : IWord) : Except Illegal Instr :=
  match (w.extractLsb' 22 4).toNat with
  | 0 => fieldsOk (w.extractLsb' 21 1 == 0#1 && w.extractLsb' 2 15 == 0#15 && x.extractLsb' 0 32 == 0#32) (.shdw (w.extractLsb' 17 4) (w.extractLsb' 0 2))
  | 1 => fieldsOk (w.extractLsb' 21 1 == 0#1 && w.extractLsb' 2 15 == 0#15 && x.extractLsb' 0 32 == 0#32) (.publ (w.extractLsb' 17 4) (w.extractLsb' 0 2))
  | 2 => fieldsOk (w.extractLsb' 21 1 == 0#1 && w.extractLsb' 2 15 == 0#15 && x.extractLsb' 0 32 == 0#32) (.disc (w.extractLsb' 17 4) (w.extractLsb' 0 2))
  | 3 => fieldsOk (w.extractLsb' 2 10 == 0#10 && x.extractLsb' 0 32 == 0#32) (.cpyt (w.extractLsb' 17 5) (w.extractLsb' 12 5) (w.extractLsb' 0 2))
  | 4 => fieldsOk (w.extractLsb' 2 10 == 0#10 && x.extractLsb' 0 32 == 0#32) (.wmrd (w.extractLsb' 17 5) (w.extractLsb' 12 5) (w.extractLsb' 0 2))
  | 5 => fieldsOk (w.extractLsb' 21 1 == 0#1 && w.extractLsb' 16 1 == 0#1 && w.extractLsb' 2 10 == 0#10 && x.extractLsb' 0 32 == 0#32) (.digest (w.extractLsb' 17 4) (w.extractLsb' 12 4) (w.extractLsb' 0 2))
  | 6 => fieldsOk (w.extractLsb' 2 15 == 0#15 && x.extractLsb' 1 31 == 0#31) (.tmplinv (w.extractLsb' 17 5) (w.extractLsb' 0 2) (x.extractLsb' 0 1))
  | _ => .error .selector

/-- Major 0x3D, FORGE (R236). -/
def decode3D (w x : IWord) : Except Illegal Instr :=
  match (w.extractLsb' 22 4).toNat with
  | 0 => fieldsOk (w.extractLsb' 11 1 == 0#1 && w.extractLsb' 2 5 == 0#5 && x.extractLsb' 0 32 == 0#32) (.spec (w.extractLsb' 17 5) (w.extractLsb' 12 5) (w.extractLsb' 7 4) (w.extractLsb' 0 2))
  | 1 => fieldsOk (w.extractLsb' 2 15 == 0#15 && x.extractLsb' 0 32 == 0#32) (.hrel (w.extractLsb' 17 5) (w.extractLsb' 0 2))
  | 2 => fieldsOk (w.extractLsb' 2 15 == 0#15 && x.extractLsb' 0 32 == 0#32) (.href (w.extractLsb' 17 5) (w.extractLsb' 0 2))
  | 3 => fieldsOk (w.extractLsb' 2 15 == 0#15 && x.extractLsb' 0 32 == 0#32) (.hcall (w.extractLsb' 17 5) (w.extractLsb' 0 2))
  | 4 => fieldsOk (w.extractLsb' 2 10 == 0#10 && x.extractLsb' 0 32 == 0#32) (.hstat (w.extractLsb' 17 5) (w.extractLsb' 12 5) (w.extractLsb' 0 2))
  | _ => .error .selector

/-- Major 0x3E, BOLT (R236). -/
def decode3E (w x : IWord) : Except Illegal Instr :=
  match (w.extractLsb' 22 4).toNat with
  | 0 => fieldsOk (w.extractLsb' 16 1 == 0#1 && w.extractLsb' 2 10 == 0#10 && x.extractLsb' 0 32 == 0#32) (.stgdef (w.extractLsb' 17 5) (w.extractLsb' 12 4) (w.extractLsb' 0 2))
  | 1 => fieldsOk (w.extractLsb' 2 10 == 0#10 && x.extractLsb' 0 32 == 0#32) (.stgput (w.extractLsb' 17 5) (w.extractLsb' 12 5) (w.extractLsb' 0 2))
  | 2 => fieldsOk (w.extractLsb' 2 5 == 0#5 && x.extractLsb' 0 32 == 0#32) (.stgend (w.extractLsb' 17 5) (w.extractLsb' 12 5) (w.extractLsb' 7 5) (w.extractLsb' 0 2))
  | 3 => fieldsOk (w.extractLsb' 21 1 == 0#1 && w.extractLsb' 2 5 == 0#5 && x.extractLsb' 0 32 == 0#32) (.stgsnap (w.extractLsb' 17 4) (w.extractLsb' 12 5) (w.extractLsb' 7 5) (w.extractLsb' 0 2))
  | 4 => fieldsOk (w.extractLsb' 2 10 == 0#10 && x.extractLsb' 0 32 == 0#32) (.stgseq (w.extractLsb' 17 5) (w.extractLsb' 12 5) (w.extractLsb' 0 2))
  | _ => .error .selector

/-- Major 0x3F, ASSAY (R236). -/
def decode3F (w x : IWord) : Except Illegal Instr :=
  match (w.extractLsb' 22 4).toNat with
  | 0 => fieldsOk (w.extractLsb' 21 1 == 0#1 && w.extractLsb' 2 10 == 0#10 && x.extractLsb' 0 32 == 0#32) (.glnch (w.extractLsb' 17 4) (w.extractLsb' 12 5) (w.extractLsb' 0 2))
  | 1 => fieldsOk (w.extractLsb' 2 15 == 0#15 && x.extractLsb' 0 32 == 0#32) (.gres (w.extractLsb' 17 5) (w.extractLsb' 0 2))
  | 2 => fieldsOk (w.extractLsb' 2 10 == 0#10 && x.extractLsb' 0 32 == 0#32) (.gstat (w.extractLsb' 17 5) (w.extractLsb' 12 5) (w.extractLsb' 0 2))
  | _ => .error .selector

/-- The instruction at two consecutive words, the second read only by a long instruction (R230, R238). -/
def decode (w x : IWord) : Except Illegal Instr :=
  match (w.extractLsb' 26 6).toNat with
  | 1 => decode01 w
  | 2 => fieldsOk (true) (.addi (w.extractLsb' 21 5) (w.extractLsb' 16 5) (w.extractLsb' 0 16))
  | 3 => fieldsOk (true) (.andi (w.extractLsb' 21 5) (w.extractLsb' 16 5) (w.extractLsb' 0 16))
  | 4 => fieldsOk (true) (.ori (w.extractLsb' 21 5) (w.extractLsb' 16 5) (w.extractLsb' 0 16))
  | 5 => fieldsOk (true) (.xori (w.extractLsb' 21 5) (w.extractLsb' 16 5) (w.extractLsb' 0 16))
  | 6 => fieldsOk (true) (.slti (w.extractLsb' 21 5) (w.extractLsb' 16 5) (w.extractLsb' 0 16))
  | 7 => fieldsOk (w.extractLsb' 8 8 == 0#8) (.shi (w.extractLsb' 21 5) (w.extractLsb' 16 5) (w.extractLsb' 6 2) (w.extractLsb' 0 6))
  | 8 => fieldsOk (w.extractLsb' 16 5 == 0#5) (.lih (w.extractLsb' 21 5) (w.extractLsb' 0 16))
  | 9 => fieldsOk (true) (.lix (w.extractLsb' 21 5) (w.extractLsb' 16 5) (w.extractLsb' 0 16))
  | 10 => fieldsOk (true) (.beq (w.extractLsb' 21 5) (w.extractLsb' 16 5) (w.extractLsb' 0 16))
  | 11 => fieldsOk (true) (.bne (w.extractLsb' 21 5) (w.extractLsb' 16 5) (w.extractLsb' 0 16))
  | 12 => fieldsOk (true) (.blt (w.extractLsb' 21 5) (w.extractLsb' 16 5) (w.extractLsb' 0 16))
  | 13 => fieldsOk (true) (.bge (w.extractLsb' 21 5) (w.extractLsb' 16 5) (w.extractLsb' 0 16))
  | 14 => fieldsOk (true) (.bltn (w.extractLsb' 21 5) (w.extractLsb' 16 5) (w.extractLsb' 0 16))
  | 15 => fieldsOk (true) (.bgen (w.extractLsb' 21 5) (w.extractLsb' 16 5) (w.extractLsb' 0 16))
  | 16 => fieldsOk (true) (.j (w.extractLsb' 0 26))
  | 17 => fieldsOk (true) (.jl (w.extractLsb' 0 26))
  | 18 => fieldsOk (true) (.jlr (w.extractLsb' 21 5) (w.extractLsb' 16 5) (w.extractLsb' 0 16))
  | 20 => fieldsOk (true) (.lds (w.extractLsb' 21 5) (w.extractLsb' 16 5) (w.extractLsb' 13 3) (w.extractLsb' 0 13))
  | 21 => fieldsOk (true) (.sts (w.extractLsb' 21 5) (w.extractLsb' 16 5) (w.extractLsb' 13 3) (w.extractLsb' 0 13))
  | 22 => fieldsOk (true) (.ldaq (w.extractLsb' 21 5) (w.extractLsb' 16 5) (w.extractLsb' 13 3) (w.extractLsb' 10 3) (w.extractLsb' 0 10))
  | 23 => fieldsOk (true) (.strl (w.extractLsb' 21 5) (w.extractLsb' 16 5) (w.extractLsb' 13 3) (w.extractLsb' 10 3) (w.extractLsb' 0 10))
  | 24 => fieldsOk (true) (.vld (w.extractLsb' 21 5) (w.extractLsb' 17 4) (w.extractLsb' 12 5) (w.extractLsb' 5 7) (w.extractLsb' 3 2) (w.extractLsb' 0 3))
  | 25 => fieldsOk (true) (.vst (w.extractLsb' 21 5) (w.extractLsb' 17 4) (w.extractLsb' 12 5) (w.extractLsb' 5 7) (w.extractLsb' 3 2) (w.extractLsb' 0 3))
  | 26 => fieldsOk (w.extractLsb' 5 7 == 0#7) (.vldg (w.extractLsb' 21 5) (w.extractLsb' 17 4) (w.extractLsb' 12 5) (w.extractLsb' 3 2) (w.extractLsb' 0 3))
  | 27 => fieldsOk (w.extractLsb' 5 7 == 0#7) (.vsts (w.extractLsb' 21 5) (w.extractLsb' 17 4) (w.extractLsb' 12 5) (w.extractLsb' 3 2) (w.extractLsb' 0 3))
  | 28 => fieldsOk (w.extractLsb' 8 4 == 0#4 && w.extractLsb' 0 3 == 5#3) (.vldx (w.extractLsb' 21 5) (w.extractLsb' 17 4) (w.extractLsb' 12 5) (w.extractLsb' 5 3) (w.extractLsb' 3 2))
  | 29 => fieldsOk (w.extractLsb' 8 4 == 0#4 && w.extractLsb' 0 3 == 5#3) (.vstx (w.extractLsb' 21 5) (w.extractLsb' 17 4) (w.extractLsb' 12 5) (w.extractLsb' 5 3) (w.extractLsb' 3 2))
  | 30 => fieldsOk (true) (.sld (w.extractLsb' 21 5) (w.extractLsb' 17 4) (w.extractLsb' 12 5) (w.extractLsb' 5 7) (w.extractLsb' 3 2) (w.extractLsb' 0 3))
  | 31 => fieldsOk (true) (.sst (w.extractLsb' 21 5) (w.extractLsb' 17 4) (w.extractLsb' 12 5) (w.extractLsb' 5 7) (w.extractLsb' 3 2) (w.extractLsb' 0 3))
  | 32 => decode20 w
  | 33 => decode21 w
  | 34 => decode22 w
  | 35 => decode23 w
  | 36 => fieldsOk (w.extractLsb' 21 5 == 0#5) (.pfetch (w.extractLsb' 17 4) (w.extractLsb' 12 5) (w.extractLsb' 5 7) (w.extractLsb' 3 2) (w.extractLsb' 0 3))
  | 37 => decode25 w
  | 38 => decode26 w
  | 39 => decode27 w
  | 40 => fieldsOk (true) (.vcvt (w.extractLsb' 21 5) (w.extractLsb' 16 5) (w.extractLsb' 11 5) (w.extractLsb' 8 3) (w.extractLsb' 3 5) (w.extractLsb' 0 3))
  | 41 => decode29 w
  | 42 => decode2A w
  | 43 => decode2B w
  | 44 => decode2C w
  | 45 => decode2D w
  | 46 => decode2E w
  | 48 => decode30 w
  | 49 => decode31 w
  | 56 => decode38 w x
  | 57 => decode39 w x
  | 58 => decode3A w x
  | 59 => decode3B w x
  | 60 => decode3C w x
  | 61 => decode3D w x
  | 62 => decode3E w x
  | 63 => decode3F w x
  | _ => .error .major

/-- Whether a first word begins an instruction of two words: majors 0x38 to 0x3F (R230). -/
def isLong (w : IWord) : Bool := w.extractLsb' 29 3 == 7#3

/-- The length in bytes of the instruction that a first word begins. -/
def byteLength (w : IWord) : Nat := if isLong w then 8 else 4

/-- The decoder's answer for the low `nbits` bits of `w`, laid out as the opcode table numbers them: the first word lowest. -/
def decodeTableWord (nbits w : Nat) : Option Instr :=
  let b := w % 2 ^ nbits
  match decode (BitVec.ofNat 32 b) (BitVec.ofNat 32 (b / 2 ^ 32)) with
  | .ok i => some i
  | .error _ => none

end Sys2Proof
end

