-- ==== Sys2Proof/Machine/Num.lean ====
section
/-! DEFINITION. Number formats to the last bit (04): exact values, rounding, conversion, block quantisation and seeds. Every
function takes and gives the bits of an element as a number, and flags in the layout of FCTL [4:0]. -/

namespace Sys2Proof.Machine

/-- Flags in the layout of FCTL [4:0]: NV, DZ, OF, UF, NX (R102). -/
abbrev Flags := BitVec 5
def fNV : Flags := 16
def fDZ : Flags := 8
def fOF : Flags := 4
def fUF : Flags := 2
def fNX : Flags := 1

/-- An exact value: a NaN, an infinity, or ± m × 2^e; a zero keeps its sign (R91). -/
inductive FV where
  | nan (signalling : Bool)
  | inf (neg : Bool)
  | num (neg : Bool) (m : Nat) (e : Int)
  deriving DecidableEq, Repr

/-- A float format: exponent and fraction bits, bias, its largest finite significand and exponent, whether it has infinities, and
whether it has signalling NaNs (R91, R93). -/
structure FFmt where
  ebits : Nat
  mbits : Nat
  bias : Nat
  hasInf : Bool
  hasNan : Bool
  ieee : Bool
  /-- largest finite magnitude: maxM × 2^maxE -/
  maxM : Nat
  maxE : Int
  /-- canonical NaN -/
  canon : Nat
  deriving DecidableEq, Repr

def fF32 : FFmt := ⟨8, 23, 127, true, true, true, 0xFFFFFF, 104, 0x7FC00000⟩
def fF16 : FFmt := ⟨5, 10, 15, true, true, true, 0x7FF, 5, 0x7E00⟩
def fBf16 : FFmt := ⟨8, 7, 127, true, true, true, 0xFF, 120, 0x7FC0⟩
def fE4m3 : FFmt := ⟨4, 3, 7, false, true, false, 14, 5, 0x7F⟩
def fE5m2 : FFmt := ⟨5, 2, 15, true, true, false, 7, 13, 0x7E⟩
def fE2m1 : FFmt := ⟨2, 1, 1, false, false, false, 3, 1, 0⟩

/-- Element kinds by format code (R87). -/
inductive Kind where
  | int (signed : Bool) (bits : Nat)
  | flt (f : FFmt)
  | ts8
  | e8m0
  | other
  deriving DecidableEq, Repr

def kindOf (code : Nat) : Kind :=
  match code with
  | 0 => .int true 8 | 1 => .int true 16 | 2 => .int true 32 | 3 => .int true 64
  | 4 => .int false 8 | 5 => .int false 16 | 6 => .int false 32 | 7 => .int false 64
  | 8 => .flt fF32 | 9 => .flt fF16 | 10 => .flt fBf16 | 11 => .flt fE4m3 | 12 => .flt fE5m2 | 13 => .flt fE2m1
  | 14 => .ts8 | 15 => .int true 4
  | 22 => .e8m0
  | _ => .other

/-- Element bits by format code (R87). -/
def fmtBits (code : Nat) : Nat :=
  match code with
  | 0 | 4 | 11 | 12 | 14 | 16 | 17 | 19 | 21 | 22 => 8
  | 1 | 5 | 9 | 10 => 16
  | 2 | 6 | 8 => 32
  | 3 | 7 => 64
  | 13 | 15 | 18 | 20 => 4
  | 23 => 1
  | _ => 0

/-- The element format of a block-scaled code (R87). -/
def elemOf (code : Nat) : Nat :=
  match code with
  | 16 => 11 | 17 => 12 | 18 => 13 | 19 => 0 | 20 => 15 | 21 => 14 | c => c

/-- Size class of a format (R284); 6 when it has none. -/
def sizeClass (code : Nat) : Nat :=
  match code with
  | 0 | 4 | 11 | 12 | 14 | 22 | 23 => 0
  | 1 | 5 | 9 | 10 => 1
  | 2 | 6 | 8 => 2
  | 3 | 7 => 3
  | 13 | 15 => 4
  | 16 | 17 | 18 | 19 | 20 | 21 => 5
  | _ => 6

/-- The access unit in bytes of a format: an element, or a block (R84, R284). -/
def unitBytes (code : Nat) : Nat :=
  match sizeClass code with
  | 1 => 2 | 2 => 4 | 3 => 8
  | 5 => if fmtBits code = 4 then 8 else 16
  | _ => 1

/-- The zero code of an element (R84). -/
def zeroCode (code : Nat) : Nat := if elemOf code = 14 then 0x77 else 0

/-- The number of bits of a magnitude. -/
def bitLen (m : Nat) : Nat := if m = 0 then 0 else Nat.log2 m + 1

/-- The value a bit pattern stands for (R91, R93). -/
def FFmt.value (f : FFmt) (x : Nat) : FV :=
  let neg := x / 2 ^ (f.ebits + f.mbits) % 2 = 1
  let ex := x / 2 ^ f.mbits % 2 ^ f.ebits
  let m := x % 2 ^ f.mbits
  if f.hasNan && !f.hasInf && ex == 2 ^ f.ebits - 1 && m == 2 ^ f.mbits - 1 then .nan false
  else if f.hasInf && ex == 2 ^ f.ebits - 1 then
    if m = 0 then .inf neg else .nan (f.ieee && decide (m < 2 ^ (f.mbits - 1)))
  else if ex = 0 then .num neg m (1 - f.bias - f.mbits)
  else .num neg (m + 2 ^ f.mbits) (ex - f.bias - f.mbits)

/-- A signed integer as an exact value. -/
def ofInt (i : Int) : FV := .num (decide (i < 0)) i.natAbs 0

/-- Two's complement reading of w bits. -/
def sxN (w x : Nat) : Int := if x % 2 ^ w < 2 ^ (w - 1) then (x % 2 ^ w : Nat) else (x % 2 ^ w : Nat) - (2 ^ w : Nat)

/-- t(s, c) of R94. -/
def tsTerm (s c : Nat) : Int := if c = 7 then 0 else if s = 1 then -(2 ^ c : Nat) else (2 ^ c : Nat)

/-- The value of a `ts8` byte (R94). -/
def ts8Val (x : Nat) : Int := tsTerm (x / 128 % 2) (x / 16 % 8) + tsTerm (x / 8 % 2) (x % 8)

/-- The code written for a `ts8` value, if it has one (R94). -/
def ts8Code (v : Int) : Option Nat :=
  if v = 0 then some 0x77
  else (List.range 256).find? fun c => ts8Val c = v && decide (c / 16 % 8 ≤ c % 8)

/-- The value of an element of a format that convert reads (R107). -/
def valueOf (code x : Nat) : FV :=
  match kindOf code with
  | .int true w => ofInt (sxN w x)
  | .int false w => .num false (x % 2 ^ w) 0
  | .flt f => f.value x
  | .ts8 => ofInt (ts8Val x)
  | .e8m0 => if x % 256 = 255 then .nan false else .num false 1 ((x % 256 : Nat) - 127)
  | .other => .nan false

/-! ## Rounding -/

/-- How a neighbour is chosen: a mode of R101 for a value of a given sign, a draw of R104, or one neighbour outright. -/
inductive Rnd where
  | mode (rm : Nat) (neg : Bool)
  | draw (r : Nat)
  | away
  | toward
  deriving DecidableEq, Repr

/-- Whether the neighbour away from zero is taken when the remainder is rem / den of the step and the lower neighbour is odd. -/
def Rnd.up (c : Rnd) (odd : Bool) (rem den : Nat) : Bool :=
  if rem = 0 then false
  else match c with
  | .mode rm neg =>
    match rm with
    | 1 => decide (2 * rem > den) || (decide (2 * rem = den) && odd)
    | 3 => !neg
    | 4 => neg
    | 5 => decide (2 * rem ≥ den)
    | _ => false
  | .draw r => decide (rem * 2 ^ 32 > r * den)
  | .away => true
  | .toward => false

/-- m × 2^e in steps of 2^q: the chosen number of steps, whether it is exact, and whether the upper neighbour was taken. -/
def roundAt (c : Rnd) (m : Nat) (e q : Int) : Nat × Bool × Bool :=
  if e ≥ q then (m * 2 ^ (e - q).toNat, true, false)
  else
    let den := 2 ^ (q - e).toNat
    let n := m / den
    let rem := m % den
    let u := c.up (n % 2 = 1) rem den
    (if u then n + 1 else n, decide (rem = 0), u)

/-- Whether a × 2^i exceeds b × 2^j. -/
def gtPow (a : Nat) (i : Int) (b : Nat) (j : Int) : Bool :=
  let k := min i j
  decide (a * 2 ^ (i - k).toNat > b * 2 ^ (j - k).toNat)

/-- The bits of a magnitude n × 2^q that the format holds exactly. -/
def FFmt.encodeMag (f : FFmt) (n : Nat) (q : Int) : Nat :=
  if n = 0 then 0
  else
    let ee : Int := bitLen n - 1 + q
    let emin : Int := 1 - f.bias
    if ee < emin then (if q ≥ emin - f.mbits then n * 2 ^ (q - (emin - f.mbits)).toNat else n / 2 ^ ((emin - f.mbits) - q).toNat)
    else
      let sh := q - (ee - f.mbits)
      let sig := if sh ≥ 0 then n * 2 ^ sh.toNat else n / 2 ^ (-sh).toNat
      (ee + f.bias).toNat * 2 ^ f.mbits + (sig - 2 ^ f.mbits)

def FFmt.signBit (f : FFmt) (neg : Bool) : Nat := if neg then 2 ^ (f.ebits + f.mbits) else 0

/-- ± largest finite. -/
def FFmt.largest (f : FFmt) (neg : Bool) : Nat := f.signBit neg + f.encodeMag f.maxM f.maxE

/-- ∞ of a sign. -/
def FFmt.infinity (f : FFmt) (neg : Bool) : Nat := f.signBit neg + (2 ^ f.ebits - 1) * 2 ^ f.mbits

/-- Round an exact finite value (R103); with `.draw` it is the second half of R104. -/
def FFmt.roundMag (f : FFmt) (c : Rnd) (neg : Bool) (m : Nat) (e : Int) : Nat × Flags :=
  if m = 0 then (f.signBit neg, 0)
  else
    let ee : Int := bitLen m - 1 + e
    let emin : Int := 1 - f.bias
    let q := max (ee - f.mbits) (emin - f.mbits)
    let (n, exact, u) := roundAt c m e q
    if gtPow n q f.maxM f.maxE then
      let code :=
        if !f.hasInf then f.largest neg
        else match c with
        | .mode 2 _ => f.largest neg
        | .mode 3 _ => if neg then f.largest neg else f.infinity neg
        | .mode 4 _ => if neg then f.infinity neg else f.largest neg
        | .toward => f.largest neg
        | _ => f.infinity neg
      (code, fOF ||| fNX)
    else
      let c' : Rnd := match c with | .draw _ => if u then .away else .toward | c => c
      let qu := ee - f.mbits
      let (nu, _, _) := roundAt c' m e qu
      let tiny := gtPow 1 emin nu qu
      let fl : Flags := if exact then 0 else if tiny then fUF ||| fNX else fNX
      (f.signBit neg + f.encodeMag n q, fl)

/-- round(x, fmt, rm) of a value: NaN gives the canonical NaN, an infinity the format's (R103, R107). Log 14 (DEDUCED). -/
def FFmt.round (f : FFmt) (rm : Nat) : FV → Nat × Flags
  | .nan _ => if f.hasNan then (f.canon, 0) else (0, fNV)
  | .inf neg => if f.hasInf then (f.infinity neg, 0) else (f.largest neg, fOF ||| fNX)
  | .num neg m e => f.roundMag (.mode rm neg) neg m e

/-- The mixer M64 of two values (R170). -/
def m64 (k x : Word) : Word :=
  let r := fun (y : Word) => let y := y * 0xD6E8FEB86659FD93; let y := y ^^^ (y >>> 32); y ^^^ k
  r (r (r (r (x ^^^ k))))

/-- M64 of a key and several values (R170). -/
def m64s (k : Word) : List Word → Word
  | [] => k
  | x :: xs => m64s (m64 k x) xs

/-- An integer destination (R103, R107): out of range saturates with NV in place of NX. -/
def roundInt (c : Bool → Rnd) (lo hi : Int) : FV → Int × Flags
  | .nan _ => (0, fNV)
  | .inf neg => (if neg then lo else hi, fNV)
  | .num neg m e =>
    let (n, exact, _) := roundAt (c neg) m e 0
    let v : Int := if neg then -(n : Int) else n
    let far := match c neg with | .draw _ => gtPow m e (if neg && lo ≠ 0 then lo else hi).natAbs 0 | _ => false
    if far then (if neg then lo else hi, fNV)
    else if v < lo then (lo, fNV) else if v > hi then (hi, fNV) else (v, if exact then 0 else fNX)

/-- The lowest set bit of a magnitude; zero counts as larger than any (R95). -/
def lowBit (n : Nat) : Nat := if n = 0 then 1024 else 2 ^ ((List.range 16).findIdx fun i => n / 2 ^ i % 2 = 1)

/-- Rounding to `ts8` (R95, R107); out of range saturates, with NV and without NX when a conversion asks. -/
def roundTs8 (c : Bool → Rnd) : FV → Nat × Flags
  | .nan _ => (0x77, fNV)
  | .inf neg => (if neg then 0xEE else 0x66, fNV)
  | .num neg m e =>
    if gtPow m e 128 0 then (if neg then 0xEE else 0x66, fNV)
    else
      let fl : Nat := if e ≥ 0 then m * 2 ^ e.toNat else m / 2 ^ (-e).toNat
      let lo := ((List.range 129).reverse.find? fun v => v ≤ fl && (ts8Code v).isSome).getD 0
      let hi := ((List.range 129).find? fun v => decide (v > lo) && (ts8Code v).isSome).getD 128
      let k := (-e).toNat
      let x := if e ≥ 0 then m * 2 ^ e.toNat else m
      let rem := x - lo * 2 ^ k
      let den := (hi - lo) * 2 ^ k
      let u := match c neg with
        | .mode 1 _ =>
          if rem = 0 then false
          else if 2 * rem = den then decide (lowBit hi > lowBit lo)
          else decide (2 * rem > den)
        | r => r.up false rem den
      let v : Nat := if u then hi else lo
      ((ts8Code (if neg then -(v : Int) else v)).getD 0x77, if rem = 0 then 0 else fNX)

/-- A scale code from a value (R107, last row). A power of two outside the range raises NX beside OF or UF, a choice of the model's: the row
leaves open whether its k is taken before or after the clamp. Log 85 (DESIGN CHOICE). -/
def roundE8m0 (c : Rnd) : FV → Nat × Flags
  | .nan _ => (255, fNV)
  | .inf true => (255, fNV)
  | .inf false => (254, fOF ||| fNX)
  | .num neg m e =>
    if m = 0 then (0, fUF ||| fNX)
    else if neg then (255, fNV)
    else
      let k : Int := bitLen m - 1 + e
      let (n, exact, _) := roundAt c m e k
      let k' : Int := if n > 1 then k + 1 else k
      let nx : Flags := if exact then 0 else fNX
      if k' < -127 then (0, fUF ||| fNX)
      else if k' > 127 then (254, fOF ||| fNX)
      else ((k' + 127).toNat, nx)

/-- How convert chooses: a mode, or the draw of R104 for a value. -/
inductive Conv where
  | rm (m : Nat)
  | keyed (key ctr : Word)
  deriving DecidableEq, Repr

def Conv.rnd (c : Conv) (neg : Bool) : Rnd :=
  match c with
  | .rm m => .mode m neg
  | .keyed k x => .draw ((m64 k x).toNat / 2 ^ 32)

def intLo (signed : Bool) (w : Nat) : Int := if signed then -(2 ^ (w - 1) : Nat) else 0
def intHi (signed : Bool) (w : Nat) : Int := if signed then (2 ^ (w - 1) : Nat) - 1 else (2 ^ w : Nat) - 1
def wrapN (w : Nat) (i : Int) : Nat := (i % (2 ^ w : Nat)).toNat

/-- A number as a float of R107, under a chooser. -/
def toFloat (f : FFmt) (c : Conv) : FV → Nat × Flags
  | .num neg m e => f.roundMag (c.rnd neg) neg m e
  | v => f.round 1 v

/-- NV of a signalling NaN operand (R92). -/
def FV.sig : FV → Flags
  | .nan true => fNV
  | _ => 0

/-- convert of R107 on an exact value; `fromFloat` is whether flags of a float source apply. -/
def convertVal (v : FV) (fromFloat : Bool) (dst : Nat) (c : Conv) : Nat × Flags :=
  match kindOf dst with
  | .flt f => let (x, fl) := toFloat f c v; (x, fl ||| v.sig)
  | .int s w =>
    let (x, fl) := roundInt c.rnd (intLo s w) (intHi s w) v
    (wrapN w x, if fromFloat then fl ||| v.sig else 0)
  | .ts8 => let (x, fl) := roundTs8 c.rnd v; (x, if fromFloat then fl ||| v.sig else 0)
  | .e8m0 =>
    let r := match c with
      | .rm 1 => .mode 5 false
      | c => c.rnd false
    let (x, fl) := roundE8m0 r v
    (x, fl ||| v.sig)
  | .other => (0, 0)

/-- Whether a format is a float or a scale, for the flags of R107. -/
def isFloatFmt (code : Nat) : Bool := match kindOf code with | .flt _ | .e8m0 => true | _ => false

/-- convert(x, from, to) of R107. -/
def convert (x fm dst : Nat) (c : Conv) : Nat × Flags := convertVal (valueOf fm x) (isFloatFmt fm) dst c

/-! ## Subnormal flushing -/

/-- Whether R105 flushes the format. -/
def flushes (code : Nat) : Bool := code = 8 || code = 9 || code = 10

/-- A subnormal pattern of a float format. -/
def FFmt.isSub (f : FFmt) (x : Nat) : Bool := x / 2 ^ f.mbits % 2 ^ f.ebits = 0 && x % 2 ^ f.mbits ≠ 0

/-- A subnormal input read as zero of its sign. -/
def FFmt.flushIn (f : FFmt) (ftz : Bool) (x : Nat) : Nat := if ftz && f.ieee && f.isSub x then x - x % 2 ^ f.mbits else x

/-- A subnormal result replaced by zero, with UF and NX. -/
def FFmt.flushOut (f : FFmt) (ftz : Bool) (r : Nat × Flags) : Nat × Flags :=
  if ftz && f.ieee && f.isSub r.1 then (r.1 - r.1 % 2 ^ f.mbits, r.2 ||| fUF ||| fNX) else r

/-! ## Exact sums and products -/

/-- A sum of two values, with NV for ∞ − ∞; an exact zero of opposite operands is −0 only in RDN (R103). -/
def FV.add (rm : Nat) : FV → FV → FV × Flags
  | .nan a, .nan b => (.nan false, (FV.nan a).sig ||| (FV.nan b).sig)
  | .nan a, _ => (.nan false, (FV.nan a).sig)
  | _, .nan b => (.nan false, (FV.nan b).sig)
  | .inf a, .inf b => if a = b then (.inf a, 0) else (.nan false, fNV)
  | .inf a, _ => (.inf a, 0)
  | _, .inf b => (.inf b, 0)
  | .num a m e, .num b n f =>
    let q := min e f
    let x : Nat := m * 2 ^ (e - q).toNat
    let y : Nat := n * 2 ^ (f - q).toNat
    let z : Int := (if a then -(x : Int) else x) + (if b then -(y : Int) else y)
    if z = 0 then (if a = b then .num a 0 q else .num (decide (rm = 4)) 0 q, 0)
    else (.num (decide (z < 0)) z.natAbs q, 0)

/-- A product of two values, with NV for 0 × ∞ (R270). -/
def FV.mul : FV → FV → FV × Flags
  | .nan a, .nan b => (.nan false, (FV.nan a).sig ||| (FV.nan b).sig)
  | .nan a, _ => (.nan false, (FV.nan a).sig)
  | _, .nan b => (.nan false, (FV.nan b).sig)
  | .inf a, .inf b => (.inf (a != b), 0)
  | .inf a, .num b n _ => if n = 0 then (.nan false, fNV) else (.inf (a != b), 0)
  | .num a m _, .inf b => if m = 0 then (.nan false, fNV) else (.inf (a != b), 0)
  | .num a m e, .num b n f => (.num (a != b) (m * n) (e + f), 0)

def FV.neg : FV → FV
  | .nan s => .nan s
  | .inf a => .inf (!a)
  | .num a m e => .num (!a) m e

/-- Order of two values that are no NaN: less, with −0 equal to +0. -/
def FV.lt : FV → FV → Bool
  | .inf true, .inf true => false
  | .inf true, _ => true
  | _, .inf true => false
  | .inf false, _ => false
  | _, .inf false => true
  | .num a m e, .num b n f =>
    match a && m ≠ 0, b && n ≠ 0 with
    | true, true => gtPow m e n f
    | true, false => true
    | false, true => false
    | false, false => gtPow n f m e
  | _, _ => false

def FV.isNan : FV → Bool | .nan _ => true | _ => false

/-- The sign of a value. -/
def FV.negative : FV → Bool | .inf a => a | .num a _ _ => a | .nan _ => false

/-- The greater (or lesser) of two patterns of one format, −0 below +0, the canonical NaN for any NaN (R269, R154). -/
def FFmt.pick (f : FFmt) (greater : Bool) (x y : Nat) : Nat × Flags :=
  let a := f.value x
  let b := f.value y
  let fl := a.sig ||| b.sig
  if a.isNan || b.isNan then (f.canon, fl)
  else
    let xl := a.lt b || (!(b.lt a) && a.negative && !b.negative)
    (if xl = greater then y else x, fl)

/-! ## Blocks -/

/-- A finite value times a power of two. -/
def FV.scale (v : FV) (k : Int) : FV := match v with | .num a m e => .num a m (e + k) | v => v

/-- The value of element x of a block with scale sc (R96). -/
def blockValue (elem x sc : Nat) : FV :=
  if sc = 255 then .nan false else (valueOf elem x).scale ((sc : Int) - 127)

/-- Whether |a| > |b| for finite values. -/
def FV.magGt : FV → FV → Bool
  | .num _ m e, .num _ n f => gtPow m e n f
  | _, _ => false

def blkEmax (elem : Nat) : Int := match elem with | 11 => 8 | 12 => 15 | 13 => 2 | 0 => 6 | 15 => 2 | _ => 7
def blkQmax (elem : Nat) : Nat := match elem with | 11 => 448 | 12 => 57344 | 13 => 6 | 0 => 127 | 15 => 7 | _ => 128

/-- One element of a block at its scale: rounded RNE and saturated to ± qmax (R100). -/
def quantElem (elem : Nat) (y : FV) : Nat × Flags :=
  match y with
  | .num neg m e =>
    if gtPow m e (blkQmax elem) 0 then
      let (x, _) := convertVal (.num neg (blkQmax elem) 0) true elem (.rm 1)
      (x, fNX)
    else
      let (x, fl) := convertVal y true elem (.rm 1)
      let z := valueOf elem x
      -- a value that rounds beyond qmax saturates to it
      if z.magGt (.num false (blkQmax elem) 0) then
        ((convertVal (.num neg (blkQmax elem) 0) true elem (.rm 1)).1, fNX)
      else (x, fl &&& fNX)
  | _ => (0, 0)

/-- quantise16 of R100: the scale, the codes and the flags. -/
def quantise16 (xs : List FV) (elem : Nat) : Nat × List Nat × Flags :=
  if xs.any (fun x => match x with | .num _ _ _ => false | _ => true) then (255, xs.map fun _ => zeroCode elem, fNV)
  else
    let m := xs.foldl (fun a x => if x.magGt a then x else a) (.num false 0 0)
    match m with
    | .num _ mm me =>
      if mm = 0 then (127, xs.map fun _ => zeroCode elem, 0)
      else
        let sc0 : Int := bitLen mm - 1 + me - blkEmax elem + 127
        let sc : Int := if sc0 < 0 then 0 else if sc0 > 254 then 254 else sc0
        let es := xs.map fun x => quantElem elem (x.scale (127 - sc))
        let fl := es.foldl (fun a r => a ||| r.2) (if sc0 > 254 then fOF else 0)
        (sc.toNat, es.map (·.1), fl)
    | _ => (127, [], 0)

/-! ## Seeds -/

/-- Integer square root, bit by bit from bit n − 1 down. -/
def isqrtFrom : Nat → Nat → Nat → Nat
  | 0, _, r => r
  | n + 1, x, r => if (r + 2 ^ n) * (r + 2 ^ n) ≤ x then isqrtFrom n x (r + 2 ^ n) else isqrtFrom n x r

def isqrt (x : Nat) : Nat := isqrtFrom (bitLen x / 2 + 1) x 0

/-- The reciprocal seed of R272 for a pattern of the format. -/
def FFmt.seedRcp (f : FFmt) (x : Nat) : Nat × Flags :=
  match f.value x with
  | .nan s => (f.canon, (FV.nan s).sig)
  | .inf neg => (f.signBit neg, 0)
  | .num neg m e0 =>
    if m = 0 then (f.infinity neg, fDZ)
    else
      let fb := min 12 f.mbits
      let L := bitLen m
      let lg : Nat := if m = 2 ^ (L - 1) then L - 1 else L
      let q := 2 ^ (fb + lg) / m
      let exact := q * m = 2 ^ (fb + lg)
      let e : Int := -(lg : Int) - e0
      let (r, fl) := f.roundMag .toward neg q (e - fb)
      (r, if exact then fl else fl ||| fNX)

/-- The reciprocal square root seed of R272. -/
def FFmt.seedRsq (f : FFmt) (x : Nat) : Nat × Flags :=
  match f.value x with
  | .nan s => (f.canon, (FV.nan s).sig)
  | .inf true => (f.canon, fNV)
  | .inf false => (0, 0)
  | .num neg m e0 =>
    if m = 0 then (f.infinity neg, fDZ)
    else if neg then (f.canon, fNV)
    else
      let fb := min 12 f.mbits
      let m := if e0 % 2 = 0 then m else 2 * m
      let e0 := if e0 % 2 = 0 then e0 else e0 - 1
      let L := bitLen m
      -- floor(log2 (1/m)) is −lg, so floor(log2 y) is (−lg div 2) − e0/2
      let lg : Nat := if m = 2 ^ (L - 1) then L - 1 else L
      let h : Int := (-(lg : Int)) / 2
      let k := (2 * ((fb : Int) - h)).toNat
      let q := isqrt (2 ^ k / m)
      let exact := q * q * m = 2 ^ k
      let e : Int := h - e0 / 2
      let (r, fl) := f.roundMag .toward false q (e - fb)
      (r, if exact then fl else fl ||| fNX)

/-- The class code of R271. -/
def FFmt.classOf (f : FFmt) (x : Nat) : Nat :=
  match f.value x with
  | .nan true => 8
  | .nan false => 9
  | .inf true => 0
  | .inf false => 7
  | .num neg m _ =>
    if m = 0 then (if neg then 3 else 4)
    else if f.isSub x then (if neg then 2 else 5)
    else if neg then 1 else 6

end Sys2Proof.Machine
end

