-- ==== Sys2Proof/Config.lean ====
section
/-! DEFINITION. What each module fixes for itself and the spec does not give (R415, R418): constants without a value, so that no proof can rest on one. -/

namespace Sys2Proof.Config

/-- Byte i of the module serial number, the root-of-trust and the management firmware versions (R415, op 1). Log 6. -/
opaque identity : Nat → Byte
/-- The root-of-trust firmware image (R418). Log 6. -/
opaque rootImage : List Byte
/-- The management-controller firmware image that the module runs until a committed one takes its place (R415, R418). Log 6. -/
opaque factoryImage : List Byte
/-- The bytes that are hashed for an index of R418 whose measurement is of registers, given their values. Log 6. -/
opaque measuredBytes : Nat → List Word → List Byte
/-- Byte i of the answer to an SPDM request (R418): signed with keys the spec does not give. Log 6. -/
opaque attestation : List Byte → Nat → Byte
/-- The length of that answer. Log 6. -/
opaque attestationLength : List Byte → Nat
/-- Whether a staged firmware image verifies under R418. Log 6. -/
opaque verifies : List Byte → Bool

/-- Which of the sixteen 8-byte parts of a template that its die has cached a copy takes from the cache (R151), by a command
number. Log 21. -/
opaque templateMix : Nat → BitVec 16
/-- The plane at which a split of a Loom row falls (R319), by a number of `State.fresh`. Log 22. -/
opaque splitPlane : Nat → Nat

/-- The place in a spill area from which a free one is sought for a spilled record or payload word (R216), by a number of
`State.fresh`. Log 52. -/
opaque spillPlace : Nat → Nat

/-- Which bytes of an engine write keep what another command in flight wrote to them (R135), by a number of `State.fresh`. Log 42. -/
opaque byteMix : Nat → BitVec 8

/-- Which bits of the two digests of a replica report stand in word 1 or 2 of its 32-byte entry (R406). Log 59. -/
opaque reportBits : BitVec 256 → BitVec 256 → Nat → BitVec 64

/-- The inner cause of a record for which no rule gives one: a launch refused for want of granules (R47), and a dropped aperture write
(R225), by a number of `State.fresh`. Logs 26 and 57. -/
opaque openInner : Nat → BitVec 8

end Sys2Proof.Config
end

