-- ==== Sys2Proof/Machine/State.lean ====
section
/-! DEFINITION. The state of the Flotur D960 as plain data: everything that spec/ gives the machine, and the model's own schedule.
A sparse list (`SMap`) names only the places that differ from their reset value. -/

namespace Sys2Proof.Machine

/-! ## Strands -/

/-- The strand states of R203. -/
inductive SState where
  | free | idle | ready | blocked | parked | halted | moving
  deriving DecidableEq, Repr

/-- Ordering kinds of pages and regions (R69, R12). -/
inductive OrdKind where
  | so | rc | uo
  deriving DecidableEq, Repr

/-- The names a byte can be reached by (R114). -/
inductive AName where
  | alias_ | mesh | translated
  deriving DecidableEq, Repr

/-- The key of a shadow: `space`, `base` and `extent` of a record (R142). -/
structure ShKey where
  part : Nat
  space : BitVec 2
  base : BitVec 56
  extent : BitVec 32
  deriving DecidableEq, Repr

/-- One single-copy atomic part of a strand's access, checked and routed to its home (R127, R283, R286).
`key` is the home of its first byte (see Ops.lean), `va` the address it was made by. -/
structure Part1 where
  key : Nat
  va : Word
  size : Nat
  name : AName
  kind : OrdKind
  /-- the core copy may hold it: a translated RC or UO page (R40) -/
  cached : Bool
  /-- the shadow key of the record it came through -/
  thru : Option ShKey
  /-- the bit of the destination or of the stored data it stands at -/
  pos : Nat
  /-- pa of the entry whose counter a request for the page raises (R54): a base page -/
  pte : Option Nat
  /-- translated by a large page -/
  large : Bool := false
  /-- the level the access was made at, which a store into registers acts at (R15, R18) -/
  lvl : BitVec 2 := 0
  deriving DecidableEq, Repr

/-- The registers whose values instructions wait for (R113, R116). -/
inductive RegName where
  | s (r : BitVec 5) | k (r : BitVec 3) | v (r : BitVec 5) | b (r : BitVec 4)
  deriving DecidableEq, Repr

/-- A value that an access or an instruction waits for: the register, the number of what produces it, and the bit of the data it
stands at. -/
structure Need where
  reg : RegName
  tag : Nat
  pos : Nat
  deriving DecidableEq, Repr

/-- A store that has entered an outbox (R113). -/
structure Out where
  at_ : Part1
  val : Word
  /-- the scope of an `strl` -/
  rel : Option (BitVec 3)
  /-- its number, for what waits for it -/
  id : Nat
  deriving DecidableEq, Repr

/-- Where a load's value goes when all its parts are fixed. Data bits 0 to 511 are those of the register, bits 512 to 575 the
scale bytes of VLDX. -/
inductive Dst where
  /-- an s register, `bits` wide, sign-extended when `sx` -/
  | sreg (d : BitVec 5) (bits : Nat) (sx : Bool)
  /-- a v register -/
  | vreg (d : BitVec 5)
  /-- a v register and the low bytes of a k register, as many as slots -/
  | vblk (d : BitVec 5) (k : BitVec 3) (slots : Nat)
  /-- a buffer record -/
  | brec (d : BitVec 4)
  deriving DecidableEq, Repr

/-- The functions of ATOM and ACAS (R290, R291). -/
inductive AtomOp where
  | add | and | or | xor | min | max | minn | maxn | xchg | fadd | faddh | fmax | cas
  deriving DecidableEq, Repr

/-- An atomic as it was issued. -/
structure AtomReq where
  op : AtomOp
  /-- type field: width or format (R237) -/
  ty : BitVec 2
  scope : BitVec 3
  d : BitVec 5
  x : Word
  expect : Word
  pc : Word
  deriving DecidableEq, Repr

/-- An access that was issued, has passed its checks and is not yet performed (R116, R117). -/
structure Pend where
  /-- its number, by which registers and entries of the loop-back port name it -/
  id : Nat
  /-- its parts that have taken no step: of a load not fixed, of a store not entered, of an atomic not performed; those in the
  loop-back port apart -/
  parts : List Part1
  /-- parts in the loop-back port -/
  ported : Nat
  /-- the bits of a load fixed so far; of a store its data, so far as known -/
  got : BitVec 576
  dst : Dst
  /-- the scope of an `ldaq` -/
  acq : Option (BitVec 3)
  /-- an atomic, at the one part -/
  atom : Option AtomReq
  /-- a store, with the scope of an `strl` -/
  store : Option (Option (BitVec 3))
  /-- the atomic stands in a home fault queue (R156) -/
  parked : Bool
  /-- the data of a store or an atomic that is not yet known (R116) -/
  need : List Need
  /-- a gather: each part is an access of its own (R127) -/
  lanes : Bool
  /-- the enabled watermark windows of the strand at its issue (R140) -/
  win : List Word
  deriving DecidableEq, Repr

/-- An access in the loop-back port of the core (R129): a store's data, or none for a load or an atomic; and its number. -/
structure PortEntry where
  at_ : Part1
  val : Option Word
  id : Nat
  deriving DecidableEq, Repr

/-- The fences of R293. -/
inductive Fence where
  | fence (scope : BitVec 3)
  | lbfenc | ifenc
  /-- EFENC, with the commands and messages it waits for, by number -/
  | efenc
  deriving DecidableEq, Repr

/-- The role of a task that the Bolter or the Assay started (R364, R370). -/
inductive Role where
  | none
  /-- stage s of record i of a set -/
  | stage (set : BitVec 4) (i : Nat) (s : Nat)
  /-- tile task of an Assay launch: 0 surrogate, 1 check, 2 exact -/
  | tile (launch : Nat) (tile : Nat) (which : Nat)
  deriving DecidableEq, Repr

/-- A payload word of a core: in the core, or at a word of its spill area (R216, R220). -/
structure PWord where
  w : Word
  slot : Option Nat
  deriving DecidableEq, Repr

/-- A task record (R208) with what the device keeps beside it. -/
structure TRec where
  code : Word
  frame : Word
  seq : BitVec 16
  level : BitVec 2
  prio : BitVec 2
  cw : BitVec 30
  path : Word
  a0 : Word
  a1 : Word
  a2 : Word
  a3 : Word
  /-- the core whose cell a `cw` with `remote` 0 names: the issuing core (R146) -/
  cwCore : Nat
  /-- the cell whose firing made the record (R218) -/
  handler : Option (BitVec 12)
  /-- the payload of that firing (R220), and whether payloads without `seq` came from more than one sender (R219) -/
  words : List PWord
  mixed : Bool
  /-- the launches the task descends from (R48) -/
  launches : List Nat
  role : Role
  /-- b0 at the start of an Assay task (R370), and its handle (R351) -/
  b0 : BRec
  tag : Option (BitVec 12)
  /-- the place of a spilled record in its core's spill area (R211, R216) -/
  slot : Option Nat
  deriving DecidableEq, Repr

/-- What a strand waits for that its PC alone does not say. -/
inductive Wait where
  | none
  /-- parked in `jcwait` on a cell of the core it was on -/
  | cell (core : Nat) (j : BitVec 12)
  /-- parked on a returning atomic (R157) -/
  | atomic
  /-- parked in SHDW until its shadow can open (R142) -/
  | shadow (k : ShKey)
  /-- PUBL and DISC after the close (R144, R145) -/
  | publ (k : ShKey)
  | disc (k : ShKey)
  /-- parked in STGSEQ (R366) -/
  | turn (set : BitVec 4) (i : Nat) (s : Nat)
  /-- parked in GSTAT until no launch of that descriptor is in flight (R372) -/
  | launch (desc : Word)
  /-- blocked on a read or a write of a queue register (R226) -/
  | qread (n : BitVec 3)
  | qwrite (n : BitVec 3)
  /-- stalled until the Forge serves its request (R353) -/
  | forge
  /-- stalled until an engine queue and the scoreboard have room for its command (R134, R136) -/
  | accept
  /-- stalled until its records for its own core have entered the queues; then its instruction retires, of so many bytes (R211) -/
  | spawn (len : Nat)
  /-- WFI (R256) -/
  | wfi
  deriving DecidableEq, Repr

/-- An instruction of registers alone that waits for a value an earlier access has yet to fix (R113, R116): its words, and the
registers as it was issued with them. -/
structure Held where
  /-- its number, by which registers name it -/
  id : Nat
  w : IWord
  x : IWord
  s : Vector Word 32
  k : Vector Word 8
  v : Vector VReg 32
  dead : BitVec 32
  b : Vector BRec 16
  fctl : Word
  /-- the registers it waits for, with the numbers of what produces them -/
  need : List (RegName × Nat)
  deriving DecidableEq, Repr

/-- The CSRs kept with a strand (R251). -/
structure StrandCsrs where
  fctl : Word
  lwrr : Word
  wmwin : Vector Word 4
  atol : Vector Word 8
  fbudget : Word
  sealk : Vector Word 8
  tvec : Word
  tcause : Word
  tval : Word
  tpc : Word
  tstat : Word
  tdeleg : Word
  tscratch : Word
  atvec : Word
  deriving DecidableEq, Repr

/-- The current task of a strand (R17, R171, R207). -/
structure Task where
  path : Word
  seq : BitVec 16
  cw : BitVec 30
  cwCore : Nat
  handler : Option (BitVec 12)
  prio : BitVec 2
  /-- the next spawn ordinal -/
  ordinal : Word
  /-- payload words of the firing that q6 does not show yet (R220) -/
  words : List PWord
  mixed : Bool
  launches : List Nat
  role : Role
  deriving DecidableEq, Repr

/-- The halt record of a frame (R391); `hpc`, `why`, `lvl`, `prior`, and the counts at the halt. -/
structure HaltRec where
  hpc : Word
  why : BitVec 8
  lvl : BitVec 2
  prior : SState
  sent : Word
  rcvd : Word
  deriving DecidableEq, Repr

def HaltRec.zero : HaltRec := { hpc := 0, why := 0, lvl := 0, prior := .free, sent := 0, rcvd := 0 }

/-- A strand frame and the parts of the ordering machine that belong to the strand (R17, R113, R203). -/
structure Strand where
  s : Vector Word 32
  k : Vector Word 8
  v : Vector VReg 32
  /-- bit i: v_i is dead and reads zero (R65) -/
  dead : BitVec 32
  weave : Vector (BitVec 3) 8
  b : Vector BRec 16
  q : Vector (List Word) 8
  pc : Word
  st : SState
  level : BitVec 2
  /-- the rank QPAIR named, and whether the pairing is valid (R226) -/
  partner : Option (BitVec 16)
  paired : Bool
  csr : StrandCsrs
  task : Task
  tag : Option (BitVec 12)
  tagRet : Option Word
  /-- interrupt code 1 with the address it names (R376, R383) -/
  irq : Option Word
  sent : Word
  rcvd : Word
  rank : BitVec 16
  /-- words fetched in sequence from `pc` on (R132) -/
  fbuf : List IWord
  out : List Out
  port : List PortEntry
  pend : List Pend
  /-- the open fences with their numbers, oldest first -/
  fences : List (Nat × Fence)
  /-- the registers whose values are not yet known, with the numbers of what produces them (R116) -/
  tags : List (RegName × Nat)
  /-- instructions that wait for such values, oldest first -/
  held : List Held
  wait : Wait
  resident : Bool
  /-- blocked for 256 cycles (R205) -/
  slow : Bool
  /-- the forwarding entry of a vacated frame: the strand place that now holds the rank (R30) -/
  fwd : Option Nat
  /-- the state that a moving strand has where it lands (R204) -/
  rest : SState
  /-- released into a wait: it issues from its PC, and waits again if the wait holds (R203) -/
  again : Bool
  /-- the next fetch is the first after a trap delivery (R375) -/
  vecFetch : Bool
  /-- address ranges its TLBINVs removed since its last PTSYNC (R80) -/
  inv : List (Nat × Nat)
  /-- queue slots beyond a queue's occupancy that a store wrote: queue * 8 + slot (R18) -/
  qmem : SMap Word
  halt : HaltRec
  deriving DecidableEq, Repr

def StrandCsrs.reset : StrandCsrs :=
  { fctl := 0x800, lwrr := 1, wmwin := .replicate 4 0, atol := .replicate 8 0, fbudget := 0x10000000010000,
    sealk := .replicate 8 0, tvec := 0, tcause := 0, tval := 0, tpc := 0, tstat := 0, tdeleg := 0, tscratch := 0, atvec := 0 }

def Task.none : Task :=
  { path := 0, seq := 0, cw := 0, cwCore := 0, handler := .none, prio := 0, ordinal := 0, words := [], mixed := false,
    launches := [], role := .none }

/-- A free frame after reset. DESIGN CHOICE (log 4): the registers for which the spec gives no reset value are zero. -/
def Strand.reset : Strand :=
  { s := .replicate 32 0, k := .replicate 8 0, v := .replicate 32 0, dead := BitVec.allOnes 32, weave := .replicate 8 0,
    b := .replicate 16 0, q := .replicate 8 [], pc := 0, st := .free, level := 0, partner := .none, paired := false,
    csr := .reset, task := .none, tag := .none, tagRet := .none, irq := .none, sent := 0, rcvd := 0, rank := 0,
    fbuf := [], out := [], port := [], pend := [], fences := [], tags := [], held := [], wait := .none, resident := false, slow := false,
    fwd := .none, rest := .free, again := false, vecFetch := false, inv := [], qmem := [], halt := .zero }

/-! ## Cores and join cells -/

/-- A leaf entry as a TLB holds it (R73): the part of the address space it covers, the two halves as walked, and the page's key. -/
structure TlbEntry where
  part : Nat
  /-- first address of the page -/
  va : Nat
  large : Bool
  /-- pa of the entry -/
  pte : Nat
  lo : Word
  hi : Word
  key : BitVec 32
  deriving DecidableEq, Repr

/-- A line of the core copy (R41): its bytes and its dirty mask. -/
structure Line where
  data : VReg
  dirty : BitVec 64
  /-- pa of the translated page the line belongs to (R43) -/
  page : Nat
  /-- pa of the entry whose counter its write-backs raise (R54) -/
  pte : Option Nat
  rc : Bool
  deriving DecidableEq, Repr

/-- A scoreboard entry (R136), with the command that holds it. -/
structure Board where
  cmd : Nat
  lo : Nat
  hi : Nat
  write : Bool
  deriving DecidableEq, Repr

structure Core where
  stage : BitVec 6
  strands : BitVec 16
  /-- task queues by priority, oldest first, with the spill (R211) -/
  queues : Vector (List TRec) 4
  cspill : Word
  gateReq : Bool
  gate : BitVec 2
  cfstk : Vector Word 16
  cdbg : Word
  cmtvec : Word
  /-- groups that hold the core halted (R374, R395), and those whose signal is on its way to it -/
  grps : BitVec 16
  sig : BitVec 16
  /-- ranks whose entry the NI caches, with the entry (R28) -/
  ni : List (Nat × BitVec 32)
  tlb : List TlbEntry
  /-- the core copy, by the home of the line -/
  lines : SMap Line
  board : List Board
  last : Nat
  /-- frames that wait for residence, with the cycle in which each last began (R205) -/
  waitq : List (Nat × Word)
  /-- frames whose PC a master stored since their vector halt, and those whose halt of reasons 3 to 6 has been released (R392) -/
  stored : BitVec 16
  freed : BitVec 16
  deriving DecidableEq, Repr

/-- Log 4 (DESIGN CHOICE). -/
def Core.reset : Core :=
  { stage := 0, strands := 0, queues := .replicate 4 [], cspill := 0, gateReq := false, gate := 0,
    cfstk := .replicate 16 0, cdbg := 0, cmtvec := 0, grps := 0, sig := 0,
    ni := [], tlb := [], lines := [], board := [], last := 15, waitq := [], stored := 0, freed := 0 }

/-- A payload in an arrival queue (R219): its words, its `seq`, and its sender. -/
structure Payload where
  words : List PWord
  seq : Option (BitVec 16)
  sender : Nat
  deriving DecidableEq, Repr

/-- A join cell with its hidden state (R20, R217). -/
structure Cell where
  count : BitVec 32
  initial : BitVec 32
  ordered : Bool
  reinit : Bool
  failed : Bool
  parked : Bool
  code : Word
  frame : Word
  arrivals : List Payload
  spawned : BitVec 16
  next : BitVec 16
  hpath : Word
  hord : Word
  firing : Word
  /-- the launches of the task that initialised it (R48) -/
  launches : List Nat
  deriving DecidableEq, Repr

def Cell.zero : Cell :=
  { count := 0, initial := 0, ordered := false, reinit := false, failed := false, parked := false, code := 0, frame := 0,
    arrivals := [], spawned := 0, next := 0, hpath := 0, hord := 0, firing := 0, launches := [] }

/-! ## Clusters, dies, Looms, copy channels -/

structure Cluster where
  rsv : BitVec 256
  granted : BitVec 256
  sacfg : Word
  fqcfg : Word
  fqdoor : Word
  clspill : Word
  cecnt : BitVec 32
  rpcfg : Word
  tlb : List TlbEntry
  deriving DecidableEq, Repr

def Cluster.reset : Cluster :=
  { rsv := 0, granted := 0, sacfg := 0, fqcfg := 0, fqdoor := 0, clspill := 0, cecnt := 0, rpcfg := 0, tlb := [] }

/-- A walk-cache copy of a pointer entry (R73): its partition, level, the range of addresses it covers, and its low half. -/
structure WalkEntry where
  part : Nat
  level : Nat
  index : Nat
  lo : Word
  deriving DecidableEq, Repr

/-- A SPEC waiting at its die's Forge (R353). -/
structure ForgeReq where
  strand : Nat
  part : Nat
  index : BitVec 12
  code : Word
  size : Nat
  map : Word
  /-- the handle of a handle source -/
  src : Option (BitVec 12)
  args : List (Nat × Word)
  steps : Nat
  insns : Nat
  d : BitVec 5
  deriving DecidableEq, Repr

structure Die where
  walk : List WalkEntry
  forge : List ForgeReq
  /-- template cache: template address and its 128 bytes (R151) -/
  templates : List (Word × BitVec 1024)
  /-- how many frames of each core hold a strand that nothing has touched since the die joined its partition (R261), whether
  such strands are halted, and their halt record -/
  frames : BitVec 5
  held : Bool
  hrec : HaltRec
  deriving DecidableEq, Repr

def Die.reset : Die := { walk := [], forge := [], templates := [], frames := 0, held := false, hrec := .zero }

/-- The descriptor of a macro set (R296). -/
structure LDesc where
  kblk : BitVec 6
  ncol : BitVec 8
  pad : Byte
  bfmt : BitVec 5
  sbm : Bool
  deriving DecidableEq, Repr

def LDesc.empty : LDesc := { kblk := 0, ncol := 0, pad := 0, bfmt := 0, sbm := false }

/-- A Loom: which physical set is active, the issue-time view (active, staging) and the descriptors as executed, by
physical set (R296, R298). -/
structure Loom where
  act : Bool
  viewAct : LDesc
  viewStg : LDesc
  live0 : LDesc
  live1 : LDesc
  seq : Nat
  deriving DecidableEq, Repr

/-- Log 4 (DESIGN CHOICE). -/
def Loom.reset : Loom :=
  { act := false, viewAct := .empty, viewStg := .empty, live0 := .empty, live1 := .empty, seq := 0 }

/-- The state word of a copy channel (R138). -/
structure Chan where
  next : BitVec 16
  cur : BitVec 16
  wm : BitVec 32
  deriving DecidableEq, Repr

def Chan.reset : Chan := { next := 0, cur := 0xFFFF, wm := 0xFFFFFFFF }

/-! ## Engine commands -/

/-- What a command does, with the records and values of its snapshot (R133). -/
inductive CmdOp where
  /-- a CPYT that no channel has accepted: channel and template index (R148) -/
  | start (chan t : Nat)
  /-- a copy: its records name their effective formats (R150) -/
  | copy (chan : Nat) (src dst : BRec) (conv : Bool) (rm : BitVec 3) (key ctr : Word)
  | lmm (c a : BRec) (pair : BitVec 3) (un : Bool) (cs : BitVec 2) (d : LDesc) (first count : Nat) (bitmap : Bool)
  | lmmg (c a : BRec) (pair : BitVec 3) (un : Bool) (cs : BitVec 2) (d : LDesc) (offs : List Nat)
  | lbld (b : BRec) (pad : Byte)
  | lbswp
  | laini (c : BRec) (pair : BitVec 3)
  | ladr (d c : BRec) (rm : BitVec 3)
  | topk (o sc : BRec) (k : Nat) (g : Nat) (col key min : Bool) (spawn : Option (Word × Word × Word))
  | rread (l : BRec) (rank : BitVec 16) (off : Nat)
  | rwrite (src dst : BRec) (rank : BitVec 16)
  | halo (t : BRec) (h : Nat) (nb : List (Nat × BitVec 16))
  deriving DecidableEq, Repr

/-- Why a command failed (R377): the failing unit's cause, address and `info`; the machine-check code when bad data was consumed, else
0 (R383). -/
structure Failure where
  inner : BitVec 8
  addr : Word
  info : Word
  code : BitVec 8
  deriving DecidableEq, Repr

/-- An issued or accepted engine command (R134). -/
structure Cmd where
  id : Nat
  op : CmdOp
  by_ : Nat
  core : Nat
  part : Nat
  rank : BitVec 16
  pc : Word
  level : BitVec 2
  /-- the seals, the mode and `LWRR` of the snapshot (R162, R307) -/
  seals : List (BitVec 32)
  frm : BitVec 3
  wt : BitVec 4
  cw : Word
  /-- octet or channel sequence number -/
  seq : Nat
  /-- pieces read, by index, and pieces written -/
  got : SMap Word
  wrote : SMap Unit
  /-- the lines it has requested from their home slices, to write or to read (R54) -/
  seen : List (Bool × Nat)
  /-- pieces that stand in a fault queue (R156) -/
  parked : List Nat
  flags : BitVec 5
  fail : Option Failure
  /-- ordinals taken at issue (R357) and the path, launches and priority of the issuing task -/
  ord : Word
  path : Word
  prio : BitVec 2
  launches : List Nat
  /-- a split of a row: row and plane (R319) -/
  split : Option (Nat × Nat)
  deriving DecidableEq, Repr

/-! ## The network -/

/-- What travels (R29, R31). -/
inductive Body where
  | decrement (cell : BitVec 12) (dec : BitVec 8) (words : List Word) (seq : Option (BitVec 16)) (failed : Bool)
  | record (r : TRec)
  | entry (n : BitVec 3) (val : Word)
  | handover (key : BitVec 32) (cw : Word) (cwCore : Nat) (pc : Word)
  deriving DecidableEq, Repr

/-- An item under way: its number, its sender (a strand, or an engine command above 2^32), the rank it names if any, the strand
place it was routed to, and whether it counts in `sent` and `rcvd` (R393). -/
structure Msg where
  id : Nat
  /-- its place in issue order: its number, or that of the command whose row or strip it counts (R340) -/
  ord : Nat
  sender : Nat
  rank : Option (BitVec 16)
  dest : Nat
  counted : Bool
  /-- taken at a halted core and held there (R389) -/
  held : Bool
  /-- the strand whose instruction or command it serves (R293, R340), when `sender` is a command -/
  for_ : Option Nat
  /-- it goes to a cell of the core at `dest`, wherever its rank moves (R339) -/
  stays : Bool
  body : Body
  deriving DecidableEq, Repr

/-! ## Partitions -/

/-- A residual of the Forge (R350). -/
structure Handle where
  ref : BitVec 16
  res : BitVec 16
  held : Bool
  bound : Bool
  kept : Bool
  /-- storage: first address and length in instructions -/
  base : Word
  len : Nat
  /-- bytes of the residual -/
  bytes : Nat
  map : Word
  src : Option (BitVec 12)
  /-- the early-bound registers with their values (R349) -/
  args : List (Nat × Word)
  deriving DecidableEq, Repr

def Handle.free : Handle :=
  { ref := 0, res := 0, held := false, bound := false, kept := false, base := 0, len := 0, bytes := 0, map := 0, src := .none, args := [] }

/-- An open shadow (R141 to R145): its key, who opened it, whether it is closed to new writes, and the bytes written, by home. -/
structure Shadow where
  key : ShKey
  closed : Bool
  bytes : SMap Byte
  /-- the address by which each of those bytes was written, by home (R144) -/
  vas : SMap Word
  /-- the strand whose PUBL or DISC closed it -/
  closer : Option Nat
  /-- the commands accepted before the close, by number: their writes still go to the shadow (R143) -/
  before : List Nat
  deriving DecidableEq, Repr

/-- A launch packet accepted and waiting for its grants (R46, R47). -/
structure Launch where
  id : Nat
  packet : BitVec 512
  /-- the strand of an MFORK with its path, first ordinal, core, rank and pc -/
  by_ : Option Nat
  path : Word
  ord : Word
  cwCore : Nat
  rank : BitVec 16
  pc : Word
  outer : List Nat
  /-- offset of the packet in the aperture, in slots -/
  slot : Nat
  /-- the boot packet (R414) -/
  boot : Bool
  /-- the runs it has been granted, once it has them, and how many pool-base words are written (R46) -/
  runs : Option (List (Nat × Nat × Nat)) := none
  next : Nat := 0
  /-- the next pool-base word stands in a fault queue (R156) -/
  stuck : Bool := false
  deriving DecidableEq, Repr

/-- A granted launch: its runs of granules by cluster (R48). -/
structure Grant where
  id : Nat
  runs : List (Nat × Nat × Nat)
  deriving DecidableEq, Repr

/-- A request that parks (R156): read piece i of a command as 2 × i, write piece i as 2 × i + 1, an atomic, the status word of an
Assay launch, with the tile whose publication ended it and the address its seal check failed at, if it did, or the pool-base word of a
copy of a launch (R46). -/
inductive Parked where
  | piece (cmd : Nat) (i : Nat) (va : Word)
  | atomic (strand : Nat) (at_ : Part1) (r : AtomReq) (seals : List (BitVec 32)) (level : BitVec 2)
  | status (launch tile : Nat) (va : Word) (bad : Option Word)
  | pool (launch : Nat) (va : Word)
  deriving DecidableEq, Repr

/-- A request in a fault queue, and whether the replay in progress has yet to reach it (R157). -/
structure ParkEntry where
  req : Parked
  todo : Bool
  deriving DecidableEq, Repr

/-- One record of a Bolter set (R363, R365). -/
structure BoltRec where
  done : BitVec 8
  /-- the stage that runs or is queued; none while it waits for its decision -/
  running : Option Nat
  deriving DecidableEq, Repr

/-- A Bolter set (R360, R362). -/
structure BoltSet where
  salt : Word
  n : Nat
  fx : Bool
  cw : Word
  cwCore : Nat
  codes : List Word
  frames : List Word
  weights : List Nat
  count : Nat
  level : BitVec 2
  core : Nat
  rank : BitVec 16
  pc : Word
  seals : List (BitVec 32)
  records : SMap BoltRec
  /-- pass and reject counts by window * 16 + stage * 2 + outcome -/
  stats : SMap Nat
  by_ : Nat
  /-- the launches the STGDEF's task descends from (R48) -/
  launches : List Nat
  deriving DecidableEq, Repr

/-- A tile of an Assay launch (R370). -/
structure Tile where
  sDone : Bool
  cDone : Bool
  /-- the check's verdict once GRES has run -/
  verdict : Option Bool
  exact : Bool
  eDone : Bool
  published : Bool
  /-- queue entries the first of the pair wrote before the other started (R370, R226): queue and value, oldest first -/
  hold : List (BitVec 3 × Word)
  deriving DecidableEq, Repr

/-- An Assay launch in flight (R370). -/
structure Assay where
  id : Nat
  desc : Word
  sur : BitVec 12
  chk : BitVec 12
  exa : BitVec 12
  tol : BitVec 32
  tile : BRec
  /-- the element size of its units -/
  unit : Nat
  cw : Word
  frame : Word
  tiles : List Tile
  /-- tiles whose shadow is open and whose tasks are spawned; fewer than all while the GLNCH stalls -/
  opened : Nat
  by_ : Nat
  core : Nat
  rank : BitVec 16
  pc : Word
  level : BitVec 2
  prio : BitVec 2
  seals : List (BitVec 32)
  path : Word
  ord : Word
  launches : List Nat
  deriving DecidableEq, Repr

/-- A saved partition's context (R384): what stood on its dies, and the memory that was spilled is in the spill areas. Log 20 (DESIGN
CHOICE). -/
structure Saved where
  mask : BitVec 8
  strands : SMap Strand
  cores : SMap Core
  cells : SMap Cell
  clusters : SMap Cluster
  dies : SMap Die
  looms : SMap Loom
  chans : SMap Chan
  cmds : List Cmd
  net : List Msg
  /-- dies every cluster of which was spilled -/
  spilled : BitVec 8
  deriving DecidableEq, Repr

/-- TDISP interface states (R419). -/
inductive Tdi where
  | unlocked | locked | run | error
  deriving DecidableEq, Repr

/-- A partition: its mask, its CSRs, and the tables the device keeps for it (R35, R251). -/
structure Part where
  mask : BitVec 8
  /-- the gang stop that holds its cores, with its reason, and whether it is quiet (R389 to R391) -/
  gang : Option (BitVec 8)
  quiet : Bool
  dmode : Bool
  dsalt : Word
  rootOrd : Word
  dcount : Vector (BitVec 24) 16
  dpc : Vector (BitVec 32) 16
  rtbase : Word
  rtlim : Word
  tierctl : Word
  swaps : BitVec 32
  deferred : BitVec 16
  /-- victim queue: pa of the entry (R56) -/
  victims : List Nat
  /-- a swap in progress: the entries of P and V (R57) -/
  swap : Option (Nat × Nat)
  /-- candidates that wait for the swap in progress, oldest first, by their entries (R57) -/
  cands : List Nat
  ptroot : Word
  ptreg : Word
  sfreg : Word
  shreg : Word
  ctbase : Word
  skreg : Word
  fcreg : Word
  alevel : Word
  aflag : BitVec 5
  /-- the fault queues of its dies, in the order requests parked (R156) -/
  parkq : List ParkEntry
  shadows : List Shadow
  handles : SMap Handle
  launches : List Launch
  grants : List Grant
  sets : SMap BoltSet
  assays : List Assay
  /-- submitted replica slots with their digests (R399) -/
  slots : SMap (BitVec 256)
  pcstrn : BitVec 5
  pcwin : Word
  boot : BitVec 512
  err : BitVec 8
  tdi : Tdi
  /-- the PCIe link whose VF the interface is bound to (R419) -/
  tdiLink : Bool
  saved : Option Saved
  deriving DecidableEq, Repr

def Part.reset : Part :=
  { mask := 0, gang := .none, quiet := false, dmode := false, dsalt := 0, rootOrd := 0, dcount := .replicate 16 0, dpc := .replicate 16 0, rtbase := 0, rtlim := 0,
    tierctl := 0x004000080003E800, swaps := 0, deferred := 0, victims := [], swap := .none, cands := [], ptroot := 0, ptreg := 0, sfreg := 0,
    shreg := 0, ctbase := 0, skreg := 0, fcreg := 0, alevel := 0x11, aflag := 0, parkq := [], shadows := [],
    handles := [], launches := [], grants := [], sets := [], assays := [], slots := [], pcstrn := 16, pcwin := 0, boot := 0,
    err := 0, tdi := .unlocked, tdiLink := false, saved := .none }

/-! ## Links and host -/

/-- A Slodun port (R420, R421). -/
structure Port where
  peer : BitVec 16
  cell : BitVec 12
  lanes : BitVec 4
  up : Bool
  rxr : Word
  txr : Word
  cons : BitVec 32
  en : Bool
  /-- ring records read at enabling, and their sizes in link blocks -/
  rx : BRec
  tx : BRec
  rxn : Nat
  txn : Nat
  ready : List (BitVec 32)
  rxNext : BitVec 32
  txNext : BitVec 32
  acked : BitVec 32
  /-- blocks on the link that the peer has not acknowledged: number, data and scales, oldest first -/
  out : List (BitVec 32 × BitVec 512 × Word)
  deriving DecidableEq, Repr

/-- Log 4 (DESIGN CHOICE). -/
def Port.reset : Port :=
  { peer := 0, cell := 0, lanes := 0, up := false, rxr := 0, txr := 0, cons := 0, en := false, rx := 0, tx := 0, rxn := 0, txn := 0,
    ready := [], rxNext := 0, txNext := 0, acked := 0, out := [] }

/-- A replica report (R406). -/
structure Report where
  a : BitVec 3
  b : BitVec 3
  slot : BitVec 11
  da : BitVec 256
  db : BitVec 256
  valid : Bool
  deriving DecidableEq, Repr

/-- The answer to a host access, as the model records it: the answers leave the machine. -/
inductive HostAnswer where
  | read (v : Word)
  | done
  | unsupported
  | bytes (l : List Byte)
  /-- a die-to-die link failed (R383) -/
  | linkFailed (die1 die2 : BitVec 3)
  deriving DecidableEq, Repr

/-- The IO dies and the management function (R405, R406, R415). -/
structure Io where
  stage : BitVec 2
  fail : BitVec 16
  pwrcap : BitVec 12
  hwbase : Vector (BitVec 20) 8
  mbcmd : Word
  mbstat : Word
  mbdata : List Byte
  /-- an operation that runs: its result, length of response and response -/
  mbrun : Option (BitVec 8 × List Byte)
  reports : List Report
  lostReports : Word
  /-- staged image bytes by offset and the committed length (R415) -/
  staged : SMap Byte
  commit : Option Word
  /-- the management firmware the module runs, when it is a committed image (R415, R418) -/
  image : Option (List Byte)
  /-- what the device told the host, newest first -/
  answers : List HostAnswer
  deriving DecidableEq, Repr

/-- Log 4 (DESIGN CHOICE). -/
def Io.reset : Io :=
  { stage := 1, fail := 0, pwrcap := 1800, hwbase := .replicate 8 0, mbcmd := 0, mbstat := 0, mbdata := List.replicate 240 0,
    mbrun := .none, reports := [], lostReports := 0, staged := [], commit := .none, image := .none, answers := [] }

/-! ## The schedule and the whole state -/

/-- Who moves next: a strand issues its next instruction, with its access performed at once or left for later steps, or the
device, the host or a link takes a step of its own. -/
inductive Act where
  | issue (t : Nat)
  | issueLate (t : Nat)
  | event (i : Instr)
  | idle
  deriving DecidableEq, Repr

/-- A move, the cycles that pass with it, and whether a transfer error strikes the side band of block scales in it (R98). -/
structure Move where
  dt : Nat
  act : Act
  slip : Bool := false
  deriving DecidableEq, Repr

structure State where
  mem : List Host.Cell
  strands : SMap Strand
  cores : SMap Core
  cells : SMap Cell
  clusters : SMap Cluster
  dies : SMap Die
  looms : SMap Loom
  chans : SMap Chan
  cmds : List Cmd
  /-- commands issued and not yet accepted: their strands wait in `Wait.accept` -/
  issued : List Cmd
  net : List Msg
  parts : SMap Part
  ports : SMap Port
  io : Io
  /-- access-count increments not yet added: partition and pa of the entry (R54) -/
  ptePend : List (Nat × Nat)
  /-- the bytes that commands in flight have written and nothing but commands since, by command: at home, or in the shadow with the key,
  the first home and the length (R135) -/
  lands : List (Nat × Option ShKey × Nat × Nat)
  cycle : Word
  /-- the model's own: the strand that issues, the word or words it executes, whether its access is left for later,
  whether a transfer error strikes, the schedule, and the next number for a command, a message or a launch (log 2) -/
  cur : Nat
  ir : Word
  late : Bool
  slip : Bool
  agenda : List Move
  fresh : Nat
  deriving DecidableEq, Repr

/-- Why a run of the model stops. -/
inductive Fault where
  /-- a device, host or link step was asked for by the schedule while its condition does not hold, so this is no run of the
  machine; raised by the meanings of the device steps; safe: the hardware takes no such step -/
  | notEnabled
  deriving DecidableEq, Repr

/-- Instructions without a meaning. -/
inductive Refusal where
  /-- no meaning is written for the instruction; raised by the dispatch alone; safe: a run stops -/
  | notModelled (mnemonic : String)
  deriving DecidableEq, Repr

/-- The module right after its reset is released: stage 1, no partition, no strand, nothing in memory (R416, R410). Log 3 (DESIGN CHOICE).
-/
def State.reset : State :=
  { mem := [], strands := [], cores := [], cells := [], clusters := [], dies := [], looms := [], chans := [], cmds := [], issued := [],
    net := [], parts := [], ports := [], io := .reset, ptePend := [], lands := [], cycle := 0, cur := 0, ir := 0, late := false, slip := false, agenda := [], fresh := 0 }

end Sys2Proof.Machine
end

