-- ==== Sys2Proof/Machine/Ops.lean ====
section
/-! DEFINITION. The named operations over memory, places and registers, and the one operation that takes a trap (R375). -/

namespace Sys2Proof.Machine

abbrev Out1 := Host.Outcome State Fault Refusal

/-- A precise trap: its cause and the value TVAL takes (R239). -/
structure Trap where
  cause : BitVec 8
  val : Word
  deriving DecidableEq, Repr

/-! ## Memory: every byte home outside registers, as one canonical list -/

/-- What an address that is not listed reads as: SRAM is cleared at start (R416); off-package memory by DESIGN CHOICE (log 3). -/
def Memory.default : Byte := 0

/-- Addresses rise strictly and no entry equals the default. -/
def Memory.wf : List Host.Cell → Bool
  | [] => true
  | [(_, b)] => b != Memory.default
  | (a, b) :: (a', b') :: m => b != Memory.default && decide (a < a') && Memory.wf ((a', b') :: m)

/-- Log 3 (DESIGN CHOICE). -/
def Memory.read : List Host.Cell → Nat → Byte
  | [], _ => Memory.default
  | (k, b) :: m, a => if a = k then b else if a < k then Memory.default else Memory.read m a

def Memory.write : List Host.Cell → Nat → Byte → List Host.Cell
  | [], a, x => if x = Memory.default then [] else [(a, x)]
  | (k, b) :: m, a, x =>
    if a = k then (if x = Memory.default then m else (a, x) :: m)
    else if a < k then (if x = Memory.default then (k, b) :: m else (a, x) :: (k, b) :: m)
    else (k, b) :: Memory.write m a x

/-- The n bytes at an address as a number, the lowest address least (R89). -/
def Memory.readN (m : List Host.Cell) (a : Nat) : Nat → Nat
  | 0 => 0
  | n + 1 => (Memory.read m a).toNat + 256 * Memory.readN m (a + 1) n

/-- Store the low n bytes of a number, the least at the lowest address (R89). -/
def Memory.writeN (m : List Host.Cell) (a : Nat) : Nat → Nat → List Host.Cell
  | 0, _ => m
  | n + 1, x => Memory.writeN (Memory.write m a (BitVec.ofNat 8 x)) (a + 1) n (x / 256)

/-- Fill n bytes with zeros: every listed entry of the range goes. -/
def Memory.clear (m : List Host.Cell) (a n : Nat) : List Host.Cell := m.filter fun c => !(a ≤ c.1 && c.1 < a + n)

/-- Copy n bytes. -/
def Memory.copy (m : List Host.Cell) (src dst : Nat) : Nat → List Host.Cell
  | 0 => m
  | n + 1 => Memory.write (Memory.copy m src dst n) (dst + n) (Memory.read m (src + n))

/-! ## Places (R1): a core is die * 768 + cluster * 48 + core, a strand core * 16 + frame -/

def coreOf (t : Nat) : Nat := t / 16
def frameOf (t : Nat) : Nat := t % 16
def dieOfCore (c : Nat) : Nat := c / 768
def clusterOf (c : Nat) : Nat := c / 48
def coreInCluster (c : Nat) : Nat := c % 48
def clusterInDie (c : Nat) : Nat := c / 48 % 16
def octetOf (c : Nat) : Nat := clusterOf c * 6 + coreInCluster c / 8
/-- The core that leads an octet of a core (R13). -/
def leadOf (c : Nat) : Nat := c / 8 * 8

/-- 2^55: mesh addresses and on-chip homes start here (R10). -/
def meshBase : Nat := 0x80000000000000
/-- Mesh address of an offset in a cluster's window (R10). -/
def clusterAddr (cl off : Nat) : Nat := meshBase + cl * 0x40000000 + off
/-- Mesh address of an offset in a core's slot (R13). -/
def coreAddr (c off : Nat) : Nat := clusterAddr (clusterOf c) (coreInCluster c * 0x1000000 + off)
def poolAddr (cl off : Nat) : Nat := clusterAddr cl (0x30000000 + off)

/-- What stands at a mesh address (R10, R13, R16). -/
inductive Region where
  | local_ (core off : Nat)
  | frame (t off : Nat)
  | cell (core j off : Nat)
  | ctl (core off : Nat)
  | staging (octet off : Nat)
  | pool (cl off : Nat)
  | clusterCtl (cl off : Nat)
  | hole
  deriving DecidableEq, Repr

/-- The region of an address with bit 55 set (R10, R13). -/
def meshRegion (a : Nat) : Region :=
  let x := a - meshBase
  if x / 2 ^ 37 ≠ 0 then .hole
  else
    let cl := x / 2 ^ 30
    let off := x % 2 ^ 30
    let slot := off / 0x1000000
    let o := off % 0x1000000
    if slot < 48 then
      let c := cl * 48 + slot
      if o < 0x20000 then .local_ c o
      else if 0x30000 ≤ o ∧ o < 0x40000 then .local_ c o
      else if 0x100000 ≤ o ∧ o < 0x110000 then .frame (c * 16 + (o - 0x100000) / 0x1000) ((o - 0x100000) % 0x1000)
      else if 0x200000 ≤ o ∧ o < 0x220000 then .cell c ((o - 0x200000) / 32) ((o - 0x200000) % 32)
      else if 0x280000 ≤ o ∧ o < 0x281000 then .ctl c (o - 0x280000)
      else if 0x300000 ≤ o ∧ o < 0x311000 ∧ slot % 8 = 0 then .staging (octetOf c) (o - 0x300000)
      else .hole
    else if slot = 48 then .pool cl (off - 0x30000000)
    else if 0x38000000 ≤ off ∧ off < 0x38010000 then .clusterCtl cl (off - 0x38000000)
    else .hole

/-- Off-package memory (R51). -/
def offPackage (pa : Nat) : Bool := pa < 0x3000000000 || (0x10000000000 ≤ pa && pa < 0x20000000000)

/-! ## Parts of the state -/

def State.die (s : State) (d : Nat) : Die := s.dies.get .reset d
/-- A frame of a die that nothing has touched since the die joined its partition (R261), halted with its partition if that is. -/
def Die.freshStrand (d : Die) (frame : Nat) : Strand :=
  if frame < d.frames.toNat then
    { Strand.reset with st := if d.held then .halted else .idle, halt := d.hrec }
  else .reset
def State.strand (s : State) (t : Nat) : Strand := s.strands.get ((s.die (dieOfCore (coreOf t))).freshStrand (frameOf t)) t
def State.setStrand (s : State) (t : Nat) (x : Strand) : State := { s with strands := s.strands.set t x }
def State.modStrand (s : State) (t : Nat) (f : Strand → Strand) : State := s.setStrand t (f (s.strand t))
/-- The strand that executes. -/
def State.me (s : State) : Strand := s.strand s.cur
def State.setMe (s : State) (x : Strand) : State := s.setStrand s.cur x
/-- A core that nothing has touched holds the strands its die was given (R261). -/
def State.core (s : State) (c : Nat) : Core :=
  s.cores.get { Core.reset with strands := BitVec.ofNat 16 (2 ^ (s.die (dieOfCore c)).frames.toNat - 1) } c
def State.setCore (s : State) (c : Nat) (x : Core) : State := { s with cores := s.cores.set c x }
def State.modCore (s : State) (c : Nat) (f : Core → Core) : State := s.setCore c (f (s.core c))
def State.myCore (s : State) : Core := s.core (coreOf s.cur)
def cellKey (core j : Nat) : Nat := core * 4096 + j
def State.cell (s : State) (core j : Nat) : Cell := s.cells.get .zero (cellKey core j)
def State.setCell (s : State) (core j : Nat) (x : Cell) : State := { s with cells := s.cells.set (cellKey core j) x }
def State.cluster (s : State) (c : Nat) : Cluster := s.clusters.get .reset c
def State.modCluster (s : State) (c : Nat) (f : Cluster → Cluster) : State :=
  { s with clusters := s.clusters.set c (f (s.cluster c)) }
def State.modDie (s : State) (d : Nat) (f : Die → Die) : State := { s with dies := s.dies.set d (f (s.die d)) }
def State.loom (s : State) (o : Nat) : Loom := s.looms.get .reset o
def State.modLoom (s : State) (o : Nat) (f : Loom → Loom) : State := { s with looms := s.looms.set o (f (s.loom o)) }
def State.chan (s : State) (c : Nat) : Chan := s.chans.get .reset c
def State.modChan (s : State) (c : Nat) (f : Chan → Chan) : State := { s with chans := s.chans.set c (f (s.chan c)) }
def State.part (s : State) (p : Nat) : Part := s.parts.get .reset p
def State.setPart (s : State) (p : Nat) (x : Part) : State := { s with parts := s.parts.set p x }
def State.modPart (s : State) (p : Nat) (f : Part → Part) : State := s.setPart p (f (s.part p))
def State.slport (s : State) (p : Nat) : Port := s.ports.get .reset p
def State.modPort (s : State) (p : Nat) (f : Port → Port) : State := { s with ports := s.ports.set p (f (s.slport p)) }
def inMask (m : BitVec 8) (d : Nat) : Bool := m.getLsbD d
/-- The partition that holds a die; a die of none counts as partition 8, which has an empty mask (R35). -/
def State.partOfDie (s : State) (d : Nat) : Nat := ((List.range 8).find? fun p => inMask (s.part p).mask d).getD 8
def State.partOfCore (s : State) (c : Nat) : Nat := s.partOfDie (dieOfCore c)
def State.partOf (s : State) (t : Nat) : Nat := s.partOfCore (coreOf t)
/-- The partition of the executing strand. -/
def State.myPart (s : State) : Part := s.part (s.partOf s.cur)
def maskDies (m : BitVec 8) : List Nat := (List.range 8).filter fun d => inMask m d
def State.mask (s : State) (p : Nat) : BitVec 8 := (s.part p).mask
/-- The cores of a partition, in ascending order. -/
def State.coresOf (s : State) (p : Nat) : List Nat := (maskDies (s.mask p)).flatMap fun d => (List.range 768).map (· + d * 768)
def State.clustersOf (s : State) (p : Nat) : List Nat := (maskDies (s.mask p)).flatMap fun d => (List.range 16).map (· + d * 16)
/-- The lead cluster of a partition (R379). -/
def State.lead (s : State) (p : Nat) : Nat := (maskDies (s.mask p)).headD 0 * 16
/-- A fresh number, and the state that has spent it (log 2). -/
def State.tick (s : State) : State := { s with fresh := s.fresh + 1 }

/-! ## Registers of the executing strand (R17, R233) -/

/-- A register whose value is known: a write makes it so, and what an earlier access would still bring is forgotten (R116). -/
def Strand.known (x : Strand) (r : RegName) : List (RegName × Nat) := x.tags.filter fun e => e.1 ≠ r

def Strand.rs (x : Strand) (r : BitVec 5) : Word := if r = 0 then 0 else x.s.get r.toFin
def Strand.ws (x : Strand) (r : BitVec 5) (w : Word) : Strand :=
  if r = 0 then x else { x with s := x.s.set r.toNat w r.isLt, tags := x.known (.s r) }
def Strand.rk (x : Strand) (r : BitVec 3) : Word := if r = 0 then BitVec.allOnes 64 else x.k.get r.toFin
def Strand.wk (x : Strand) (r : BitVec 3) (w : Word) : Strand :=
  if r = 0 then x else { x with k := x.k.set r.toNat w r.isLt, tags := x.known (.k r) }
/-- A dead vector register reads zero (R65). -/
def Strand.rv (x : Strand) (r : BitVec 5) : VReg := if x.dead.getLsbD r.toNat then 0 else x.v.get r.toFin
/-- A write makes the register live (R65). -/
def Strand.wv (x : Strand) (r : BitVec 5) (w : VReg) : Strand :=
  { x with v := x.v.set r.toNat w r.isLt, dead := x.dead &&& ~~~(1#32 <<< r.toNat), tags := x.known (.v r) }
def Strand.rb (x : Strand) (r : BitVec 4) : BRec := x.b.get r.toFin
def Strand.wb (x : Strand) (r : BitVec 4) (w : BRec) : Strand := { x with b := x.b.set r.toNat w r.isLt, tags := x.known (.b r) }

def State.rs (s : State) (r : BitVec 5) : Word := s.me.rs r
def State.rv (s : State) (r : BitVec 5) : VReg := s.me.rv r
def State.rk (s : State) (r : BitVec 3) : Word := s.me.rk r
def State.rb (s : State) (r : BitVec 4) : BRec := s.me.rb r
def State.ws (s : State) (r : BitVec 5) (w : Word) : State := s.setMe (s.me.ws r w)
def State.wv (s : State) (r : BitVec 5) (w : VReg) : State := s.setMe (s.me.wv r w)
def State.wk (s : State) (r : BitVec 3) (w : Word) : State := s.setMe (s.me.wk r w)
def State.wb (s : State) (r : BitVec 4) (w : BRec) : State := s.setMe (s.me.wb r w)

/-- Retire n bytes of instruction: the PC passes them and they leave the fetch buffer (R113, R230). -/
def Strand.advance (x : Strand) (n : Nat) : Strand := { x with pc := x.pc + BitVec.ofNat 64 n, fbuf := x.fbuf.drop (n / 4) }
def State.retire (s : State) : State := s.setMe (s.me.advance 4)
def State.retire8 (s : State) : State := s.setMe (s.me.advance 8)
/-- Write d and retire a one-word instruction (R242). -/
def State.put (s : State) (d : BitVec 5) (w : Word) : State := s.setMe ((s.me.ws d w).advance 4)
/-- Write d and retire a two-word instruction. -/
def State.put8 (s : State) (d : BitVec 5) (w : Word) : State := s.setMe ((s.me.ws d w).advance 8)

/-! ## DCAUSE (R174 to R176) -/

/-- Record an event of a partition with the address it names. -/
def Part.event (x : Part) (n : Fin 16) (pc : Word) : Part :=
  let c := x.dcount[n]
  { x with
    dcount := x.dcount.set n (if c = BitVec.allOnes 24 then c else c + 1),
    dpc := if c = 0 then x.dpc.set n (pc.extractLsb' 2 32) else x.dpc }
def State.dcause (s : State) (p : Nat) (n : Fin 16) (pc : Word) : State := s.modPart p fun x => x.event n pc
/-- An event of the executing strand's instruction. -/
def State.event (s : State) (n : Fin 16) : State := s.dcause (s.partOf s.cur) n s.me.pc

/-! ## Handles (R350, R351) -/

def Part.handle (x : Part) (h : BitVec 12) : Handle := x.handles.get .free h.toNat
def Part.setHandle (x : Part) (h : BitVec 12) (y : Handle) : Part := { x with handles := x.handles.set h.toNat y }

/-- Free a handle's storage when both counts are zero; a handle source loses the reference its residual held, and may follow
(R350). The fuel bounds the chain of sources by the table's size. -/
def Part.settle : Nat → Part → BitVec 12 → Part
  | 0, x, _ => x
  | n + 1, x, h =>
    let y := x.handle h
    if y.held && y.ref = 0 && y.res = 0 then
      let x := x.setHandle h .free
      match y.src with
      | none => x
      | some g => Part.settle n (x.setHandle g { x.handle g with ref := (x.handle g).ref - 1 }) g
    else x

/-- Log 35 (DEDUCED). -/
def Part.unref (x : Part) (h : BitVec 12) : Part :=
  Part.settle 4096 (x.setHandle h { x.handle h with ref := (x.handle h).ref - 1 }) h
def Part.unres (x : Part) (h : BitVec 12) : Part :=
  Part.settle 4096 (x.setHandle h { x.handle h with res := (x.handle h).res - 1 }) h

/-- Clear the residency tag of a strand, if it holds one (R351). Log 35 (DEDUCED). -/
def State.dropTag (s : State) (t : Nat) : State :=
  match (s.strand t).tag with
  | none => s
  | some h => (s.modStrand t fun x => { x with tag := none, tagRet := none }).modPart (s.partOf t) fun p => p.unres h

/-! ## What of a strand's accesses is performed (R119, R120) -/

/-- An access whose parts are all fixed, entered or in the loop-back port counts as performed (R129). -/
def Pend.performed (p : Pend) : Bool := p.parts.isEmpty
/-- Whether an access that has yet to enter or to be performed holds a release: every one but a store to UO pages (R120). -/
def Pend.holdsRelease (p : Pend) : Bool := !p.performed && !(p.store.isSome && p.parts.all fun a => a.kind = .uo)
/-- Every earlier load and store to SO and RC pages is performed, nothing parked holds the strand's releases, and no fence but `lbfenc`
is open (R120, R122, R131, R157). Log 23 (DEDUCED). -/
def Strand.released (x : Strand) : Bool :=
  !x.pend.any (·.holdsRelease) && x.out.all (fun o => o.at_.kind = .uo) && x.fences.all (fun f => f.2 = .lbfenc)
/-- Whether a further SO access of the strand need not wait: no earlier SO access, `ldaq` or parked request is unperformed, no SO
store stands in its outbox, and no fence but `lbfenc` is open (R119, R157). -/
def Strand.soReady (x : Strand) : Bool :=
  x.fences.all (fun f => f.2 = .lbfenc) && x.out.all (fun o => o.at_.kind ≠ .so)
  && !x.pend.any fun q => q.parts.any fun a => q.parked || a.kind = .so || (q.acq.isSome && a.kind ≠ .uo)
/-! ## Transfers of control -/

/-- Control stands at the return address of the strand's residency tag (R351). -/
def Strand.returned (x : Strand) : Bool := x.tagRet = some x.pc

/-- The tag of a strand that stands at its return address clears (R351, R402). -/
def State.clearReturned (s : State) (t : Nat) : State := if (s.strand t).returned then s.dropTag t else s

/-- Transfer to an address: the fetch buffer is emptied (R132), and the residency tag clears when control arrives at its return
address (R351). The clearing is an SO access: with earlier ones not performed it waits for them, before the next instruction (R402).
Log 35 (DEDUCED). -/
def State.jumpT (s : State) (t : Nat) (pc : Word) : State :=
  let s := s.modStrand t fun x => { x with pc := pc, fbuf := [], vecFetch := false }
  if (s.strand t).returned && (s.strand t).soReady then s.dropTag t else s
def State.jump (s : State) (pc : Word) : State := s.jumpT s.cur pc

/-! ## Halting (R391) and fault records (R377 to R380) -/

/-- The PC a strand will issue from next. -/
def SState.code : SState → BitVec 3
  | .free => 0 | .idle => 1 | .ready => 2 | .blocked => 3 | .parked => 4 | .halted => 5 | .moving => 6

/-- What a halted strand still waits for: a stall ends, and its instruction issues again (R389, R203). -/
def Wait.kept : Wait → Bool
  | .cell _ _ | .atomic | .shadow _ | .turn _ _ _ | .launch _ | .qread _ | .qwrite _ | .spawn _ => true
  | .none | .publ _ | .disc _ | .forge | .accept | .wfi => false

/-- Write the halt record of a strand and halt it (R391). A strand already halted keeps its record (R397); one that moves halts where it
lands (R388). -/
def State.haltStrand (s : State) (t : Nat) (why : BitVec 8) (hpc : Word) : State :=
  let x := s.strand t
  let prior := if x.st = .moving then x.rest else x.st
  if prior = .free ∨ prior = .halted then s
  else
    let h : HaltRec := { hpc := hpc, why := why, lvl := x.level, prior := prior, sent := x.sent, rcvd := x.rcvd }
    let w : Wait := if x.wait.kept then x.wait else .none
    -- a command that is issued and not accepted has taken nothing, its ordinals included
    let task := match s.issued.find? fun c => c.by_ = t with | some c => { x.task with ordinal := c.ord } | none => x.task
    if x.st = .moving then s.setStrand t { x with rest := .halted, halt := h, wait := w, again := false }
    else
      let s := s.modCore (coreOf t) fun c =>
        { c with stored := c.stored &&& ~~~(1#16 <<< frameOf t), freed := c.freed &&& ~~~(1#16 <<< frameOf t) }
      let s := { s with issued := s.issued.filter fun c => c.by_ ≠ t }
      s.setStrand t { x with st := .halted, halt := h, wait := w, again := false, task := task }

/-- A fault record's words that vary (R377). -/
structure FaultRec where
  celled : Bool
  parked : Bool
  src : Nat
  inner : BitVec 8
  cause : BitVec 8
  pc : Word
  addr : Word
  part : Nat
  rank : BitVec 16
  cw : Word
  info : Word
  deriving DecidableEq, Repr

/-- The eight words of a record, numbered n in the queue (R377). -/
def FaultRec.words (r : FaultRec) (n : Word) : List Word :=
  let flags : Nat := (if r.celled then 2 ^ 25 else 0) + (if r.parked then 2 ^ 24 else 0) + r.src * 2 ^ 16 + r.inner.toNat * 256 + r.cause.toNat
  [BitVec.ofNat 64 flags, r.pc, r.addr, BitVec.ofNat 64 (r.part * 65536 + r.rank.toNat), r.cw, r.info, n, 0]

/-- Store words of 8 bytes from an address on. -/
def Memory.writeWords (m : List Host.Cell) (a : Nat) : List Word → List Host.Cell
  | [] => m
  | w :: ws => Memory.writeWords (Memory.writeN m a 8 w.toNat) (a + 8) ws

/-- The pool address of the fault queue of a partition, when it is enabled (R379). -/
def State.fqBase (s : State) (p : Nat) : Option Nat :=
  let f := (s.cluster (s.lead p)).fqcfg
  if f.getLsbD 0 then some ((f.extractLsb' 16 40).toNat * 0x10000) else none

/-- Put a record in the partition fault queue, or count it lost (R380). The number it takes, and whether it was entered. The
`FQDOOR` decrement is a step of the caller's. -/
def State.enterRecord (s : State) (r : FaultRec) : State × Bool :=
  match s.fqBase r.part with
  | none => (s, false)
  | some a =>
    let prod := Memory.readN s.mem a 8
    let cons := Memory.readN s.mem (a + 8) 8
    if (prod + 2 ^ 64 - cons) % 2 ^ 64 = 1023 then
      let lost := Memory.readN s.mem (a + 16) 8
      (({ s with mem := Memory.writeN s.mem (a + 16) 8 (lost + 1) }).dcause r.part 13 r.pc, false)
    else
      let m := Memory.writeWords s.mem (a + 0x40 + 64 * (prod % 1023)) (r.words (BitVec.ofNat 64 prod))
      ({ s with mem := Memory.writeN m a 8 (prod + 1) }, true)

/-! ## Ranks (R25 to R31) -/

/-- Whether a partition has name tables: `RTBASE` names a pool of a die of its own (R24, R36). Log 27 (DEDUCED). -/
def Part.tables (x : Part) : Bool :=
  match meshRegion x.rtbase.toNat with
  | .pool cl _ => x.rtbase.toNat ≥ meshBase && inMask x.mask (cl / 16)
  | _ => false
/-- A rank-table entry as it stands in the partition's table (R24, R25); invalid where it has none. -/
def State.rankEntry (s : State) (p : Nat) (rk : BitVec 16) : BitVec 32 :=
  if (s.part p).tables then BitVec.ofNat 32 (Memory.readN s.mem ((s.part p).rtbase.toNat + 4 * rk.toNat) 4) else 0
/-- A stage-table entry (R26). -/
def State.stageEntry (s : State) (p : Nat) (st : Nat) : BitVec 32 :=
  if (s.part p).tables then BitVec.ofNat 32 (Memory.readN s.mem ((s.part p).rtbase.toNat + 0x40000 + 4 * st) 4) else 0
def entryState (e : BitVec 32) : Nat := (e.extractLsb' 30 2).toNat
/-- The strand place an entry names (R25). -/
def entryPlace (e : BitVec 32) : Nat :=
  (((e.extractLsb' 14 3).toNat * 16 + (e.extractLsb' 10 4).toNat) * 48 + (e.extractLsb' 4 6).toNat) * 16 + (e.extractLsb' 0 4).toNat
/-- The entry of a place, valid or in transit (R25). -/
def placeEntry (state : Nat) (t : Nat) : BitVec 32 :=
  BitVec.ofNat 32 (state * 2 ^ 30 + dieOfCore (coreOf t) * 2 ^ 14 + clusterInDie (coreOf t) * 2 ^ 10 + coreInCluster (coreOf t) * 16 + frameOf t)

/-- The entry the core's NI gives: its cached copy, else the table's (R28). -/
def State.niLookup (s : State) (core p : Nat) (rk : BitVec 16) : BitVec 32 :=
  match (s.core core).ni.find? fun e => e.1 = rk.toNat with
  | some e => e.2
  | none => s.rankEntry p rk

/-- The NI keeps the entry it looked up, within its 256 entries (R28). -/
def State.niFill (s : State) (core p : Nat) (rk : BitVec 16) : State :=
  let c := s.core core
  if c.ni.any (fun e => e.1 = rk.toNat) || c.ni.length ≥ 256 then s
  else s.setCore core { c with ni := (rk.toNat, s.rankEntry p rk) :: c.ni }

/-- Whether an entry names a strand of a partition: valid or in transit, and on a die of the mask (R25, R36). -/
def State.entryLive (s : State) (p : Nat) (e : BitVec 32) : Bool :=
  (entryState e = 1 || entryState e = 2) && inMask (s.mask p) (e.extractLsb' 14 3).toNat

/-- A rank that names a strand, or none (R27, R36). -/
def State.rankValid (s : State) (core p : Nat) (rk : BitVec 16) : Option (BitVec 32) :=
  if rk.toNat ≥ (s.part p).rtlim.toNat then none
  else
    let e := s.niLookup core p rk
    if s.entryLive p e then some e else none

/-- resolve of R27: the rank and its entry, or none for a fault. Log 30 (DEDUCED). -/
def State.resolve (s : State) (core p : Nat) (d : Word) : Option (BitVec 16 × BitVec 32) :=
  if d.extractLsb' 23 41 ≠ 0 then none
  else
    let rk : Option (BitVec 16) :=
      if d.getLsbD 16 then
        let e := s.stageEntry p (d.extractLsb' 17 6).toNat
        if (d.extractLsb' 0 16).toNat ≥ (e.extractLsb' 16 16).toNat then none
        else
          let r := (e.extractLsb' 0 16).toNat + (d.extractLsb' 0 16).toNat
          if r < 65536 then some (BitVec.ofNat 16 r) else none
      else if d.extractLsb' 17 6 ≠ 0 then none else some (d.extractLsb' 0 16)
    match rk with
    | none => none
    | some r => (s.rankValid core p r).map fun e => (r, e)

/-! ## Completion words (R146) -/

def cwRemote (w : Word) : Bool := w.getLsbD 13
def cwValid (w : Word) : Bool := w.getLsbD 12
def cwCell (w : Word) : BitVec 12 := w.extractLsb' 0 12
def cwRank (w : Word) : BitVec 16 := w.extractLsb' 14 16

/-- The check of a completion word at issue (R146). -/
def State.checkCw (s : State) (core p : Nat) (w : Word) : Option Trap :=
  if w.extractLsb' 30 34 ≠ 0 ∨ (w ≠ 0 ∧ !cwValid w) then some ⟨0x0B, w⟩
  else if w ≠ 0 ∧ cwRemote w ∧ (s.rankValid core p (cwRank w)).isNone then some ⟨0x05, w⟩
  else none

/-! ## The network (R29, R30) -/

/-- Send an item to a strand place; `for_` is the strand whose command sends it, `ord` the number of a command it is a part of. Log 47
(DEDUCED). -/
def State.post (s : State) (sender : Nat) (rank : Option (BitVec 16)) (dest : Nat) (counted : Bool) (b : Body)
    (for_ : Option Nat := none) (stays : Bool := false) (ord : Option Nat := none) : State :=
  { s with net := s.net ++ [{ id := s.fresh, ord := ord.getD s.fresh, sender := sender, rank := rank, dest := dest, counted := counted, held := false,
                              for_ := for_, stays := stays, body := b }],
           fresh := s.fresh + 1 }

/-- Count a message of a strand (R393). Log 47 (DEDUCED). -/
def State.countSent (s : State) (t : Nat) : State := s.modStrand t fun x => { x with sent := x.sent + 1 }

/-- A message of a strand to a rank: counted, and routed by the entry its NI gives (R29, R31, R393). Log 47 (DEDUCED). -/
def State.sendRank (s : State) (t : Nat) (rk : BitVec 16) (b : Body) : State :=
  let p := s.partOf t
  let e := s.niLookup (coreOf t) p rk
  ((s.niFill (coreOf t) p rk).countSent t).post t (some rk) (entryPlace e) true b

/-- The sender number of an engine command, apart from every strand place. -/
def engineSender (id : Nat) : Nat := 2 ^ 32 + id

/-! ## Task queues and the spill area (R211, R216, R220) -/

/-- First byte of the granule of a core's spill area (R216). -/
def Core.spillBase (c : Core) : Nat := (c.cspill.extractLsb' 16 40).toNat * 0x10000

/-- A free place of n: the first that no entry of `used` names, from a place k on, wrapping. -/
def freePlace (used : List (Option Nat)) (n k : Nat) : Nat :=
  (((List.range n).map fun i => (k + i) % n).find? fun i => !used.contains (some i)).getD 0

/-- A record as its eight words (R208). -/
def TRec.words8 (r : TRec) : List Word :=
  [r.code, r.frame, (r.seq.setWidth 64 <<< 48) ||| (r.level.setWidth 64 <<< 32) ||| (r.prio.setWidth 64 <<< 30) ||| r.cw.setWidth 64,
   r.path, r.a0, r.a1, r.a2, r.a3]

/-- A record with the fields its eight words at an address give (R208). -/
def TRec.ofWords (r : TRec) (m : List Host.Cell) (a : Nat) : TRec :=
  let w : Nat → Word := fun i => BitVec.ofNat 64 (Memory.readN m (a + 8 * i) 8)
  { r with code := w 0, frame := w 1, seq := (w 2).extractLsb' 48 16, level := (w 2).extractLsb' 32 2, prio := (w 2).extractLsb' 30 2,
           cw := (w 2).extractLsb' 0 30, path := w 3, a0 := w 4, a1 := w 5, a2 := w 6, a3 := w 7, slot := none }

/-- A queued record as it is taken from its queue: a spilled one as its words in the spill area stand. Log 52 (DEDUCED). -/
def State.recordBack (s : State) (core : Nat) (r : TRec) : TRec :=
  match r.slot with
  | none => r
  | some k => { r.ofWords s.mem ((s.core core).spillBase + 64 * k) with prio := r.prio }

/-- The places in the spill area that queued records take. -/
def Core.spillSlots (c : Core) : List (Option Nat) := c.queues.toList.flatMap fun q => q.filterMap fun r => r.slot.map some
/-- Records of a core that stand in its spill area. -/
def Core.spilled (c : Core) : Nat := c.spillSlots.length
/-- Whether a record of a priority finds room (R211). Log 52 (DEDUCED). -/
def Core.hasRoom (c : Core) (p : BitVec 2) : Bool :=
  (c.queues.get p.toFin).countP (·.slot.isNone) < 16 || (c.cspill.getLsbD 0 && c.spilled < 768)

/-- Put the oldest of a queue's records that stand in the core into the spill area; the place is a free value among the free ones
(R211, R216). Log 52 (DEDUCED). -/
def State.spillOldest (s : State) (core : Nat) (q : List TRec) : State × List TRec :=
  let c := s.core core
  let k := freePlace c.spillSlots 768 (Config.spillPlace s.fresh)
  match q.findIdx? (·.slot.isNone) with
  | none => (s, q)
  | some i =>
    match q[i]? with
    | none => (s, q)
    | some r => ({ s with mem := Memory.writeWords s.mem (c.spillBase + 64 * k) r.words8, fresh := s.fresh + 1 }, q.set i { r with slot := some k })

/-- Put a record at the tail of the queue of a priority, which keeps 16 records in the core (R211). Log 52 (DEDUCED). -/
def State.enqueueAt (s : State) (core : Nat) (p : BitVec 2) (r : TRec) : State :=
  let q := (s.core core).queues.get p.toFin ++ [r]
  let (s, q) := if q.countP (·.slot.isNone) > 16 then s.spillOldest core q else (s, q)
  s.modCore core fun c => { c with queues := c.queues.set p.toNat q p.isLt }

/-- Put a record at the tail of its queue (R211). -/
def State.enqueue (s : State) (core : Nat) (r : TRec) : State := s.enqueueAt core r.prio r

/-- What an arrival at a core does to its gate and its waiting strands (R228, R256). Log 51 (DEDUCED). Log 69 (DEDUCED). -/
def State.arrival (s : State) (core : Nat) : State :=
  let c := s.core core
  let c := if c.gate = 0 then { c with gateReq := false }
           else if c.gate = 1 then { c with gate := 0, gateReq := false }
           else if c.gate = 2 then { c with gate := 3 } else c
  (List.range 16).foldl (fun s f => s.modStrand (core * 16 + f) fun x => if x.wait = .wfi then { x with wait := .none } else x)
    (s.setCore core c)

/-- A physical-map access reaches a core's slot: a gate request is dropped, a closing core is on again, and a gated one begins to wake
(R228). Log 51 (DEDUCED). -/
def State.reached (s : State) (core : Nat) : State :=
  let c := s.core core
  if c.gate = 0 && !c.gateReq then s
  else s.setCore core (if c.gate.toNat ≤ 1 then { c with gate := 0, gateReq := false } else { c with gate := 3 })

/-- A core whose cluster NI holds what arrives for it: gated or waking (R228). -/
def State.asleep (s : State) (core : Nat) : Bool := (s.core core).gate.toNat ≥ 2

/-- The frames that wait, with one more that begins now: behind those that began earlier, and by frame within a cycle (R205). -/
def beginWait (f : Nat) (now : Word) : List (Nat × Word) → List (Nat × Word)
  | [] => [(f, now)]
  | (g, c) :: q => if c = now && decide (f < g) then (f, now) :: (g, c) :: q else (g, c) :: beginWait f now q

/-- Whether a strand outside residence waits for it: ready, blocked, or released into a wait (R205, R203). -/
def Strand.waits (x : Strand) : Bool := !x.resident && (x.st = .ready || x.st = .blocked || (x.st = .parked && x.again))

/-- A strand that has become ready or blocked, or has left residence so, begins to wait for residence if it is outside (R205).
Log 69 (DEDUCED). -/
def State.joinWait (s : State) (t : Nat) : State :=
  if (s.strand t).waits then
    s.modCore (coreOf t) fun c => { c with waitq := beginWait (frameOf t) s.cycle (c.waitq.filter (·.1 ≠ frameOf t)) }
  else s

/-- The wait of a parked strand ends (R204): it becomes ready, and its core takes the arrival (R228). One that moves becomes ready where it
lands; a halted one keeps its wait, as it executes its instruction again when it is released (R203). -/
def State.endWait (s : State) (t : Nat) (f : Strand → Strand) : State :=
  let x := s.strand t
  if x.st = .parked then ((s.setStrand t { f x with st := .ready, wait := .none, again := false }).arrival (coreOf t)).joinWait t
  else if x.st = .moving && x.rest = .parked then s.setStrand t { f x with rest := .ready, wait := .none }
  else s

/-- Whether a core is halted by a gang stop or a group; a core of no partition counts as halted (R374, R389, R411). Log 50 (DEDUCED). -/
def State.coreHalted (s : State) (c : Nat) : Bool :=
  s.partOfCore c = 8 || (s.part (s.partOfCore c)).gang.isSome || (s.core c).grps ≠ 0

/-- Whether a core takes arrivals: on, and not halted (R228, R389, R396). Log 50 (DEDUCED). -/
def State.accepts (s : State) (c : Nat) : Bool := (s.core c).gate.toNat ≤ 1 && !s.coreHalted c

def Body.isRecord : Body → Bool
  | .record _ => true
  | _ => false

/-- Whether an earlier record of a sender to a core waits in the network (R209, R211); the device's own have no order. -/
def State.recordAhead (s : State) (sender core : Nat) : Bool :=
  sender ≠ engineSender 0 && s.net.any fun m => m.sender = sender && coreOf m.dest = core && m.body.isRecord

/-- Deliver a record to a core's queue, or leave it in the network while the queue and the spill are full, or while an earlier record of
the strand to that core waits there (R209, R211). -/
def State.queueRecord (s : State) (sender core : Nat) (r : TRec) : State :=
  let c := s.core core
  if !s.recordAhead sender core && c.hasRoom r.prio && s.accepts core then (s.enqueue core r).arrival core
  else s.post sender none (core * 16) false (.record r)

/-! ## The core copy (R40 to R42) -/

/-- Write the dirty bytes of a line, from byte i on, to its home. -/
def writeDirty (m : List Host.Cell) (home : Nat) (l : Line) : Nat → List Host.Cell
  | 0 => m
  | n + 1 => if l.dirty.getLsbD n then Memory.write (writeDirty m home l n) (home + n) (l.data.extractLsb' (8 * n) 8)
             else writeDirty m home l n

/-- Whether bytes lie in the low half of an entry whose page a swap of the partition moves (R60). -/
def State.swapBytes (s : State) (p a n : Nat) : Bool :=
  match (s.part p).swap with
  | some (x, y) => [x, y].any fun e => e < a + n && a < e + 8
  | none => false
/-- Whether a line's write-back is held: it has a dirty byte there (R60). -/
def State.lineHeld (s : State) (core : Nat) (l : Nat × Line) : Bool :=
  s.swapBytes (s.partOfCore core) l.1 64
  && (List.range 64).any fun i => l.2.dirty.getLsbD i && s.swapBytes (s.partOfCore core) (l.1 + i) 1
/-- Whether a write-back of all of a core's lines is held. -/
def State.backHeld (s : State) (core : Nat) : Bool := (s.core core).lines.any fun l => s.lineHeld core l

/-- What is left of the bytes a command has written when n bytes at an address, at home or in a shadow, are written by another than a
command (R135, R127). -/
def cutLand (k : Option ShKey) (a n : Nat) (l : List (Nat × Option ShKey × Nat × Nat)) : List (Nat × Option ShKey × Nat × Nat) :=
  l.flatMap fun x =>
    let lo := x.2.2.1
    let hi := lo + x.2.2.2
    if x.2.1 ≠ k then [x] else [(x.1, k, lo, min hi a - lo), (x.1, k, max lo (a + n), hi - max lo (a + n))].filter (0 < ·.2.2.2)
def State.unland (s : State) (k : Option ShKey) (a n : Nat) : State :=
  { s with lands := cutLand k a n s.lands }

/-- The home takes the dirty bytes of lines of a core, one request for each line (R42, R54). -/
def State.writeLines (s : State) (core : Nat) (ls : List (Nat × Line)) : State :=
  let ds := ls.filter fun l => l.2.dirty ≠ 0
  { s with mem := ds.foldl (fun m (l : Nat × Line) => writeDirty m l.1 l.2 64) s.mem,
           lands := ds.foldl (fun l (x : Nat × Line) =>
             (List.range 64).foldl (fun l i => if x.2.dirty.getLsbD i then cutLand none (x.1 + i) 1 l else l) l) s.lands,
           ptePend := s.ptePend ++ ds.filterMap fun l => l.2.pte.map fun e => (s.partOfCore core, e) }

/-- Write back every dirty line of a core; every line stays, clean (R42). -/
def State.writeBackAll (s : State) (core : Nat) : State :=
  let c := s.core core
  (s.writeLines core c.lines).setCore core { c with lines := c.lines.map fun (l : Nat × Line) => (l.1, { l.2 with dirty := 0 }) }

/-- Drop the clean lines that a test picks. -/
def State.dropClean (s : State) (core : Nat) (f : Line → Bool) : State :=
  let c := s.core core
  s.setCore core { c with lines := c.lines.filter fun (l : Nat × Line) => !(l.2.dirty = 0 && f l.2) }

/-! ## Join cells (R217 to R220) -/

/-- The payload words a core keeps that no register shows: those of its cells, of the records of their firings, queued or on their
way to its queues, and of the handlers that run (R220). Log 52 (DEDUCED). -/
def State.payloadOf (s : State) (core : Nat) : List PWord :=
  ((s.cells.filter fun c => core * 4096 ≤ c.1 && c.1 < core * 4096 + 4096).flatMap fun c => c.2.arrivals.flatMap (·.words))
  ++ ((s.core core).queues.toList.flatMap fun q => q.flatMap (·.words))
  ++ ((List.range 16).flatMap fun f => (s.strand (core * 16 + f)).task.words)
  ++ s.net.flatMap fun m => match m.body with | .record r => if coreOf m.dest = core then r.words else [] | _ => []

/-- Whether n payload words find room: 512 in the core and 2,048 in the spill area (R216, R220). -/
def State.payloadRoom (s : State) (core n : Nat) : Bool :=
  n = 0 || (s.payloadOf core).length + n ≤ (if (s.core core).cspill.getLsbD 0 then 512 + 2048 else 512)

/-- Keep payload words: the first in the core while it holds fewer than 512, the others in its spill area, at places that are a free
value among the free ones (R216, R220). Log 52 (DEDUCED). -/
def State.keepWords (s : State) (core : Nat) : List PWord → List Word → State × List PWord
  | _, [] => (s, [])
  | have_, w :: ws =>
    if have_.countP (·.slot.isNone) < 512 then
      let (s, l) := s.keepWords core (⟨w, none⟩ :: have_) ws
      (s, ⟨w, none⟩ :: l)
    else
      let k := freePlace (have_.map (·.slot)) 2048 (Config.spillPlace s.fresh)
      let s := { s with mem := Memory.writeN s.mem ((s.core core).spillBase + 0xC000 + 8 * k) 8 w.toNat, fresh := s.fresh + 1 }
      let (s, l) := s.keepWords core (⟨w, some k⟩ :: have_) ws
      (s, ⟨w, some k⟩ :: l)

/-- The value of a payload word of a core. -/
def State.pword (s : State) (core : Nat) (w : PWord) : Word :=
  match w.slot with
  | none => w.w
  | some k => BitVec.ofNat 64 (Memory.readN s.mem ((s.core core).spillBase + 0xC000 + 8 * k) 8)

/-- q6 of a strand refills from its firing's payload (R220). -/
def State.refill (s : State) (t : Nat) : State :=
  let x := s.strand t
  let n := 8 - (x.q.get 6).length
  s.setStrand t { x with q := x.q.set 6 (x.q.get 6 ++ (x.task.words.take n).map (s.pword (coreOf t))),
                         task := { x.task with words := x.task.words.drop n } }

/-- Insert by position within the firing (R219). Log 75 (DEDUCED). -/
def insertSeq (next : BitVec 16) (p : Payload) : List Payload → List Payload
  | [] => [p]
  | x :: xs =>
    match p.seq, x.seq with
    | some a, some b => if (a - next).toNat < (b - next).toNat then p :: x :: xs else x :: insertSeq next p xs
    | some _, none => p :: x :: xs
    | none, _ => x :: insertSeq next p xs

/-- The order of R219 for a firing's payloads. Log 75 (DEDUCED). -/
def Cell.ordering (c : Cell) : List Payload :=
  if c.ordered then c.arrivals.foldl (fun l p => insertSeq c.next p l) [] else c.arrivals

/-- Payloads without `seq` from more than one sender (R219). Log 75 (DEDUCED). -/
def mixedSenders (l : List Payload) : Bool :=
  match (l.filter fun p => p.seq.isNone).map (·.sender) with
  | [] => false
  | x :: xs => xs.any (· != x)

/-- A strand that waits on cell j of a core, by its place: parked, or on its way to another core. -/
def Strand.waitsOn (x : Strand) (core : Nat) (j : BitVec 12) : Bool :=
  x.wait = .cell core j && (x.st = .parked || (x.st = .moving && x.rest = .parked))

/-- A strand parked on cell j becomes ready behind its `jcwait`, and its core's clean lines go (R218, R42). -/
def wakeParked (s : State) (core : Nat) (j : BitVec 12) : State :=
  ((s.strands.map (·.1)).filter fun t => (s.strand t).waitsOn core j).foldl (fun s t =>
    (s.dropClean (coreOf t) fun _ => true).endWait t fun x => x.advance 4) s

/-- The handler record of a firing (R218). Log 75 (DEDUCED). -/
def Cell.handlerRecord (c : Cell) (core : Nat) (j : BitVec 12) : TRec :=
  let ps := c.ordering
  let ws := ps.flatMap (·.words)
  { code := c.code &&& 0x00FFFFFFFFFFFFFC, frame := c.frame, seq := 0, level := c.code.extractLsb' 62 2,
    prio := c.code.extractLsb' 0 2, cw := 0, path := m64s c.hpath [c.hord + 1, c.firing + 1], a0 := j.setWidth 64,
    a1 := BitVec.ofNat 64 ws.length, a2 := bit c.failed, a3 := c.firing, cwCore := core, handler := some j, words := ws,
    mixed := mixedSenders ps, launches := c.launches, role := .none, b0 := 0, tag := none, slot := none }

/-- Fire (R218): waiters go on, the handler is spawned with the payload, and an auto-reinit cell is armed again. Log 75 (DEDUCED). -/
def State.fire (s : State) (core : Nat) (j : BitVec 12) : State :=
  let s := wakeParked s core j
  let c := s.cell core j.toNat
  let r := c.handlerRecord core j
  let nseq := (c.arrivals.filter fun p => p.seq.isSome).length
  let c' : Cell := { c with parked := false, arrivals := [], next := c.next + BitVec.ofNat 16 nseq, firing := c.firing + 1,
                            count := if c.reinit then c.initial else 0, failed := if c.reinit then false else c.failed }
  let s := s.setCell core j.toNat c'
  if c.code = 0 then s else s.queueRecord (engineSender 0) core r

/-- A decrement with its payload words, their `seq` and their sender (R218); `failed` marks the report of a failed command or handover.
A decrement without words leaves no payload, whatever its `seq`, so it takes no position in an ordered firing and `next` does not count it.
Log 10 (DEDUCED). Log 75 (DEDUCED). -/
def State.decrement (s : State) (core : Nat) (j : BitVec 12) (d : Nat) (ws : List Word) (seq : Option (BitVec 16)) (sender : Nat)
    (failed : Bool) : State :=
  let c := s.cell core j.toNat
  if c.count = 0 then s.setCell core j.toNat { c with failed := c.failed || failed || decide (d ≠ 0) }
  else
    let n := c.count.toNat - d
    let (s, ps) := s.keepWords core (s.payloadOf core) ws
    let c' : Cell := { c with arrivals := if ws.isEmpty then c.arrivals else c.arrivals ++ [⟨ps, seq, sender⟩],
                              count := BitVec.ofNat 32 n, failed := c.failed || failed }
    let s := s.setCell core j.toNat c'
    if n = 0 && d ≠ 0 then s.fire core j else s

/-- A decrement of cell j that carries a payload. -/
def Body.pays (b : Body) (j : BitVec 12) : Bool :=
  match b with
  | .decrement k _ ws _ _ => k = j && !ws.isEmpty
  | _ => false
/-- Whether an item may come to be delivered at a core: it was routed there, or its rank is held there. -/
def State.headsTo (s : State) (m : Msg) (core : Nat) : Bool :=
  coreOf m.dest = core || match m.rank with
    | some rk => s.entryLive (s.partOf m.dest) (s.rankEntry (s.partOf m.dest) rk) && coreOf (entryPlace (s.rankEntry (s.partOf m.dest) rk)) = core
    | none => false

/-- A decrement of a cell of a core that needs no network: at once, when its payload finds room and no earlier one of its sender waits,
nor an earlier payload of its sender for the cell, by rank or not; else it waits at the NI (R218 to R220, R29). Log 12 (DEDUCED). -/
def State.localDec (s : State) (sender core : Nat) (j : BitVec 12) (d : BitVec 8) (ws : List Word) (seq : Option (BitVec 16)) (failed : Bool)
    (for_ : Option Nat := none) (ord : Option Nat := none) : State :=
  let earlier := s.net.any fun m => m.sender = sender &&
    ((m.rank.isNone && coreOf m.dest = core && match m.body with | .decrement _ _ _ _ _ => true | _ => false)
     || (!ws.isEmpty && m.body.pays j && s.headsTo m core))
  if earlier || (!s.payloadRoom core ws.length && (s.cell core j.toNat).count ≠ 0) then
    s.post sender none (core * 16) false (.decrement j d ws seq failed) for_ (ord := ord)
  else s.decrement core j d.toNat ws seq sender failed

/-- A decrement of 1 for a local completion word at once, or on its way for a remote one (R146, R147). `cnt` is the strand whose
message it counts as (R393). A remote word whose rank names no strand any more decrements nothing, and is reported nowhere: R147 says
what becomes of it only for a command that failed. Log 12 (DEDUCED). -/
def State.completeCw (s : State) (sender cwCore p : Nat) (cw : Word) (cnt : Nat) (ws : List Word) (seq : Option (BitVec 16))
    (failed : Bool) (ord : Option Nat := none) : State :=
  if !cwValid cw then s
  else if cwRemote cw then
    match s.rankValid cwCore p (cwRank cw) with
    | some e =>
      (s.countSent cnt).post sender (some (cwRank cw)) (entryPlace e) true (.decrement (cwCell cw) 1 ws seq failed) (some cnt) (ord := ord)
    | none => s
  else s.localDec sender cwCore (cwCell cw) 1 ws seq failed (some cnt) ord

/-- The doorbell of the fault queue (R379): a local word names core 0 of the lead cluster; one that does not resolve is dropped
and recorded. -/
def State.fqDoor (s : State) (p : Nat) (pc : Word) : State :=
  let cw := (s.cluster (s.lead p)).fqdoor
  if cw = 0 then s
  else if cwRemote cw then
    match s.rankValid (s.lead p * 48) p (cwRank cw) with
    | some e => s.post (engineSender 0) (some (cwRank cw)) (entryPlace e) false (.decrement (cwCell cw) 1 [] none false)
    | none => s.dcause p 13 pc
  else s.post (engineSender 0) none (s.lead p * 48 * 16) false (.decrement (cwCell cw) 1 [] none false)

/-- Report a record to the partition fault queue, doorbell included (R378 to R380). -/
def State.report (s : State) (r : FaultRec) : State :=
  let (s', entered) := s.enterRecord r
  if entered then s'.fqDoor r.part r.pc else s'

/-- Report a failed command or handover: the queue entry first, then its cell with the record as payload (R147, R378). -/
def State.reportFailed (s : State) (r : FaultRec) (sender cwCore cnt : Nat) : State :=
  let live := cwValid r.cw && (!cwRemote r.cw || (s.rankValid cwCore r.part (cwRank r.cw)).isSome)
  let r := { r with celled := live }
  let n := match s.fqBase r.part with | some a => Memory.readN s.mem a 8 | none => 0
  let s := s.report r
  if live then s.completeCw sender cwCore r.part r.cw cnt (r.words (BitVec.ofNat 64 n)) none true
  else s.dcause r.part 13 r.pc

/-! ## Taking a trap and returning (R375, R376, R255) -/

def tsIe (w : Word) : Bool := w.getLsbD 0
def tsPie (w : Word) : Bool := w.getLsbD 1
def tsPlev (w : Word) : BitVec 2 := w.extractLsb' 4 2
def tstatOf (plev : BitVec 2) (pie ie : Bool) : Word :=
  (plev.setWidth 64 <<< 4) ||| (bit pie <<< 1) ||| bit ie

/-- Where a trap of a cause goes: its target level and vector (R375). -/
def State.target (s : State) (t : Nat) (c : BitVec 8) (val : Word) : BitVec 2 × Word :=
  let x := s.strand t
  if c = 0x10 ∧ 0x40 ≤ val.toNat ∧ val.toNat ≤ 0x7F ∧ x.level = 0 ∧ x.csr.atvec ≠ 0 then (0, x.csr.atvec)
  else if c.toNat ≥ 0x20 ∨ x.level = 2 ∨ !x.csr.tdeleg.getLsbD c.toNat then (2, (s.core (coreOf t)).cmtvec)
  else (1, x.csr.tvec)

/-- Halt a strand whose trap has no vector, or whose vector cannot be fetched (R375, R391), and put a record with source 9 in
the fault queue (R378). -/
def State.haltTrap (s : State) (t : Nat) (why c : BitVec 8) (val tpc : Word) : State :=
  let x := s.strand t
  let pc := x.pc
  let s := s.setStrand t { x with pc := tpc, fbuf := [], vecFetch := false }
  (s.haltStrand t why tpc).report
    { celled := false, parked := false, src := 9, inner := if c.toNat ≥ 0x20 then 0 else c, cause := if c.toNat ≥ 0x20 then c else 0x14,
      pc := pc, addr := val, part := s.partOf t, rank := x.rank, cw := 0, info := 0 }

/-- Enter a handler: the saved registers, the status, the level and the PC (R375). -/
def State.enter (s : State) (t : Nat) (lvl : BitVec 2) (vec cause val tpc : Word) : State :=
  let s := s.jumpT t vec
  s.modStrand t fun x =>
    { x with
      level := lvl, vecFetch := true,
      csr := { x.csr with tcause := cause, tval := val, tpc := tpc, tstat := tstatOf x.level (tsIe x.csr.tstat) false } }

/-- deliver of R375 for the executing strand: a trap of a cause with its value, and the address TPC takes. -/
def State.deliver (s : State) (c : BitVec 8) (val tpc : Word) : State :=
  let (lvl, vec) := s.target s.cur c val
  if vec = 0 then s.haltTrap s.cur 5 c val tpc
  else s.enter s.cur lvl vec (c.setWidth 64) val tpc

/-- A precise trap: TPC holds the instruction, which does not retire (R238, R375). Log 9 (DEDUCED). -/
def State.trap (s : State) (c : BitVec 8) (val : Word) : Out1 := .next (s.deliver c val s.me.pc)
def State.raise (s : State) (t : Trap) : Out1 := s.trap t.cause t.val
/-- A trap whose raising rule names no value: TVAL holds the instruction word (R239). Log 9 (DEDUCED). -/
def State.trapIr (s : State) (c : BitVec 8) : Out1 := s.trap c s.ir

/-- ERET (R255). -/
def State.eret (s : State) : Out1 :=
  let x := s.me
  let plev := tsPlev x.csr.tstat
  if plev.toNat > x.level.toNat then s.trapIr 0x02
  else if x.csr.tpc.extractLsb' 0 2 ≠ 0 then s.trap 0x03 x.csr.tpc
  else
    .next ((s.jump x.csr.tpc).modStrand s.cur fun y =>
      { y with level := plev, csr := { y.csr with tstat := tstatOf plev (tsPie x.csr.tstat) (tsPie x.csr.tstat) } })

/-- A branch or jump to a target: a target off a word boundary raises cause 0x03 (R230). -/
def State.transfer (s : State) (target : Word) : Out1 :=
  if target.extractLsb' 0 2 ≠ 0 then s.trap 0x03 target else .next (s.jump target)

/-- A step of the device: taken when its condition holds, else no run of the machine. Log 67 (DESIGN CHOICE). -/
def enabled : Option State → Out1
  | some s => .next s
  | none => .fault .notEnabled

/-- The instruction cannot act yet: the strand stays where it is, and time passes. Log 67 (DESIGN CHOICE). -/
def State.stall (s : State) : Out1 := .next s

/-! ## What an instruction waits for (R120, R123) -/

/-- Every earlier access of every kind is performed, stores at home or in the core copy. -/
def Strand.drained (x : Strand) : Bool := x.pend.all (·.performed) && x.out.isEmpty

/-- Wait as for an `strl.dev` (R120, R123): stall until the strand is released and no write-back is held, then write back the core
copy and go on. `back` is the state a stall leaves: of an instruction that has loaded, the one before its loads, which it takes again. -/
def State.afterRelease (s : State) (k : State → Out1) (back : State := s) : Out1 :=
  if s.me.released && !s.backHeld (coreOf s.cur) then k (s.writeBackAll (coreOf s.cur)) else back.stall

end Sys2Proof.Machine
end

