-- ==== Sys2Proof/Machine/Flags.lean ====
section
/-! DEFINITION. The floating-point control register at work (R102): the dynamic rounding mode, flushing, sticky flags and the
enabled trap. -/

namespace Sys2Proof.Machine

/-- FCTL.rm. -/
def fctlRm (w : Word) : Nat := (w.extractLsb' 11 3).toNat
/-- FCTL.ftz. -/
def fctlFtz (w : Word) : Bool := w.getLsbD 10
/-- The enable bits nve, dze, ofe, ufe, nxe in the layout of the flags. -/
def fctlEnables (w : Word) : Flags := w.extractLsb' 5 5

def Strand.rm (x : Strand) : Nat := fctlRm x.csr.fctl
def Strand.ftz (x : Strand) : Bool := fctlFtz x.csr.fctl

/-- A rounding field: 0 takes FCTL.rm (R101). -/
def Strand.rounding (x : Strand) (r : BitVec 3) : Nat := if r = 0 then x.rm else r.toNat

/-- Set sticky bits (R102): how flags of Loom status, engine completion and atomics reach a strand too. -/
def Strand.merge (x : Strand) (f : Flags) : Strand := { x with csr := { x.csr with fctl := x.csr.fctl ||| f.setWidth 64 } }

/-- Retire a float instruction that raised flags, or trap when one of them is enabled (R102). -/
def State.retireFlags (s : State) (f : Flags) (k : Strand → Strand) : Out1 :=
  if f &&& fctlEnables s.me.csr.fctl ≠ 0 then s.trap 0x0F (f.setWidth 64)
  else .next (s.setMe ((k (s.me.merge f)).advance 4))

end Sys2Proof.Machine
end

