-- ==== Sys2Proof/Machine/Translate.lean ====
section
/-! DEFINITION. Sorting an address, walking the page tables, checking an access and routing it to its home (01, 03, R283). -/

namespace Sys2Proof.Machine

/-- Access kinds (R71). -/
inductive Acc where
  | load | fetch | store | atomic
  deriving DecidableEq, Repr

/-- The cause of a translation fault (R7). -/
def Acc.cause : Acc → BitVec 8 | .load | .fetch => 0x04 | .store | .atomic => 0x05

/-- On whose behalf an access is made: partition, core, level and held seals (R71, R161). -/
structure Ctx where
  p : Nat
  core : Nat
  lvl : BitVec 2
  held : List (BitVec 32)
  deriving DecidableEq, Repr

/-- The non-zero keys a strand holds (R161). -/
def Strand.heldKeys (x : Strand) : List (BitVec 32) := (x.csr.sealk.toList.map (·.extractLsb' 0 32)).filter (· ≠ 0)
/-- The context of a strand's own accesses. -/
def State.ctx (s : State) (t : Nat) : Ctx := ⟨s.partOf t, coreOf t, (s.strand t).level, (s.strand t).heldKeys⟩

/-! ## Page-table entries (R69, R70) -/

namespace Pte
def valid (lo : Word) : Bool := lo.getLsbD 0
def leaf (lo : Word) : Bool := lo.getLsbD 1
def r (lo : Word) : Bool := lo.getLsbD 4
def w (lo : Word) : Bool := lo.getLsbD 5
def x (lo : Word) : Bool := lo.getLsbD 6
def appr (lo : Word) : Bool := lo.getLsbD 7
def ord (lo : Word) : Nat := (lo.extractLsb' 17 2).toNat
def fmt (lo : Word) : BitVec 5 := lo.extractLsb' 19 5
def geom (lo : Word) : Nat := (lo.extractLsb' 24 2).toNat
def sealed (lo : Word) : Bool := lo.getLsbD 26
def pin (lo : Word) : Bool := lo.getLsbD 27
def tier (lo : Word) : Nat := (lo.extractLsb' 28 2).toNat
/-- pa of the next node or of the page -/
def frame (lo : Word) : Nat := (lo.extractLsb' 32 30).toNat * 2 ^ 14
def sfi (hi : Word) : Nat := (hi.extractLsb' 40 24).toNat
def cnt (hi : Word) : Nat := (hi.extractLsb' 16 16).toNat
/-- Reserved bits of a leaf (R69). -/
def leafReserved (lo hi : Word) : Bool := lo &&& 0xC0000000C001FF0C ≠ 0 || hi &&& 0x000000FF0000FFFF ≠ 0
/-- Bits a pointer entry may not have. -/
def pointerReserved (lo hi : Word) : Bool := lo &&& 0xC0000000FFFFFFFC ≠ 0 || hi ≠ 0
end Pte

/-- Whether an address range of off-package memory lies in a region that a register of R68 defines. -/
def inRegion (reg : Word) (pa len : Nat) : Bool :=
  let base := (reg.extractLsb' 24 20).toNat * 2 ^ 24
  let size := (reg.extractLsb' 48 16).toNat * 2 ^ 24
  size ≠ 0 && base ≤ pa && pa + len ≤ base + size

/-- An entry that is valid and malformed at a level (R70). -/
def malformed (ptreg : Word) (level : Nat) (lo hi : Word) : Bool :=
  if Pte.leaf lo then
    let f := Pte.frame lo
    Pte.leafReserved lo hi || level ≤ 2 || (level = 4 && f % 2 ^ 16 ≠ 0) || (level = 3 && f % 2 ^ 26 ≠ 0)
    || !offPackage f || Pte.tier lo = 3 || (Pte.tier lo = 0 && f ≥ 0x10000000000) || (Pte.tier lo = 1 && f < 0x10000000000)
    || Pte.ord lo = 3 || Pte.geom lo = 3 || (Pte.fmt lo).toNat ≥ 24 || (Pte.w lo && !Pte.r lo)
  else level = 4 || Pte.pointerReserved lo hi || !inRegion ptreg (Pte.frame lo) 0x4000

/-- The index of a level (R67). -/
def levelIndex (va level : Nat) : Nat := va / 2 ^ (56 - 10 * level) % 1024

/-- How a translation ends. -/
inductive Xlate where
  | ok (e : TlbEntry)
  /-- an entry with `v` 0 at the pa given: the kind that may park (R156) -/
  | invalid
  | fault
  /-- the page is in transit between tiers (R59) -/
  | wait
  deriving DecidableEq, Repr

/-- The seal key of the entry at a pa (R159). -/
def State.sealKey (s : State) (p pte : Nat) : BitVec 32 :=
  let x := s.part p
  let base := (x.skreg.extractLsb' 22 22).toNat * 2 ^ 22
  BitVec.ofNat 32 (Memory.readN s.mem (base + (pte - (x.ptreg.extractLsb' 24 20).toNat * 2 ^ 24) / 4) 4)

/-- The die whose walkers serve an address (R74). -/
def State.walkHome (s : State) (p va : Nat) : Nat :=
  let ds := maskDies (s.mask p)
  ds.getD ((va / 2 ^ 26 % 2 ^ 29) % ds.length) 0

/-- Walk from a node at a level on; the fuel is the number of levels left (R67, R75). -/
def State.walkFrom (s : State) (p : Nat) (va : Nat) : Nat → Nat → Nat → Xlate
  | 0, _, _ => .fault
  | fuel + 1, level, node =>
    let pte := node + 16 * levelIndex va level
    let lo := BitVec.ofNat 64 (Memory.readN s.mem pte 8)
    let hi := BitVec.ofNat 64 (Memory.readN s.mem (pte + 8) 8)
    if !Pte.valid lo then .invalid
    else if malformed (s.part p).ptreg level lo hi then .fault
    else if Pte.leaf lo then
      let large := level = 3
      if Pte.tier lo = 2 then .wait
      else .ok ⟨p, if large then va / 2 ^ 26 * 2 ^ 26 else va / 2 ^ 16 * 2 ^ 16, large, pte, lo, hi,
                if Pte.sealed lo then s.sealKey p pte else 0⟩
    else s.walkFrom p va fuel (level + 1) (Pte.frame lo)

/-- A fresh walk of the table at home (R75, R76). -/
def State.walk (s : State) (p va : Nat) : Xlate :=
  let x := s.part p
  if x.ptreg.extractLsb' 48 16 = 0 then .fault else s.walkFrom p va 4 1 x.ptroot.toNat

/-- Whether an entry covers an address. -/
def TlbEntry.covers (e : TlbEntry) (p va : Nat) : Bool := e.part = p && e.va ≤ va && va < e.va + (if e.large then 2 ^ 26 else 2 ^ 16)

/-- The cached leaf for an address, of the core's TLB or its cluster's (R73). -/
def State.cached (s : State) (p core va : Nat) : Option TlbEntry :=
  match (s.core core).tlb.find? fun e => e.covers p va with
  | some e => some e
  | none => (s.cluster (clusterOf core)).tlb.find? fun e => e.covers p va

/-- The permission part of R71. -/
def permits (e : TlbEntry) (acc : Acc) (lvl : BitVec 2) : Bool :=
  (lvl ≠ 0 || Pte.appr e.lo) &&
  match acc with
  | .fetch => Pte.x e.lo
  | .load => Pte.r e.lo
  | .store => Pte.w e.lo
  | .atomic => Pte.r e.lo && Pte.w e.lo

/-- The entry an access is translated through: a cached one that permits it, else a fresh walk (R77). -/
def State.translate (s : State) (c : Ctx) (acc : Acc) (va : Nat) : Xlate :=
  let fresh := match s.walk c.p va with
    | .ok e => if permits e acc c.lvl then .ok e else .fault
    | r => r
  match s.cached c.p c.core va with
  | some e => if permits e acc c.lvl then .ok e else fresh
  | none => fresh

/-- The range of addresses a pointer entry of a level covers, as a number (R67). -/
def walkIndex (va level : Nat) : Nat := va / 2 ^ (56 - 10 * level)

/-- A walk that takes the pointer entries its die's walk cache holds, with the pointer entries it read. Log 53 (DEDUCED). -/
def State.walkVia (s : State) (p va : Nat) (held : List WalkEntry) : Nat → Nat → Nat → List WalkEntry → Option (TlbEntry × List WalkEntry)
  | 0, _, _, _ => none
  | fuel + 1, level, node, seen =>
    match held.find? fun e => e.part = p && e.level = level && e.index = walkIndex va level with
    | some e => s.walkVia p va held fuel (level + 1) (Pte.frame e.lo) seen
    | none =>
      let pte := node + 16 * levelIndex va level
      let lo := BitVec.ofNat 64 (Memory.readN s.mem pte 8)
      let hi := BitVec.ofNat 64 (Memory.readN s.mem (pte + 8) 8)
      if !Pte.valid lo || malformed (s.part p).ptreg level lo hi then none
      else if Pte.leaf lo then
        match s.walkFrom p va 1 level node with
        | .ok e => some (e, seen)
        | _ => none
      else s.walkVia p va held fuel (level + 1) (Pte.frame lo) (seen ++ [⟨p, level, walkIndex va level, lo⟩])

/-- The walk cache of a die without the pointer entries of a partition that lead to an address (R77). -/
def Die.unwalk (x : Die) (p va : Nat) : Die := { x with walk := x.walk.filter fun e => !(e.part = p && e.index = walkIndex va e.level) }

/-- seal_check of R161, passed. -/
def sealPass (pk : BitVec 32) (held : List (BitVec 32)) (skey : BitVec 32) : Bool :=
  pk ≠ 0 && (skey = 0 || skey = pk) && held.contains pk

/-- pa of an address under an entry (R71). -/
def TlbEntry.pa (e : TlbEntry) (va : Nat) : Nat := Pte.frame e.lo + (va - e.va)

def ordKind (o : Nat) : OrdKind := match o with | 0 => .so | 1 => .rc | _ => .uo

/-! ## Regions of the virtual address (R7) -/

inductive VaRegion where
  | alias_ | mesh | translated | bad
  deriving DecidableEq, Repr

/-- Log 77 (DEDUCED). -/
def vaRegion (va : Word) : VaRegion :=
  if va.extractLsb' 56 8 ≠ 0 then .bad
  else if va.getLsbD 55 then .mesh
  else if va.toNat < 0x40000 then .alias_
  else .translated

/-- The frame area of local memory is a hole (R16). Log 77 (DEDUCED). -/
def frameArea (off : Nat) : Bool := 0x20000 ≤ off && off < 0x30000

/-- Items of R7, R10 and R11: whether an address names nothing for this context. Log 77 (DEDUCED). -/
def State.unsorted (s : State) (c : Ctx) (va : Word) : Bool :=
  match vaRegion va with
  | .bad => true
  | .alias_ => frameArea va.toNat
  | .translated => false
  | .mesh => meshRegion va.toNat = .hole || !inMask (s.mask c.p) ((va.toNat - meshBase) / 2 ^ 34)

/-- Whether an address lies in a partition's name tables (R24). -/
def Part.inNames (x : Part) (a : Nat) : Bool := x.tables && x.rtbase.toNat ≤ a && a < x.rtbase.toNat + 0x40100

/-- Whether an LBLD or LBSWP of an octet is accepted and not completed (R23). Log 43 (DEDUCED). -/
def State.staging (s : State) (o : Nat) : Bool :=
  s.cmds.any fun c => octetOf c.core = o && match c.op with | .lbld _ _ | .lbswp => true | _ => false

/-- Whether a pool offset lies in the search arrays while they are enabled (R355). -/
def Cluster.searching (c : Cluster) (off : Nat) : Bool :=
  c.sacfg.getLsbD 8 && (c.sacfg.extractLsb' 0 8).toNat * 0x10000 ≤ off && off < ((c.sacfg.extractLsb' 0 8).toNat + 4) * 0x10000

/-- The gateway port of a cluster, if it has one (R34). -/
def gatewayPort (cl : Nat) : Option Nat :=
  (List.range 12).find? fun p =>
    cl = (if p < 3 then 4 * p else if p < 6 then 4 * 16 + 4 * (p - 3) else if p < 9 then 3 * 16 + 4 * (p - 6) + 3 else 7 * 16 + 4 * (p - 9) + 3)

/-- Item 3 of R283 and R292 for a physical-map access: none when it passes. Log 43 (DEDUCED). -/
def State.meshCheck (s : State) (c : Ctx) (acc : Acc) (va : Word) (size : Nat) : Option (BitVec 8) :=
  let narrow := size ≠ 8 || va.toNat % 8 ≠ 0
  let st := acc = .store
  match meshRegion va.toNat with
  | .hole => some acc.cause
  | .local_ _ _ | .staging _ _ =>
    if acc = .atomic then (match meshRegion va.toNat with | .staging _ _ => some 0x05 | _ => none) else none
  | .pool cl off =>
    if (s.cluster cl).searching off then some 0x05
    else if (st || acc = .atomic) && (s.part c.p).inNames va.toNat then some 0x05 else none
  | .frame _ _ =>
    if acc = .atomic then some 0x05 else if narrow then some 0x03 else if c.lvl = 0 then some 0x02 else none
  | .cell _ _ _ => if acc = .atomic then some 0x0B else if narrow then some 0x03 else if st then some 0x0B else none
  | .ctl _ _ =>
    if acc = .atomic then some 0x05 else if narrow then some 0x03
    else if c.lvl = 0 || (st && c.lvl ≠ 2) then some 0x02 else none
  | .clusterCtl cl off =>
    -- SLRXC and SLTXD of a gateway cluster take stores of a journeyman (R420)
    if acc = .atomic then some 0x05 else if narrow then some 0x03
    else if c.lvl = 0 || (st && c.lvl ≠ 2 && !((gatewayPort cl).isSome && (off = 0x420 || off = 0x428))) then some 0x02 else none

/-- The home of a mesh address: staging addresses name the physical set that is not active (R23, R296). -/
def State.homeOf (s : State) (a : Nat) : Nat :=
  match meshRegion a with
  | .staging o _ => if (s.loom o).act then a else a + 0x80000
  | _ => a

/-- How routing ends: at a home, with its translation, in a trap, or not yet. -/
inductive Route where
  | ok (p : Part1) (e : Option TlbEntry)
  /-- an invalid entry: a fault, or a park for the requests of R156 -/
  | invalid (t : Trap)
  | fault (t : Trap)
  | wait
  deriving DecidableEq, Repr

/-- Items 1, 3 and 4 of R283 for one naturally aligned part: sorted, checked and routed to its home. -/
def State.route (s : State) (c : Ctx) (acc : Acc) (va : Word) (size : Nat) (skey : BitVec 32) : Route :=
  if s.unsorted c va then .fault ⟨acc.cause, va⟩
  else match vaRegion va with
  | .bad => .fault ⟨acc.cause, va⟩
  | .alias_ =>
    .ok { key := coreAddr c.core va.toNat, va := va, size := size, name := .alias_, kind := .rc, cached := false, thru := none, pos := 0, pte := none } none
  | .mesh =>
    match s.meshCheck c acc va size with
    | some x => .fault ⟨x, va⟩
    | none =>
      let k : OrdKind := match meshRegion va.toNat with | .frame _ _ | .cell _ _ _ | .ctl _ _ | .clusterCtl _ _ => .so | _ => .rc
      let busy := match meshRegion va.toNat with | .staging o _ => s.staging o | _ => false
      if busy then .wait
      else .ok { key := s.homeOf va.toNat, va := va, size := size, name := .mesh, kind := k, cached := false, thru := none, pos := 0, pte := none,
                 lvl := c.lvl } none
  | .translated =>
    match s.translate c acc va.toNat with
    | .wait => .wait
    | .invalid => .invalid ⟨acc.cause, va⟩
    | .fault => .fault ⟨acc.cause, va⟩
    | .ok e =>
      if (acc = .store || acc = .atomic) && Pte.sealed e.lo && !sealPass e.key c.held skey then .fault ⟨0x06, va⟩
      else
        let k := ordKind (Pte.ord e.lo)
        .ok { key := e.pa va.toNat, va := va, size := size, name := .translated, kind := k, cached := k ≠ .so, thru := none, pos := 0,
              pte := if e.large then none else some e.pte, large := e.large } (some e)

/-- A scalar access under R283: sorting first, then alignment, then the rest. -/
def State.routeScalar (s : State) (c : Ctx) (acc : Acc) (va : Word) (size : Nat) : Route :=
  if s.unsorted c va then .fault ⟨acc.cause, va⟩
  else if va.toNat % size ≠ 0 then .fault ⟨0x03, va⟩
  else s.route c acc va size 0

/-- The home die of a pa (R52). -/
def homeDie (pa : Nat) : Nat := pa / 2 ^ 16 % 8


end Sys2Proof.Machine
end

