-- ==== Sys2Proof/Machine/Halt.lean ====
section
/-! DEFINITION. Gang stops, halt groups and releases (R389 to R397), and clearing a die (R261). -/

namespace Sys2Proof.Machine

/-- The strands of a partition that something has touched, by place. -/
def State.strandsOf (s : State) (p : Nat) : List Nat := (s.strands.map (·.1)).filter fun t => s.partOf t = p
/-- The cores of a partition that something has touched. -/
def State.touchedCores (s : State) (p : Nat) : List Nat := (s.cores.map (·.1)).filter fun c => s.partOfCore c = p

/-- Halt every strand of a list that is not moving; a moving strand halts where it lands (R388). Log 49 (DEDUCED). -/
def haltAll (s : State) (why : BitVec 8) (ts : List Nat) : State :=
  ts.foldl (fun s t => if (s.strand t).st = .moving then s else s.haltStrand t why (s.strand t).pc) s

/-- Stop every core of a partition (R389). A partition that a gang stop holds already stays as it is. Log 49 (DEDUCED). -/
def State.gangStop (s : State) (p : Nat) (why : BitVec 8) : State :=
  if (s.part p).gang.isSome || (s.part p).mask = 0 then s
  else
    let ts := s.strandsOf p
    let s := haltAll s why ts
    let s := s.modPart p fun x => { x with gang := some why, quiet := false }
    (maskDies (s.mask p)).foldl (fun s d => s.modDie d fun x =>
      { x with held := true, hrec := { HaltRec.zero with why := why, prior := .idle } }) s

/-! ## Launches that have ended (R48) -/

/-- Whether a join cell holds a launch (R48). -/
def Cell.holds (c : Cell) (l : Nat) : Bool :=
  c.code ≠ 0 && c.launches.contains l && (if c.reinit then c.count ≠ c.initial || !c.arrivals.isEmpty else c.count ≠ 0)

/-- Whether some task or cell of a partition still descends from a launch (R48). An unended guarded launch of the Assay holds it too, and a
set's unfinished record does not: R48 names neither, a choice of the model's. Log 87 (DEDUCED). -/
def State.launchLive (s : State) (p l : Nat) : Bool :=
  let rec_ : TRec → Bool := fun r => r.launches.contains l
  (s.strandsOf p).any (fun t => (s.strand t).task.launches.contains l)
  || (s.touchedCores p).any (fun c => (s.core c).queues.toList.any fun q => q.any rec_)
  || s.net.any (fun m => match m.body with | .record r => rec_ r | _ => false)
  || s.cells.any (fun c => s.partOfCore (c.1 / 4096) = p && c.2.holds l)
  || (s.cmds ++ s.issued).any (fun c => c.launches.contains l)
  || (s.part p).launches.any (fun x => x.outer.contains l)
  || (s.part p).assays.any (fun a => a.launches.contains l)

/-- Bits of granules g to g + n − 1. -/
def granuleBits (g n : Nat) : BitVec 256 := BitVec.ofNat 256 ((2 ^ n - 1) * 2 ^ g)

/-- Release the granules of launches that have ended (R48). -/
def State.reap (s : State) (p : Nat) : State :=
  let (live, dead) := (s.part p).grants.partition fun g => s.launchLive p g.id
  if dead.isEmpty then s
  else
    let s := dead.foldl (fun s g => g.runs.foldl (fun s (r : Nat × Nat × Nat) =>
      s.modCluster r.1 fun c => { c with granted := c.granted &&& ~~~(granuleBits r.2.1 r.2.2) }) s) s
    s.modPart p fun x => { x with grants := live }

/-! ## Releases (R392, R203) -/

/-- A halt of the strand's own that has not been released: no vector, a vector that cannot be fetched, or a breakpoint of a core in no
group (R392, R396). -/
def ownHalt (x : Strand) (c : Core) (f : Nat) : Bool :=
  x.st = .halted && !c.freed.getLsbD f && (x.halt.why = 5 || x.halt.why = 6 || (x.halt.why = 3 && c.cdbg.extractLsb' 32 16 = 0))

/-- A strand that stopped itself at a BRK or a HALTG while the signal of a group is still on its way to its core (R392, R395). -/
def signalled (x : Strand) (c : Core) : Bool := x.st = .halted && (x.halt.why = 3 || x.halt.why = 4) && c.sig ≠ 0

/-- Whether a strand still waits for what its PC does not say once it is released. -/
def Wait.onlyReplay : Wait → Bool | .atomic | .spawn _ => true | _ => false

/-- Resume a strand in the state it had (R392, R203): one released into a wait issues its waiting instruction again, and one released
into `idle` has abandoned its task. -/
def State.resume (s : State) (t : Nat) : State :=
  let x := s.strand t
  if x.st ≠ .halted then s
  else if x.halt.prior = .idle then
    ((s.dropTag t).modStrand t fun x =>
      { x with st := .idle, wait := .none, fbuf := [], task := { Task.none with path := x.task.path } }).reap (s.partOf t)
  else
    (s.modStrand t fun x =>
      { x with st := x.halt.prior, again := (x.halt.prior = .parked || x.halt.prior = .blocked) && !x.wait.onlyReplay }).joinWait t

/-- Resume the halted strands of a list that nothing holds any more. -/
def resumeAll (s : State) (ts : List Nat) : State :=
  ts.foldl (fun s t =>
    let x := s.strand t
    let c := s.core (coreOf t)
    if s.coreHalted (coreOf t) || ownHalt x c (frameOf t) || signalled x c then s else s.resume t) s

/-- Release the gang stop of a partition (R392, R405). -/
def State.gangRelease (s : State) (p : Nat) : State :=
  let s := s.modPart p fun x => { x with gang := none, quiet := false, pcwin := x.pcwin &&& ~~~1#64 }
  let s := (maskDies (s.mask p)).foldl (fun s d => s.modDie d fun x => { x with held := false }) s
  resumeAll s (s.strandsOf p)

/-- Signal a group: the signal is on its way to every core of the partition whose `grp` holds it (R395). Log 49 (DEDUCED). -/
def State.groupStop (s : State) (p : Nat) (g : Nat) : State :=
  ((s.touchedCores p).filter fun c => (s.core c).cdbg.getLsbD (32 + g)).foldl (fun s c =>
    s.modCore c fun x => { x with sig := x.sig ||| (1#16 <<< g) }) s

/-- The signal of a group reaches a core: it halts, and one already halted is held by the group too (R395). Log 49 (DEDUCED). -/
def State.groupHalt (s : State) (c : Nat) (g : Nat) : State :=
  let s := s.modCore c fun x => { x with grps := x.grps ||| (1#16 <<< g), sig := x.sig &&& ~~~(1#16 <<< g) }
  haltAll s 2 ((List.range 16).map (· + c * 16))

/-- Release a group. The release of a halt for want of a vector, where a master has stored the PC, and of a breakpoint of a core in no
group stands even while something else holds the core (R392, R394). -/
def State.groupRelease (s : State) (p : Nat) (g : Nat) : State :=
  let cs := s.touchedCores p
  let s := cs.foldl (fun s c => s.modCore c fun x => { x with grps := x.grps &&& ~~~(1#16 <<< g), sig := x.sig &&& ~~~(1#16 <<< g) }) s
  let ts := cs.flatMap fun c => (List.range 16).map (· + c * 16)
  let s := ts.foldl (fun s t =>
    let c := s.core (coreOf t)
    let x := s.strand t
    if ownHalt x c (frameOf t) && (x.halt.why = 3 || c.stored.getLsbD (frameOf t)) then
      s.modCore (coreOf t) fun c =>
        { c with stored := c.stored &&& ~~~(1#16 <<< frameOf t), freed := c.freed ||| (1#16 <<< frameOf t) }
    else s) s
  resumeAll s ts

/-- Every byte of a die's local memories, pools and macros (R10, R261). -/
def clearDieMem (m : List Host.Cell) (d : Nat) : List Host.Cell := Memory.clear m (meshBase + d * 2 ^ 34) (2 ^ 34)

/-- Clear a die that joins or leaves a partition (R261): frames, queues, cells, scoreboards, Looms and memories. `n` strands stand
on each core, halted when `held`. Controls of cores that PART does not name keep their values. -/
def State.clearDie (s : State) (d : Nat) (n : BitVec 5) (held : Option (BitVec 8)) : State :=
  let on : Nat → Bool := fun c => dieOfCore c = d
  { s with
    mem := clearDieMem s.mem d,
    strands := s.strands.filter fun x => !on (coreOf x.1),
    cores := s.cores.map fun x => if on x.1 then
        (x.1, { Core.reset with strands := BitVec.ofNat 16 (2 ^ n.toNat - 1), cspill := x.2.cspill, cfstk := x.2.cfstk,
                                cdbg := x.2.cdbg, cmtvec := x.2.cmtvec })
      else x,
    cells := s.cells.filter fun x => !on (x.1 / 4096),
    clusters := s.clusters.map fun x => if x.1 / 16 = d then (x.1, { x.2 with granted := 0, tlb := [] }) else x,
    looms := s.looms.filter fun x => x.1 / 96 ≠ d,
    cmds := s.cmds.filter fun c => !on c.core,
    issued := s.issued.filter fun c => !on c.core,
    net := s.net.filter fun m => !on (coreOf m.dest),
    dies := s.dies.set d { s.die d with
      walk := [], forge := [], templates := [], frames := n, held := held.isSome,
      hrec := match held with | some w => { HaltRec.zero with why := w, prior := .idle } | none => .zero } }

/-- Whether a core counts as halted for a change of its owner (R36, R411). -/
def State.dieHalted (s : State) (d : Nat) : Bool :=
  s.partOfDie d = 8 || (s.part (s.partOfDie d)).gang.isSome || ((List.range 768).all fun i => (s.core (d * 768 + i)).grps ≠ 0)

end Sys2Proof.Machine
end

