-- ==== Sys2Proof/Machine/Regs.lean ====
section
/-! DEFINITION. Registers as software reads and writes them: CSRs (R251), frames through kind 1 (R17 to R19), the core control block
(R22, R216, R374), the cluster controls (R50) and join cells (R20). -/

namespace Sys2Proof.Machine

/-- The frames of a core in a state, one bit each. -/
def State.frameBits (s : State) (core : Nat) (f : Strand → Bool) : BitVec 16 :=
  BitVec.ofNat 16 ((List.range 16).foldl (fun a i => if f (s.strand (core * 16 + i)) then a + 2 ^ i else a) 0)

/-- A strand's state as others see it: halted, or its own. -/
def Strand.stateWord (x : Strand) : Word := (x.st.code.setWidth 64) ||| (x.level.setWidth 64 <<< 3)

/-! ## CSRs kept with the strand -/

/-- Read and write levels of a CSR (R251); none: not assigned; a write level of none: read-only. -/
def csrLevels (n : BitVec 12) : Option (Nat × Option Nat) :=
  let n := n.toNat
  if n ≤ 4 ∨ n = 8 then some (0, none)
  else if n = 0x10 ∨ n = 0x20 ∨ (0x30 ≤ n ∧ n ≤ 0x33) ∨ (0x40 ≤ n ∧ n ≤ 0x47) ∨ n = 0x50 ∨ n = 0x72 ∨ n = 0xA0 then some (0, some 0)
  else if (0x60 ≤ n ∧ n ≤ 0x67) ∨ (0x80 ≤ n ∧ n ≤ 0x8F) ∨ (0x101 ≤ n ∧ n ≤ 0x104) then some (0, some 1)
  else if n = 0x70 ∨ n = 0x71 ∨ n = 0x240 then some (0, some 2)
  else if n = 0x100 ∨ n = 0x105 ∨ n = 0x106 ∨ n = 0x108 ∨ n = 0x109 then some (1, some 1)
  else if n = 0x210 ∨ n = 0x211 ∨ n = 0x220 ∨ (0x230 ≤ n ∧ n ≤ 0x236) then some (2, some 2)
  else if n = 0x221 then some (2, none)
  else none

/-- Whether a CSR is kept by the partition (R251). -/
def partKept (n : BitVec 12) : Bool :=
  let n := n.toNat
  (0x70 ≤ n && n ≤ 0x72) || (0x80 ≤ n && n ≤ 0x8F) || n = 0x108 || n = 0x109 || (0x210 ≤ n && n ≤ 0x240)

/-- Masks of the strand CSRs whose rule is only which bits hold (R373, R139, R163, R368). -/
def vecMask : Word := 0x00FFFFFFFFFFFFFC
def wmwinMask : Word := 0xFFF7FFF800000000

/-- A plain write of a strand CSR under its field rules: the new registers, or none where the rule refuses the value
(R102, R300, R346, R254, R373). WMWIN is checked beside. -/
def StrandCsrs.write (c : StrandCsrs) (n : Nat) (v : Word) : Option StrandCsrs :=
  match n with
  | 0x10 => let rm := (v.extractLsb' 11 3).toNat
            if rm = 0 ∨ rm ≥ 6 then none else some { c with fctl := v &&& 0x3FFF }
  | 0x20 => if v &&& 0xF = 0 then none else some { c with lwrr := v &&& 0xF }
  | 0x50 => let insns := (v.extractLsb' 0 17).toNat
            if v.extractLsb' 32 21 = 0 ∨ insns < 2 ∨ insns > 0x10000 then none else some { c with fbudget := v &&& 0x001FFFFF0001FFFF }
  | 0xA0 => some { c with atvec := v &&& vecMask }
  | 0x100 => some { c with tvec := v &&& vecMask }
  | 0x101 => some { c with tcause := v &&& 0x80000000000000FF }
  | 0x102 => some { c with tval := v }
  | 0x103 => some { c with tpc := v }
  | 0x104 => if tsPlev v = 3 then none else some { c with tstat := v &&& 0x33 }
  | 0x105 => some { c with tdeleg := v &&& 0x3FFFFE }
  | 0x106 => some { c with tscratch := v }
  | n =>
    if h : 0x30 ≤ n ∧ n ≤ 0x33 then some { c with wmwin := c.wmwin.set (n - 0x30) (v &&& wmwinMask) (by omega) }
    else if h : 0x40 ≤ n ∧ n ≤ 0x47 then some { c with atol := c.atol.set (n - 0x40) (v &&& 0xFFFFFFFF) (by omega) }
    else if h : 0x60 ≤ n ∧ n ≤ 0x67 then some { c with sealk := c.sealk.set (n - 0x60) (v &&& 0xFFFFFFFF) (by omega) }
    else some c

def StrandCsrs.read (c : StrandCsrs) (n : Nat) : Word :=
  match n with
  | 0x10 => c.fctl | 0x20 => c.lwrr | 0x50 => c.fbudget | 0xA0 => c.atvec | 0x100 => c.tvec | 0x101 => c.tcause
  | 0x102 => c.tval | 0x103 => c.tpc | 0x104 => c.tstat | 0x105 => c.tdeleg | 0x106 => c.tscratch
  | n =>
    if 0x30 ≤ n ∧ n ≤ 0x33 then c.wmwin.toList.getD (n - 0x30) 0
    else if 0x40 ≤ n ∧ n ≤ 0x47 then c.atol.toList.getD (n - 0x40) 0
    else if 0x60 ≤ n ∧ n ≤ 0x67 then c.sealk.toList.getD (n - 0x60) 0
    else 0

/-- The latest copy of a strand accepted on a channel and not completed: its sequence number (R139). -/
def State.latestCopy (s : State) (t chan : Nat) : Option (BitVec 16) :=
  (s.cmds.reverse.find? fun c => c.by_ = t && match c.op with | .copy ch _ _ _ _ _ _ => ch = chan | _ => false).map
    fun c => BitVec.ofNat 16 c.seq

/-- The value WMWIN takes from a write, or none where its rule refuses it (R139). -/
def State.wmwinValue (s : State) (t : Nat) (v : Word) : Option Word :=
  let engine := (v.extractLsb' 58 5).toNat
  let chan := engine * 64 + (v.extractLsb' 52 6).toNat
  if !inMask (s.mask (s.partOf t)) (engine / 4) then none
  else if v.getLsbD 51 then
    match s.latestCopy t chan with
    | some q => some ((v &&& 0xFFF0000000000000) ||| (q.setWidth 64 <<< 35))
    | none => some (v &&& 0x7FF7FFF800000000)
  else if (v.extractLsb' 35 16 - (s.chan chan).next).toNat < 2 ^ 15 then none
  else some (v &&& wmwinMask)

/-- A `csrwr` of a strand CSR, made at a level: the new state, or the trap (R18, R248). -/
def State.strandCsrWrite (s : State) (t : Nat) (n : BitVec 12) (v : Word) : Option State :=
  let x := s.strand t
  if 0x30 ≤ n.toNat ∧ n.toNat ≤ 0x33 then
    match s.wmwinValue t v with
    | none => none
    | some w => (x.csr.write n.toNat w).map fun c => s.setStrand t { x with csr := c }
  else (x.csr.write n.toNat v).map fun c => s.setStrand t { x with csr := c }

/-! ## CSRs kept with the partition -/

/-- Whether a partition may change its mode: no task but the issuer's runs, none is queued and no command is in flight
(R168, R240, R412). Log 66 (DEDUCED). -/
def State.quietFor (s : State) (p : Nat) (issuer : Option Nat) : Bool :=
  (s.strandsOf p).all (fun t =>
    some t = issuer || match (s.strand t).st with
      | .free | .idle => true
      | .halted => (s.strand t).halt.prior = .idle
      | _ => false)
  && (s.touchedCores p).all (fun c => (s.core c).queues.toList.all (·.isEmpty))
  && s.cmds.all (fun c => c.part ≠ p) && s.issued.all (fun c => c.part ≠ p)
  && s.net.all (fun m => s.partOf m.dest ≠ p || match m.body with | .record _ => false | _ => true)

/-- Whether len bytes from a pa lie in one range of R51. -/
def offRange (pa len : Nat) : Bool := pa + len ≤ 0x3000000000 || (0x10000000000 ≤ pa && pa + len ≤ 0x20000000000)

/-- Value of a partition CSR (R251). -/
def Part.csr (x : Part) (n : Nat) : Word :=
  match n with
  | 0x70 => (BitVec.ofNat 64 ((List.range 16).foldl (fun a i => if x.dcount.toList.getD i 0 ≠ 0 then a + 2 ^ i else a) 0) <<< 48) ||| bit x.dmode
  | 0x71 => x.dsalt
  | 0x108 => (BitVec.ofNat 64 (min x.parkq.length 0xFFFF) <<< 32) ||| bit (x.parkq.any (·.todo))
  | 0x109 => x.aflag.setWidth 64
  | 0x210 => x.rtbase | 0x211 => x.rtlim | 0x220 => x.tierctl
  | 0x221 => (x.swaps.setWidth 64 <<< 32) ||| (x.deferred.setWidth 64 <<< 16) ||| (BitVec.ofNat 64 x.victims.length <<< 8) ||| bit x.swap.isSome
  | 0x230 => x.ptroot | 0x231 => x.ptreg | 0x232 => x.sfreg | 0x233 => x.shreg | 0x234 => x.ctbase | 0x235 => x.skreg
  | 0x236 => x.fcreg | 0x240 => x.alevel
  | n => if 0x80 ≤ n ∧ n ≤ 0x8F then
      (BitVec.ofNat 64 (n - 0x80) <<< 56) ||| ((x.dcount.toList.getD (n - 0x80) 0).setWidth 64 <<< 32) ||| (x.dpc.toList.getD (n - 0x80) 0).setWidth 64
    else 0

/-- The mask of base and size fields of R68 and R141. -/
def regionMask : Word := 0xFFFF0FFFFF000000
def regionOk (v : Word) : Bool :=
  let size := (v.extractLsb' 48 16).toNat * 2 ^ 24
  size = 0 || offRange ((v.extractLsb' 24 20).toNat * 2 ^ 24) size

/-- A write of a partition CSR: the new partition, or none where the register's rule refuses the value (R24, R55, R68, R141,
R149, R155, R157, R159, R168, R174, R240, R346). `quiet` is whether R168 and R240 allow a change of mode. The seal-key
region is held to R51 by a write of `SKREG` alone: whether a write of `PTREG` that lengthens it is refused too R159 does not say. Log 68
(DEDUCED). Log 92 (DESIGN CHOICE). -/
def Part.csrWrite (x : Part) (n : Nat) (v : Word) (quiet : Bool) : Option Part :=
  match n with
  | 0x70 => if quiet then some { x with dmode := v.getLsbD 0 } else none
  | 0x71 => if quiet then some { x with dsalt := v, rootOrd := 0 } else none
  | 0x72 => some x
  | 0x108 => some (if v.getLsbD 0 then { x with parkq := x.parkq.map fun e => { e with todo := true } } else x)
  | 0x109 => some { x with aflag := x.aflag &&& ~~~(v.extractLsb' 0 5) }
  | 0x210 =>
    let b := (v.extractLsb' 0 56).toNat
    let ok := b ≥ meshBase && b % 0x10000 = 0 &&
      match meshRegion b, meshRegion (b + 0x400FF) with
      | .pool c _, .pool c' _ => c = c' && inMask x.mask (c / 16)
      | _, _ => false
    if ok then some { x with rtbase := BitVec.ofNat 64 b } else none
  | 0x211 => if (v.extractLsb' 0 17).toNat > 65536 then none else some { x with rtlim := v &&& 0x1FFFF }
  | 0x220 =>
    if (v.extractLsb' 32 16).toNat ≥ (v.extractLsb' 48 16).toNat then none
    else
      let y := { x with tierctl := v &&& 0xFFFFFFFFFFFFFF01 }
      some (if v.getLsbD 0 && !x.tierctl.getLsbD 0 then { y with swaps := 0, deferred := 0 } else y)
  | 0x230 =>
    let r := v &&& 0x00000FFFFFFFC000
    if x.ptreg.extractLsb' 48 16 = 0 || inRegion x.ptreg r.toNat 0x4000 then some { x with ptroot := r } else none
  | 0x231 =>
    let r := v &&& regionMask
    if v.extractLsb' 48 16 = 0 || (regionOk r && inRegion r x.ptroot.toNat 0x4000) then some { x with ptreg := r } else none
  | 0x232 => if regionOk v then some { x with sfreg := v &&& regionMask } else none
  | 0x233 => if regionOk v && x.shadows.isEmpty then some { x with shreg := v &&& regionMask } else none
  | 0x234 => some { x with ctbase := v &&& 0x00FFFFFFFFFF0000 }
  | 0x235 =>
    let r := v &&& 0x00000FFFFFC00000
    let len := (x.ptreg.extractLsb' 48 16).toNat * 2 ^ 22
    if len = 0 || offRange r.toNat len then some { x with skreg := r } else none
  | 0x236 =>
    let size := (v.extractLsb' 60 4).toNat * 2 ^ 24
    let base := (v.extractLsb' 24 32).toNat * 2 ^ 24
    let ok := size ≤ 4 * 2 ^ 24 && !(x.handles.any fun h => h.2.held)
      && (size = 0 || (base / 2 ^ 27 = (base + size - 1) / 2 ^ 27 && base ≥ 0x40000 && base + size ≤ meshBase))
    if ok then some { x with fcreg := v &&& 0xF0FFFFFFFF000000 } else none
  | 0x240 =>
    let run := (v.extractLsb' 4 4).toNat
    if run = 1 && quiet then some { x with alevel := 0x11 } else none
  | n => if h : 0x80 ≤ n ∧ n ≤ 0x8F then
      some { x with dcount := x.dcount.set (n - 0x80) 0 (by omega), dpc := x.dpc.set (n - 0x80) 0 (by omega) }
    else some x

/-! ## Join cells and frames as memory (R17, R20) -/

/-- An 8-byte word of a join cell (R20). -/
def Cell.word (c : Cell) (off : Nat) : Word :=
  match off / 8 with
  | 0 => (bit c.parked <<< 35) ||| (bit c.failed <<< 34) ||| (bit c.reinit <<< 33) ||| (bit c.ordered <<< 32) ||| c.count.setWidth 64
  | 1 => c.code
  | 2 => c.frame
  | _ => (BitVec.ofNat 64 c.arrivals.length <<< 32) ||| c.initial.setWidth 64

/-- Entries a queue register holds; q6 shows up to eight words of the firing (R220). -/
def Strand.entries (x : Strand) (n : Nat) : List Word := x.q.toList.getD n []

/-- An aligned 8-byte word of a frame, its queue-state word apart (R17). -/
def Strand.frameWord (x : Strand) (off : Nat) : Word :=
  if off < 0x100 then x.rs (BitVec.ofNat 5 (off / 8))
  else if off < 0x140 then x.rk (BitVec.ofNat 3 ((off - 0x100) / 8))
  else if off < 0x180 then (x.weave.toList.getD ((off - 0x140) / 8) 0).setWidth 64
  else if off < 0x200 then
    match off with
    | 0x180 => x.pc
    | 0x188 => x.stateWord
    | 0x198 => (x.partner.getD 0).setWidth 64 ||| (bit x.paired <<< 16)
    | 0x1A0 => x.task.path
    | 0x1A8 => (x.task.seq.setWidth 64 <<< 48) ||| (x.task.cw.setWidth 64 <<< 16) ||| ((x.task.handler.getD 0).setWidth 64 <<< 3)
               ||| (bit x.task.handler.isSome <<< 2) ||| x.task.prio.setWidth 64
    | 0x1B0 => x.task.ordinal
    | 0x1B8 => (bit x.tag.isSome <<< 12) ||| (x.tag.getD 0).setWidth 64
    | 0x1C0 => x.tagRet.getD 0
    | 0x1C8 => bit x.irq.isSome <<< 1
    | 0x1D0 => x.sent
    | 0x1D8 => x.rcvd
    | 0x1E0 => x.rank.setWidth 64
    | _ => 0
  else if off < 0x400 then ((x.rb (BitVec.ofNat 4 ((off - 0x200) / 32))).toNat / 2 ^ (8 * ((off - 0x200) % 32)) : Nat) |> BitVec.ofNat 64
  else if off < 0x600 then
    let n := (off - 0x400) / 64
    let e := (off - 0x400) % 64 / 8
    (x.entries n).getD e (x.qmem.get 0 (n * 8 + e))
  else if off < 0x6F8 then
    match off with
    | 0x600 => x.csr.fctl | 0x608 => x.csr.lwrr | 0x670 => x.csr.fbudget
    | 0x6B8 => x.csr.tvec | 0x6C0 => x.csr.tcause | 0x6C8 => x.csr.tval | 0x6D0 => x.csr.tpc | 0x6D8 => x.csr.tstat
    | 0x6E0 => x.csr.tdeleg | 0x6E8 => x.csr.tscratch | 0x6F0 => x.csr.atvec
    | off =>
      if off < 0x630 then x.csr.read (0x30 + (off - 0x610) / 8)
      else if off < 0x670 then x.csr.read (0x40 + (off - 0x630) / 8)
      else x.csr.read (0x60 + (off - 0x678) / 8)
  else if off < 0x800 then 0
  else BitVec.ofNat 64 ((x.rv (BitVec.ofNat 5 ((off - 0x800) / 64))).toNat / 2 ^ (8 * ((off - 0x800) % 64)))

/-- The strand place that holds a rank by the table, if the rank names one (R25, R27). -/
def State.rankPlace (s : State) (p : Nat) (rk : BitVec 16) : Option Nat :=
  if rk.toNat ≥ (s.part p).rtlim.toNat then none
  else
    let e := s.rankEntry p rk
    if s.entryLive p e then some (entryPlace e) else none

/-- The strand of a partition whose task has a role. -/
def State.roleAt (s : State) (p : Nat) (r : Role) : Option Nat := (s.strandsOf p).find? fun t => (s.strand t).task.role = r

/-- Change a tile of an Assay launch. -/
def State.modTile (s : State) (p launch tile : Nat) (f : Tile → Tile) : State :=
  s.modPart p fun x => { x with assays := x.assays.map fun a =>
    if a.id = launch then { a with tiles := a.tiles.zipIdx.map fun (y, i) => if i = tile then f y else y } else a }

/-- The tile of an Assay launch. -/
def Part.tile? (x : Part) (l i : Nat) : Option Tile := (x.assays.find? fun a => a.id = l).bind fun a => a.tiles[i]?

/-- The pairing of a surrogate or check task with the other of its tile (R370): the launch, the tile and the other's number. Log 37
(DEDUCED). -/
def Strand.tilePair (x : Strand) : Option (Nat × Nat × Nat) :=
  match x.task.role with
  | .tile l i w => if w ≤ 1 && x.paired then some (l, i, 1 - w) else none
  | _ => none

/-- The strand a strand's queues are paired with: the other task of its tile, or by the rank it named. -/
def State.partnerOf (s : State) (t : Nat) : Option Nat :=
  let x := s.strand t
  let byRank := x.partner.bind (s.rankPlace (s.partOf t))
  match x.tilePair with
  | none => byRank
  | some (l, i, w) =>
    match s.roleAt (s.partOf t) (.tile l i w) with
    | some u => if x.partner.isNone || x.partner = some (s.strand u).rank then some u else byRank
    | none => byRank

/-- The entries a task of a tile has written for the other, which has not started: none when they go to a strand. Log 37 (DEDUCED). -/
def State.heldFor (s : State) (t : Nat) : Option (Nat × Nat × List (BitVec 3 × Word)) :=
  let x := s.strand t
  match x.tilePair with
  | some (l, i, w) =>
    match (s.part (s.partOf t)).tile? l i with
    | some y => if x.partner.isNone && (s.roleAt (s.partOf t) (.tile l i w)).isNone && !(if w = 0 then y.sDone else y.cDone) then some (l, i, y.hold) else none
    | none => none
  | none => none

/-- Entries on their way from a strand to queue n of another. -/
def State.entriesInFlight (s : State) (sender : Nat) (n : BitVec 3) : Nat :=
  (s.net.filter fun m => m.sender = sender && match m.body with | .entry k _ => k = n | _ => false).length

/-- Entries a queue register holds: for q0 to q2 those of the partner's queue with those in flight (R295). -/
def State.queueCount (s : State) (t : Nat) (n : BitVec 3) : Nat :=
  let x := s.strand t
  if n.toNat ≥ 6 then (x.entries n.toNat).length
  else if !x.paired then 0
  else if n.toNat ≥ 3 then (x.entries n.toNat).length
  else match s.heldFor t with
    | some (_, _, l) => l.countP fun e => e.1 = n + 3
    | none => match s.partnerOf t with
      | some u => ((s.strand u).q.get (n + 3).toFin).length + s.entriesInFlight t (n + 3)
      | none => 0

/-- The occupancy of a queue register: for q0 to q2 what counts against a write of theirs, else the entries the frame holds, whether or
not the strand is paired (R17, R18, R295). -/
def State.occupancy (s : State) (t n : Nat) : Nat :=
  if n < 3 then s.queueCount t (BitVec.ofNat 3 n) else ((s.strand t).entries n).length

/-- The queue-state word of a frame (R17). -/
def State.queueState (s : State) (t : Nat) : Word :=
  BitVec.ofNat 64 ((List.range 8).foldl (fun a n => a + s.occupancy t n % 16 * 2 ^ (8 * n)) 0)

/-- An aligned 8-byte word of a frame as a load reads it (R17). -/
def State.frameRead (s : State) (t off : Nat) : Word := if off = 0x190 then s.queueState t else (s.strand t).frameWord off

/-- The CSR at a frame offset from 0x600 to 0x6F0 (R17). -/
def frameCsr (off : Nat) : Option (BitVec 12) :=
  if off < 0x600 ∨ off > 0x6F0 then none
  else some <| match off with
    | 0x600 => 0x10 | 0x608 => 0x20 | 0x670 => 0x50
    | 0x6B8 => 0x100 | 0x6C0 => 0x101 | 0x6C8 => 0x102 | 0x6D0 => 0x103 | 0x6D8 => 0x104 | 0x6E0 => 0x105 | 0x6E8 => 0x106
    | 0x6F0 => 0xA0
    | off =>
      if off < 0x630 then BitVec.ofNat 12 (0x30 + (off - 0x610) / 8)
      else if off < 0x670 then BitVec.ofNat 12 (0x40 + (off - 0x630) / 8)
      else BitVec.ofNat 12 (0x60 + (off - 0x678) / 8)

/-- Replace 8 bytes of a wide value. -/
def spliceWord (whole at_ : Nat) (v : Word) : Nat :=
  whole - (whole / 2 ^ (8 * at_) % 2 ^ 64) * 2 ^ (8 * at_) + v.toNat * 2 ^ (8 * at_)

/-- The state a stored code names (R203). -/
def SState.ofCode (c : Nat) : SState :=
  match c with | 0 => .free | 1 => .idle | 2 => .ready | 3 => .blocked | 4 => .parked | 5 => .halted | _ => .moving

/-- A store to the state word of a frame (R203): refused, or performed. Log 71 (DEDUCED). -/
def State.storeState (s : State) (t : Nat) (v : Word) : Option State :=
  let x := s.strand t
  let code := (v.extractLsb' 0 3).toNat
  let lvl := v.extractLsb' 3 2
  if lvl = 3 then none
  else if x.st = .free then some (s.setStrand t { x with level := lvl })
  else if code = 0 ∨ code ≥ 6 then none
  else if code = 5 then some (s.setStrand t { x with level := lvl })
  else
    -- a wait that the strand was halted in stands while it is to resume in that state
    let w := if x.halt.prior = .ofCode code || x.wait.onlyReplay then x.wait else .none
    some (s.setStrand t { x with level := lvl, halt := { x.halt with prior := .ofCode code }, wait := w })

/-- The occupancies a store to the queue-state word gives q3, q4, q5 and q7 (R18). -/
def Strand.setOccupancy (x : Strand) (v : Word) : Option Strand :=
  let occ := fun n => (v.extractLsb' (8 * n) 4).toNat
  if [3, 4, 5, 7].any fun n => occ n > 8 then none
  else
    let slot := fun n e => (x.entries n).getD e (x.qmem.get 0 (n * 8 + e))
    let q' := fun n => (List.range (occ n)).map (slot n)
    -- entries above the new occupancy stay in the frame's slots
    let kept := [3, 4, 5, 7].foldl (fun (m : SMap Word) n => (List.range 8).foldl (fun m e => m.set (n * 8 + e) (slot n e)) m) x.qmem
    some { x with qmem := kept, q := (((x.q.set 3 (q' 3)).set 4 (q' 4)).set 5 (q' 5)).set 7 (q' 7) }

/-- A store that a rule refuses without naming a value: cause 0x05 with the address (R239). Log 72 (DEDUCED). -/
def refuseAt (a : Nat) : Except Trap State := .error ⟨0x05, BitVec.ofNat 64 a⟩
/-- The mesh address of an offset in a frame (R16). -/
def frameAddr (t off : Nat) : Nat := coreAddr (coreOf t) (0x100000 + frameOf t * 0x1000 + off)
/-- The mesh address of an offset in a core's control block (R13). -/
def ctlAddr (core off : Nat) : Nat := coreAddr core (0x280000 + off)
/-- The mesh address of an offset in a cluster's controls (R13). -/
def ctlClusterAddr (cl off : Nat) : Nat := clusterAddr cl (0x38000000 + off)

/-- A kind-1 store of an aligned 8-byte word at a level: the new state, or the cause it is refused with (R17 to R19, R66).
Log 16 (DEDUCED). Log 60 (DEDUCED). -/
def State.frameStore (s : State) (t off : Nat) (v : Word) (lvl : BitVec 2) : Except Trap State :=
  let x := s.strand t
  let open_ := x.st = .free ∨ x.st = .halted
  -- a register that a later load is to write takes that load's value all the same
  let put : Strand → Except Trap State := fun y => .ok (s.setStrand t { y with tags := x.tags })
  if off < 0x100 then put (x.ws (BitVec.ofNat 5 (off / 8)) v)
  else if off < 0x140 then put (x.wk (BitVec.ofNat 3 ((off - 0x100) / 8)) v)
  else if h : off < 0x180 then .ok (s.setStrand t { x with weave := x.weave.set ((off - 0x140) / 8) (v.extractLsb' 0 3) (by omega) })
  else if off < 0x200 then
    if !open_ || (0x1A0 ≤ off && off < 0x1E8) then refuseAt (frameAddr t off)
    else match off with
      | 0x180 =>
        -- a spawn that still stalls completes without passing the new PC, and no other wait is left of the old one
        let w : Wait := match x.wait with | .spawn _ => .spawn 0 | .atomic => .atomic | _ => .none
        let s := s.setStrand t { x with pc := v, fbuf := [], vecFetch := false, wait := w }
        .ok (if lvl = 2 then s.modCore (coreOf t) fun c => { c with stored := c.stored ||| (1#16 <<< frameOf t) } else s)
      | 0x188 => match s.storeState t v with | some s => .ok s | none => refuseAt (frameAddr t off)
      | 0x190 => match x.setOccupancy v with | some x => .ok (s.setStrand t x) | none => refuseAt (frameAddr t off)
      | 0x198 => .ok (s.setStrand t { x with partner := if v.extractLsb' 0 17 = 0 then none else some (v.extractLsb' 0 16), paired := v.getLsbD 16 })
      | _ => .ok s
  else if off < 0x400 then
    let r := BitVec.ofNat 4 ((off - 0x200) / 32)
    put (x.wb r (BitVec.ofNat 256 (spliceWord (x.rb r).toNat ((off - 0x200) % 32) v)))
  else if off < 0x600 then
    if !open_ then refuseAt (frameAddr t off)
    else
      let n := (off - 0x400) / 64
      let e := (off - 0x400) % 64 / 8
      if hn : n < 8 ∧ e < (x.q.toList.getD n []).length then
        .ok (s.setStrand t { x with q := x.q.set n ((x.q.toList.getD n []).set e v) hn.1 })
      else .ok (s.setStrand t { x with qmem := x.qmem.set (n * 8 + e) v })
  else match frameCsr off with
    | some n =>
      match csrLevels n with
      | some (_, some w) =>
        if lvl.toNat < w then .error ⟨0x02, BitVec.ofNat 64 (frameAddr t off)⟩
        else match s.strandCsrWrite t n v with | some s => .ok s | none => .error ⟨0x05, v⟩
      | _ => .ok s
    | none =>
      if off < 0x800 then .ok s
      else
        let r := BitVec.ofNat 5 ((off - 0x800) / 64)
        -- a dead register reads zero until the strand itself writes it (R65)
        if x.dead.getLsbD r.toNat then .ok s
        else put (x.wv r (BitVec.ofNat 512 (spliceWord (x.rv r).toNat ((off - 0x800) % 64) v)))

/-! ## The core control block (R22, R216, R374, R391) -/

/-- The halt record of a frame, as words (R391). Log 71 (DEDUCED). -/
def Strand.haltWord (x : Strand) (i : Nat) : Word :=
  if x.st = .free then 0
  else match i with
    | 0 => x.halt.hpc
    | 1 => (x.halt.why.setWidth 64 <<< 8) ||| (x.halt.lvl.setWidth 64 <<< 3) ||| x.halt.prior.code.setWidth 64
    | 2 => x.halt.sent
    | _ => x.halt.rcvd

def sat16 (n : Nat) : Nat := min n 0xFFFF

/-- An aligned 8-byte word of a core's control block. -/
def State.ctlWord (s : State) (core off : Nat) : Word :=
  let c := s.core core
  let p := s.partOfCore core
  match off with
  | 0x000 => BitVec.ofNat 64 (dieOfCore core * 2 ^ 10 + clusterInDie core * 2 ^ 6 + coreInCluster core)
  | 0x008 => c.stage.setWidth 64
  | 0x010 => if p = 8 then 0 else BitVec.ofNat 64 (8 + p)
  | 0x100 => (c.strands.setWidth 64 <<< 32) ||| ((s.frameBits core (·.resident)).setWidth 64 <<< 16)
             ||| (s.frameBits core fun x => x.st = .idle).setWidth 64
  | 0x108 => BitVec.ofNat 64 ((List.range 4).foldl (fun a i => a + sat16 (c.queues.toList.getD i []).length * 2 ^ (16 * i)) 0)
  | 0x110 => c.cspill
  | 0x118 => (bit c.gateReq <<< 8) ||| c.gate.setWidth 64
  | 0x200 => c.cdbg
  | 0x208 => c.cmtvec
  | 0x210 => (c.grps.setWidth 64 <<< 16) ||| (bit (p ≠ 8 && (s.part p).quiet) <<< 2) ||| (bit (p ≠ 8 && (s.part p).gang.isSome) <<< 1)
             ||| bit (s.coreHalted core)
  | _ =>
    if 0x180 ≤ off ∧ off < 0x200 then c.cfstk.toList.getD ((off - 0x180) / 8) 0
    else if 0x400 ≤ off ∧ off < 0x600 then (s.strand (core * 16 + (off - 0x400) / 32)).haltWord ((off - 0x400) % 32 / 8)
    else 0

/-- Whether a granule of a cluster's pool is reserved: the bit set of a granted granule takes effect when that is released (R49). -/
def Cluster.reserved (c : Cluster) (g : Nat) : Bool := c.rsv.getLsbD g && !c.granted.getLsbD g

/-- Whether a mesh base names a reserved granule of a cluster (R216, R379). -/
def State.reservedGranule (s : State) (cl : Nat) (base : Word) : Bool :=
  match meshRegion base.toNat with
  | .pool c off => c = cl && (s.cluster cl).reserved (off / 0x10000) && off % 0x10000 = 0
  | _ => false

/-- Whether the device may not use a frame yet: it forwards what reaches it, or a strand that moves is to take it (R30). -/
def State.frameTaken (s : State) (t : Nat) : Bool :=
  (s.strand t).fwd.isSome || s.strands.any fun x => x.2.st = .moving && x.2.fwd = some t

/-- A frame whose bit in `CSCHED.strands` is set holds an idle strand once the device may use it (R204, R30). -/
def State.makeStrand (s : State) (t : Nat) : State :=
  let x := s.strand t
  if (s.core (coreOf t)).strands.getLsbD (frameOf t) && x.st = .free && !s.frameTaken t then s.setStrand t { x with st := .idle } else s

/-- Set which frames of a core hold a strand (R204): a cleared frame becomes free, at apprentice level, and a set one idle at the level
it holds. -/
def State.setStrands (s : State) (core : Nat) (m : BitVec 16) : State :=
  let s := s.modCore core fun c => { c with strands := m }
  (List.range 16).foldl (fun s f =>
    let t := core * 16 + f
    let x := s.strand t
    if m.getLsbD f then s.makeStrand t
    else if x.st = .free then s
    else s.setStrand t { x with st := .free, level := 0, wait := .none, again := false, resident := false }) s

/-- A master store into a core's control block: the new state, or the cause it is not performed with. Log 16 (DEDUCED). -/
def State.ctlStore (s : State) (core off : Nat) (v : Word) : Except Trap State :=
  let c := s.core core
  match off with
  | 0x008 => if s.coreHalted core then .ok (s.setCore core { c with stage := v.extractLsb' 0 6 }) else refuseAt (ctlAddr core off)
  | 0x018 => .ok (if v.getLsbD 0 then s.setCore core { c with ni := [] } else s)
  | 0x100 => if s.coreHalted core then .ok (s.setStrands core (v.extractLsb' 32 16)) else refuseAt (ctlAddr core off)
  | 0x110 =>
    let w := v &&& 0x00FFFFFFFFFF0001
    let spilled := c.spilled ≠ 0 || (s.payloadOf core).any (·.slot.isSome)
    if (w.getLsbD 0 && !s.reservedGranule (clusterOf core) (w &&& ~~~1)) || (w ≠ c.cspill && spilled) then refuseAt (ctlAddr core off)
    else .ok (s.setCore core { c with cspill := w })
  | 0x200 => .ok (s.setCore core { c with cdbg := v &&& 0x0000FFFF00000001 })
  | 0x208 => .ok (s.setCore core { c with cmtvec := v &&& vecMask })
  | _ =>
    if h : 0x180 ≤ off ∧ off < 0x200 then
      .ok (s.setCore core { c with cfstk := c.cfstk.set ((off - 0x180) / 8) (v &&& 0x00FFFFFFFFFFFFFF) (by omega) })
    else .ok s

/-! ## The cluster controls (R50) -/

/-- The longest run of free, unreserved granules, and their number. -/
def Cluster.freeRuns (c : Cluster) : Nat × Nat :=
  let r := (List.range 256).foldl (fun (a : Nat × Nat × Nat) g =>
    if (c.granted ||| c.rsv).getLsbD g then (a.1, a.2.1, 0) else (max a.1 (a.2.2 + 1), a.2.1 + 1, a.2.2 + 1)) (0, 0, 0)
  (r.1, r.2.1)

/-- Fields of a launch packet (R224). -/
def pkt (p : BitVec 512) (off bits : Nat) : Word := BitVec.ofNat 64 (p.toNat / 2 ^ off % 2 ^ bits)
/-- The cores a packet names within a partition, in ascending order (R224). -/
def packetCores (p : BitVec 512) : List Nat :=
  (List.range 8).flatMap fun d => if (pkt p (0x28 * 8) 8).getLsbD d then
    (List.range 16).flatMap fun cl => if (pkt p (0x20 * 8 + 48) 16).getLsbD cl then
      (List.range 48).filterMap fun c => if (pkt p (0x20 * 8) 48).getLsbD c then some (d * 768 + cl * 48 + c) else none
    else []
  else []
/-- The clusters a packet names. -/
def packetClusters (p : BitVec 512) : List Nat :=
  (List.range 128).filter fun cl => (pkt p (0x28 * 8) 8).getLsbD (cl / 16) && (pkt p (0x20 * 8 + 48) 16).getLsbD (cl % 16)

/-- An aligned 8-byte word of a cluster's controls. -/
def State.clusterWord (s : State) (cl off : Nat) : Word :=
  let c := s.cluster cl
  let p := s.partOfDie (cl / 16)
  let lead := p ≠ 8 && s.lead p = cl
  match off with
  | 0x000 => BitVec.ofNat 64 (c.freeRuns.1 * 2 ^ 16 + c.freeRuns.2)
  | 0x008 => BitVec.ofNat 64 (min 255 ((s.part p).launches.filter fun l => (packetClusters l.packet).contains cl).length)
  | 0x200 => c.sacfg
  | 0x300 => if lead then c.fqcfg else 0
  | 0x308 => if lead then c.fqdoor else 0
  | 0x310 => c.clspill
  | 0x320 => BitVec.ofNat 64 ((List.range 16).foldl (fun a g =>
      if (s.touchedCores p).any fun k => (s.core k).grps.getLsbD g then a + 2 ^ g else a) 0)
  | 0x330 => if lead then c.rpcfg else 0
  | 0x338 => c.cecnt.setWidth 64
  | _ =>
    if 0x20 ≤ off ∧ off < 0x40 then c.rsv.extractLsb' (8 * (off - 0x20)) 64
    else if 0x40 ≤ off ∧ off < 0x60 then c.granted.extractLsb' (8 * (off - 0x40)) 64
    else match gatewayPort cl with
      | none => 0
      | some n =>
        let x := s.slport n
        match off with
        | 0x400 => (x.peer.setWidth 64 <<< 32) ||| x.cell.setWidth 64
        | 0x408 => (x.lanes.setWidth 64 <<< 1) ||| bit x.up
        | 0x410 => x.rxr
        | 0x418 => x.txr
        | 0x420 => x.cons.setWidth 64
        | 0x430 => bit x.en
        | _ => 0

/-- Whether the fault queue as configured holds an entry (R379). -/
def State.fqHolds (s : State) (cl : Nat) : Bool :=
  let f := (s.cluster cl).fqcfg
  let a := (f.extractLsb' 16 40).toNat * 0x10000
  f.getLsbD 0 && Memory.readN s.mem a 8 ≠ Memory.readN s.mem (a + 8) 8

/-- The route of a ring record of a partition, at master level (R421). -/
def State.ringRoute (s : State) (p : Nat) (va : Word) : Route := s.route ⟨p, s.lead p * 48, 2, []⟩ .load va 32 0
/-- Whether a ring record lies on a page in transit (R59). -/
def State.ringWaits (s : State) (p : Nat) (va : Word) : Bool := match s.ringRoute p va with | .wait => true | _ => false
/-- A ring record, and what reading it does beside (R54, R68); none where the access would fault. -/
def State.readRing (s : State) (p : Nat) (va : Word) : Option (State × BRec) :=
  match s.ringRoute p va with
  | .ok a _ =>
    let s := match a.pte with | some e => { s with ptePend := s.ptePend ++ [(p, e)] } | none => s
    let s := if a.name = AName.translated && inRegion (s.part p).ptreg a.key 32 then s.dcause p 15 0 else s
    some (s, BitVec.ofNat 256 (Memory.readN s.mem a.key 32))
  | _ => none

/-- The link blocks a ring record covers, if it is translated, block-scaled and whole (R421): its extent over 64 bytes. -/
def ringBlocks (r : BRec) : Option Nat :=
  let fmt := (r.extractLsb' 184 5).toNat
  let ext := (r.extractLsb' 56 32).toNat
  if r.extractLsb' 201 2 = 0 ∧ 16 ≤ fmt ∧ fmt ≤ 21 ∧ ext % 64 = 0 ∧ ext ≠ 0 then some (ext / 64) else none

/-- A record about a Slodun port in the partition fault queue (R421). Log 25 (DESIGN CHOICE). -/
def State.slodunRecord (s : State) (p n : Nat) (inner : BitVec 8) (addr : Word) : State :=
  s.report { celled := false, parked := false, src := 3, inner := inner, cause := 0x14, pc := 0, addr := addr, part := p, rank := 0,
             cw := 0, info := BitVec.ofNat 64 n }

/-- Enabling a port reads and checks its ring records (R421). Log 58 (DEDUCED). -/
def State.slodunEnable (s : State) (p n : Nat) : State :=
  let x := s.slport n
  match s.readRing p x.rxr with
  | none => s.slodunRecord p n 0x08 x.rxr
  | some (s, rx) => match s.readRing p x.txr with
  | none => s.slodunRecord p n 0x08 x.rxr
  | some (s, tx) =>
    match ringBlocks rx, ringBlocks tx with
    | some a, some b =>
      s.modPort n fun x => { x with en := true, rx := rx, tx := tx, rxn := a, txn := b, rxNext := 0, txNext := 0, acked := 0, ready := [], out := [] }
    | _, _ => s.slodunRecord p n 0x08 x.rxr

/-- SLTXD (R421): transmit slot b is ready; one that lies a ring or more ahead of the last acknowledged block is ignored and
reported. -/
def State.slodunReady (s : State) (p n : Nat) (b : BitVec 32) : State :=
  let x := s.slport n
  if (b - x.acked).toNat ≥ x.txn then s.slodunRecord p n 0 (b.setWidth 64)
  else s.modPort n fun x => { x with ready := if x.ready.contains b then x.ready else x.ready ++ [b] }

/-- A store into the controls of a Slodun port (R420, R421). -/
def State.slodunStore (s : State) (p n off : Nat) (v : Word) : State :=
  match off with
  | 0x400 => s.modPort n fun x => { x with cell := v.extractLsb' 0 12 }
  | 0x410 => s.modPort n fun x => { x with rxr := v &&& 0x00FFFFFFFFFFFFE0 }
  | 0x418 => s.modPort n fun x => { x with txr := v &&& 0x00FFFFFFFFFFFFE0 }
  | 0x420 => s.modPort n fun x => { x with cons := v.extractLsb' 0 32 }
  | 0x428 => if (s.slport n).en then s.slodunReady p n (v.extractLsb' 0 32) else s
  | 0x430 =>
    if !v.getLsbD 0 then s.modPort n fun x => { x with en := false }
    else if (s.slport n).en then s else s.slodunEnable p n
  | _ => s

/-- A store into a cluster's controls, its level checked: the new state, or the cause it is not performed with (R50, R355, R379,
R385, R394, R398). Log 16 (DEDUCED). -/
def State.clusterStore (s : State) (cl off : Nat) (v : Word) : Except Trap State :=
  let c := s.cluster cl
  let p := s.partOfDie (cl / 16)
  let lead := p ≠ 8 && s.lead p = cl
  match off with
  | 0x200 =>
    let g0 := (v.extractLsb' 0 8).toNat
    let busy := s.cmds.any fun k => clusterOf k.core = cl && match k.op with | .topk _ _ _ _ _ _ _ _ => true | _ => false
    if busy || g0 > 252 || (v.getLsbD 8 && (!([g0, g0 + 1, g0 + 2, g0 + 3].all c.reserved))) then refuseAt (ctlClusterAddr cl off)
    else .ok (s.modCluster cl fun c => { c with sacfg := v &&& 0x1FF })
  | 0x300 =>
    if !lead then .ok s
    else
      let w := v &&& 0x00FFFFFFFFFF0001
      if (w.getLsbD 0 && !s.reservedGranule cl (w &&& ~~~1)) || s.fqHolds cl then refuseAt (ctlClusterAddr cl off)
      else .ok (s.modCluster cl fun c => { c with fqcfg := w })
  | 0x308 =>
    if !lead then .ok s
    else if v.extractLsb' 30 34 ≠ 0 || (v ≠ 0 && !cwValid v) then .error ⟨0x0B, v⟩
    else .ok (s.modCluster cl fun c => { c with fqdoor := v })
  | 0x310 =>
    let w := v &&& 0x00000FFFFE000001
    if !offRange ((w.extractLsb' 25 19).toNat * 2 ^ 25) (2 ^ 25) then refuseAt (ctlClusterAddr cl off)
    else .ok (s.modCluster cl fun c => { c with clspill := w })
  | 0x320 =>
    let s := (List.range 16).foldl (fun s g => if v.getLsbD g then s.groupStop p g else s) s
    .ok ((List.range 16).foldl (fun s g => if v.getLsbD (16 + g) then s.groupRelease p g else s) s)
  | 0x330 => refuseAt (ctlClusterAddr cl off)
  | _ =>
    if 0x20 ≤ off ∧ off < 0x40 then
      let i := 8 * (off - 0x20)
      .ok (s.modCluster cl fun c => { c with rsv := BitVec.ofNat 256 (spliceWord c.rsv.toNat (i / 8) v) })
    else match gatewayPort cl with
      | some n => .ok (s.slodunStore p n off v)
      | none => .ok s

/-! ## Homes of every kind -/

/-- An aligned 8-byte word at a home that is not plain memory. -/
def State.regWord (s : State) (a : Nat) : Option Word :=
  match meshRegion a with
  | .frame t off => some (s.frameRead t off)
  | .cell c j off => some ((s.cell c j).word off)
  | .ctl c off => some (s.ctlWord c off)
  | .clusterCtl cl off => some (s.clusterWord cl off)
  | _ => none

/-- size bytes at a home (R113). -/
def State.homeRead (s : State) (key size : Nat) : Word :=
  if key < meshBase then BitVec.ofNat 64 (Memory.readN s.mem key size)
  else match s.regWord key with
    | some w => w
    | none => BitVec.ofNat 64 (Memory.readN s.mem key size)

end Sys2Proof.Machine
end

