-- ==== Sys2Proof/Machine/Operands.lean ====
section
/-! DEFINITION. Operand forms: signed readings of register fields, lanes of vector registers (R263), buffer records (R82 to R86),
the unit of a buffer access (R286) and pieces of wide accesses (R127, R128). -/

namespace Sys2Proof.Machine

/-- Sign-extended displacement or immediate. -/
def sx16 (i : BitVec 16) : Word := i.signExtend 64
/-- A register value as a signed offset. -/
def sxW (w : Word) : Int := w.toInt

/-! ## Lanes -/

/-- Lane i of a vector register, lanes of w bits. -/
def lane (v : VReg) (w i : Nat) : Nat := v.toNat / 2 ^ (w * i) % 2 ^ w
/-- A vector register from a function of its lanes. -/
def lanesOf (w n : Nat) (f : Nat → Nat) : VReg :=
  BitVec.ofNat 512 ((List.range n).foldr (fun i a => f i % 2 ^ w + 2 ^ w * a) 0)
/-- A vector register from the list of its lanes. -/
def lanesList (w : Nat) (l : List Nat) : VReg := BitVec.ofNat 512 (l.foldr (fun x a => x % 2 ^ w + 2 ^ w * a) 0)

/-! ## Buffer records (R82) -/

namespace Rec
def base (r : BRec) : Word := (r.extractLsb' 0 56).setWidth 64
def extent (r : BRec) : Nat := (r.extractLsb' 56 32).toNat
def stride0 (r : BRec) : Int := (r.extractLsb' 88 32).toInt
def stride1 (r : BRec) : Int := (r.extractLsb' 120 32).toInt
def dim0 (r : BRec) : Nat := (r.extractLsb' 152 16).toNat
def dim1 (r : BRec) : Nat := (r.extractLsb' 168 16).toNat
def fmt (r : BRec) : Nat := (r.extractLsb' 184 5).toNat
def bounds (r : BRec) : Nat := (r.extractLsb' 192 3).toNat
def cache (r : BRec) : Nat := (r.extractLsb' 195 3).toNat
def scope (r : BRec) : Nat := (r.extractLsb' 198 3).toNat
def space (r : BRec) : Nat := (r.extractLsb' 201 2).toNat
def skey (r : BRec) : BitVec 32 := r.extractLsb' 224 32
/-- First bit, width and signedness of the fields BRSETF and BRGETF name (R237, R294). -/
def field (sel : BitVec 5) : Option (Nat × Nat × Bool) :=
  match sel.toNat with
  | 0 => some (0, 56, false) | 1 => some (56, 32, false) | 2 => some (88, 32, true) | 3 => some (120, 32, true)
  | 4 => some (152, 16, false) | 5 => some (168, 16, false) | 6 => some (184, 5, false) | 7 => some (192, 3, false)
  | 8 => some (195, 3, false) | 9 => some (198, 3, false) | 10 => some (201, 2, false) | 11 => some (224, 32, false)
  | _ => none
end Rec

/-- A refusal of the record itself (R85). -/
def recRefused (r : BRec) (spread : Bool) : Bool :=
  r.extractLsb' 203 21 ≠ 0 || r.extractLsb' 189 3 ≠ 0 || (24 ≤ Rec.fmt r && Rec.fmt r ≤ 30) || Rec.cache r ≥ 4
  || Rec.scope r ≥ 5 || Rec.bounds r ≥ 4 || (Rec.space r = 3 && !spread)

/-- How a unit meets the extent (R84). -/
inductive Bound where
  | hit (o : Nat)
  | dropped
  | fault
  deriving DecidableEq, Repr

/-- bound of R84. -/
def bound (r : BRec) (o : Int) (e : Nat) : Bound :=
  let x := Rec.extent r
  if 0 ≤ o ∧ o + e ≤ x then .hit o.toNat
  else match Rec.bounds r with
    | 1 => if x < e then .fault else .hit (min (max o 0).toNat ((x - e) / e * e))
    | 2 => .dropped
    | 3 => if x < e ∨ x % e ≠ 0 then .fault else .hit (o % (x : Int)).toNat
    | _ => .fault

/-- Whether an address lies in the region the record's `space` names (R85). -/
def inSpace (r : BRec) (va : Word) : Bool :=
  match Rec.space r with
  | 0 => vaRegion va = .translated
  | 1 => vaRegion va = .alias_
  | 2 => vaRegion va = .mesh
  | _ => 0x30000 ≤ va.toNat && va.toNat < 0x40000

/-- Where the address range of a record first leaves the region its `space` names (R85), as an offset from its base. -/
def recLeaves (r : BRec) : Option Nat :=
  let end_ := match Rec.space r with | 0 => 2 ^ 55 | 1 => 0x40000 | _ => 2 ^ 56
  if Rec.extent r = 0 then none
  else if !inSpace r (Rec.base r) then some 0
  else if (Rec.base r).toNat + Rec.extent r ≤ end_ then none else some (end_ - (Rec.base r).toNat)

/-- The checks of R85 on a record that an instruction uses as a range of addresses (R342, R370). The lowest offset decides. Log 32
(DEDUCED). -/
def rangeRefused (r : BRec) : Option Trap :=
  if recRefused r false then some ⟨0x08, Rec.base r⟩ else (recLeaves r).map fun o => ⟨0x07, BitVec.ofNat 64 o⟩

/-- Offset of element (x0, x1) (R83). -/
def recOffset (r : BRec) (x0 x1 : Nat) : Int := x0 * Rec.stride0 r + x1 * Rec.stride1 r

def shKeyOf (p : Nat) (r : BRec) : ShKey :=
  ⟨p, r.extractLsb' 201 2, r.extractLsb' 0 56, r.extractLsb' 56 32⟩

/-- The open shadow a record names (R142, R143). -/
def State.shadowOf (s : State) (p : Nat) (k : ShKey) : Option Shadow := (s.part p).shadows.find? fun h => h.key = k

/-- pa of the scale byte of the block at an address (R72, R98); none when its frame lies beyond `SFREG`. -/
def State.scalePa (s : State) (p : Nat) (e : TlbEntry) (va : Nat) : Option Nat :=
  let u := unitBytes (Pte.fmt e.lo).toNat
  let reg := (s.part p).sfreg
  let base := (reg.extractLsb' 24 20).toNat * 2 ^ 24
  let off := Pte.sfi e.hi * 0x1000 + (va - e.va) / u
  if off < (reg.extractLsb' 48 16).toNat * 2 ^ 24 then some (base + off) else none

/-- Whether a format does not fit a class and a unit (R235, R286). -/
def classBad (code cls u : Nat) : Bool :=
  if cls = 5 then sizeClass code ≠ 5 || unitBytes code ≠ u else sizeClass code ≠ cls

/-- How the check of one unit ends (R286): its parts, with bit positions from 0, then its scale byte at bit 512 for class 5; its
effective format and its translation. -/
inductive UnitR where
  | ok (ps : List Part1) (eff : Nat) (e : Option TlbEntry)
  | dropped
  | invalid (t : Trap)
  | fault (t : Trap)
  | wait
  deriving DecidableEq, Repr

/-- Cut a part into naturally aligned parts of at most 8 bytes (R127). -/
def cut8 (p : Part1) : List Part1 :=
  if p.size ≤ 8 then [p]
  else (List.range (p.size / 8)).map fun i =>
    { p with key := p.key + 8 * i, va := p.va + BitVec.ofNat 64 (8 * i), size := 8, pos := p.pos + 64 * i }

/-- One unit of a buffer access within its bound: at offset o of a record (R286). A block whose scale meets a transfer error on the side
band carries another sequence number than its scale, which shows before any byte is performed (R98). -/
def State.unitAt (s : State) (c : Ctx) (r : BRec) (o u cls : Nat) (acc : Acc) : UnitR :=
  let f := Rec.fmt r
  let va := Rec.base r + BitVec.ofNat 64 o
  if !inSpace r va then .fault ⟨0x07, BitVec.ofNat 64 o⟩
  else if va.toNat % u ≠ 0 then .fault ⟨if cls = 5 then 0x09 else 0x03, va⟩
  else match s.route c acc va u (if acc = .store then Rec.skey r else 0) with
  | .wait => .wait
  | .invalid t => .invalid t
  | .fault t => .fault t
  | .ok p none => if f = 31 || cls = 5 then .fault ⟨0x08, va⟩ else .ok (cut8 p) f none
  | .ok p (some e) =>
    let pf := (Pte.fmt e.lo).toNat
    if f = 31 && classBad pf cls u then .fault ⟨0x08, va⟩
    else if 16 ≤ f && f ≤ 21 && f ≠ pf then .fault ⟨0x08, va⟩
    else
      let eff := if f = 31 then pf else f
      if cls = 5 then
        match s.scalePa c.p e va.toNat with
        | none => .fault ⟨0x08, va⟩
        | some a =>
          if s.slip then .fault ⟨0x09, va⟩
          else .ok (cut8 p ++ [{ p with key := a, size := 1, pos := 512, pte := none }]) eff (some e)
      else .ok (cut8 p) eff (some e)

/-- One unit of a buffer access through a record that R85 accepts (R286). The offset is the one formed, before its bound. -/
def State.bmUnit (s : State) (c : Ctx) (r : BRec) (o : Int) (u cls : Nat) (acc : Acc) : UnitR :=
  let f := Rec.fmt r
  if f ≠ 31 && classBad f cls u then .fault ⟨0x08, Rec.base r + BitVec.ofInt 64 o⟩
  else match bound r o u with
  | .fault => .fault ⟨0x07, BitVec.ofInt 64 o⟩
  | .dropped => .dropped
  | .hit o => s.unitAt c r o u cls acc

/-- The page that holds a record's `base`, translated as a load of the issuer (R235, R150). -/
def State.basePage (s : State) (c : Ctx) (r : BRec) : Route := s.route c .load (Rec.base r) 1 0

/-- Effective format of a record for the zero codes of dropped units (R84): for 31 that of the page holding `base`, as R235 and R287 say for
blocks. For the other classes no rule names the page; the model takes the same one, and code 0x00 where it does not translate. Log 94
(DEDUCED). -/
def State.zeroFmt (s : State) (c : Ctx) (r : BRec) : Nat :=
  if Rec.fmt r ≠ 31 then Rec.fmt r
  else match s.basePage c r with
    | .ok _ (some e) => (Pte.fmt e.lo).toNat
    | _ => 0

/-- n bytes that are all a byte, as a number. -/
def fillBytes (b : Nat) : Nat → Nat
  | 0 => 0
  | n + 1 => b + 256 * fillBytes b n

/-- Merge neighbouring parts that lie in one naturally aligned 8-byte unit (R127). -/
def mergeParts : List Part1 → List Part1
  | [] => []
  | p :: ps =>
    match mergeParts ps with
    | [] => [p]
    | q :: qs =>
      if q.key = p.key + p.size ∧ q.va = p.va + BitVec.ofNat 64 p.size ∧ q.va.toNat / 8 = p.va.toNat / 8 ∧ q.pos = p.pos + 8 * p.size
         ∧ q.name = p.name ∧ q.kind = p.kind ∧ q.cached = p.cached ∧ q.thru = p.thru then { p with size := p.size + q.size } :: qs
      else p :: q :: qs

end Sys2Proof.Machine
end

