-- ==== Sys2Proof/Machine/Access.lean ====
section
/-! DEFINITION. The ordering machine at work (R112 to R132): what an access waits for, how its value is fixed, how stores move from
the outboxes and the loop-back port to the core copy and the home, the single step of an atomic, and when fences are complete. -/

namespace Sys2Proof.Machine

/-! ## The core copy by lines (R40, R41) -/

def lineAt (a : Nat) : Nat := a / 64 * 64
def Core.line (c : Core) (a : Nat) : Option Line := (c.lines.find? fun l => l.1 = lineAt a).map (·.2)
def Line.byte (l : Line) (a : Nat) : Byte := l.data.extractLsb' (8 * (a % 64)) 8
/-- Write a byte of a line, dirty or clean. -/
def Line.setByte (l : Line) (a : Nat) (b : Byte) (dirty : Bool) : Line :=
  let k := 8 * (a % 64)
  { l with
    data := (l.data &&& ~~~(0xFF#512 <<< k)) ||| (b.setWidth 512 <<< k),
    dirty := if dirty then l.dirty ||| (1#64 <<< (a % 64)) else l.dirty &&& ~~~(1#64 <<< (a % 64)) }
def Line.setBytes (l : Line) (a : Nat) (dirty : Bool) : Nat → Word → Line
  | 0, _ => l
  | n + 1, v => (l.setByte a (v.setWidth 8) dirty).setBytes (a + 1) dirty n (v >>> 8)

/-- Count a line request of a page (R54); the increment reaches the entry by a step of its own. Log 45 (DEDUCED). -/
def State.countLine (s : State) (p : Nat) : Option Nat → State
  | some pte => { s with ptePend := s.ptePend ++ [(p, pte)] }
  | none => s

/-- Write back and remove the lines of a core that a test picks. -/
def State.dropLines (s : State) (core : Nat) (f : Nat × Line → Bool) : State :=
  let c := s.core core
  let mine := c.lines.filter f
  if mine.isEmpty then s else (s.writeLines core mine).setCore core { c with lines := c.lines.filter fun l => !f l }

/-- Write back and remove the lines of a page that a core holds (R43); one whose write-back a swap holds stays until its own (R60). -/
def State.dropPage (s : State) (core page : Nat) : State := s.dropLines core fun l => l.2.page = page && !s.lineHeld core l

/-- Whether a write-back of a page's lines is held (R60). -/
def State.pageHeld (s : State) (core page : Nat) : Bool := (s.core core).lines.any fun l => l.2.page = page && s.lineHeld core l

/-- Remove entries from a core TLB (R43). Log 53 (DEDUCED). -/
def State.tlbDrop (s : State) (core : Nat) (f : TlbEntry → Bool) : State :=
  let gone := (s.core core).tlb.filter f
  if gone.isEmpty then s
  else gone.foldl (fun s e => s.dropPage core (Pte.frame e.lo)) (s.modCore core fun c => { c with tlb := c.tlb.filter fun e => !f e })

/-- Enter a leaf in a core TLB of 32 entries; when it is full the oldest whose lines may be written back leaves (R73). Log 53 (DEDUCED). -/
def State.tlbAdd (s : State) (core : Nat) (e : TlbEntry) : State :=
  if (s.core core).tlb.contains e then s
  else
    let s := match (s.core core).tlb.reverse.find? fun e => !s.pageHeld core (Pte.frame e.lo) with
      | some old => if (s.core core).tlb.length ≥ 32 then s.tlbDrop core (· = old) else s
      | none => s
    s.modCore core fun c => { c with tlb := e :: c.tlb }

/-- An access that a cached translation refuses discards it at both levels, whether a fresh walk then permits the access or not, and so
does one that pointer entries of the walk cache lead to no leaf (R77). -/
def State.discard (s : State) (c : Ctx) (acc : Acc) (va : Nat) : State :=
  let d := s.walkHome c.p va
  let lost := (match s.cached c.p c.core va with | some e => !permits e acc c.lvl | none => true)
    && (s.die d).walk.any (fun e => e.part = c.p && e.index = walkIndex va e.level)
    && (s.walkVia c.p va (s.die d).walk 4 1 (s.part c.p).ptroot.toNat []).isNone
  let s := if lost then s.modDie d fun x => x.unwalk c.p va else s
  let gone : TlbEntry → Bool := fun e => e.covers c.p va && !permits e acc c.lvl
  let s := s.tlbDrop c.core gone
  if (s.cluster (clusterOf c.core)).tlb.any gone then
    s.modCluster (clusterOf c.core) fun x => { x with tlb := x.tlb.filter fun e => !gone e }
  else s

/-- The same for an access at any address: only those of the translated region have a translation (R7). -/
def State.discardAt (s : State) (c : Ctx) (acc : Acc) (va : Word) : State :=
  if vaRegion va = .translated then s.discard c acc va.toNat else s

/-- The translations that parts of an access were refused by are discarded (R77). -/
def State.discardParts (s : State) (c : Ctx) (acc : Acc) (ps : List Part1) : State :=
  ps.foldl (fun s a => if a.name = AName.translated then s.discard c acc a.va.toNat else s) s

/-- A trap of an access; a translation fault discards the translation that refused it (R77). -/
def State.raiseAccess (s : State) (acc : Acc) (t : Trap) : Out1 :=
  (if t.cause = acc.cause then s.discard (s.ctx s.cur) acc t.val.toNat else s).raise t

/-- The entry under which a core may hold the line of an access: a cached one, or a fresh walk's (R43, R73). -/
def State.tlbFor (s : State) (p core : Nat) (a : Part1) : Option TlbEntry :=
  let e := match s.cached p core a.va.toNat with
    | some e => some e
    | none => match s.walk p a.va.toNat with
      | .ok e => some e
      | _ => none
  e.bind fun e => if e.pa a.va.toNat = a.key then some e else none

/-- The set of a line: bits [11:6] of its home address. R41 gives the number of sets and no index: a choice of the model's. Log 86 (DESIGN
CHOICE). -/
def setOf (home : Nat) : Nat := home / 64 % 64

/-- Make room for a line in its set of eight ways (R41). Which line leaves changes timing only, and WRITE_BACK and DROP may take any
other before; here it is the lowest whose write-back is not held. -/
def State.makeWay (s : State) (core home : Nat) : State :=
  let ways := (s.core core).lines.filter fun l => setOf l.1 = setOf home
  if ways.length < 8 then s
  else match ways.find? fun l => !s.lineHeld core l with
    | some l => s.dropLines core fun x => x.1 = l.1
    | none => s

/-- Make the line of an access present in the core copy, filled from the home if it was absent (R117 fill). -/
def State.fillFor (s : State) (p core : Nat) (a : Part1) (e : TlbEntry) : State :=
  let s := s.tlbAdd core e
  match (s.core core).line a.key with
  | some _ => s
  | none =>
    let s := s.makeWay core a.key
    let l : Line := { data := BitVec.ofNat 512 (Memory.readN s.mem (lineAt a.key) 64), dirty := 0, page := Pte.frame e.lo, pte := a.pte,
                      rc := a.kind = .rc }
    (s.modCore core fun c => { c with lines := c.lines.set (lineAt a.key) l }).countLine p a.pte

/-! ## Locations (R114) -/

/-- The number of the location of a part's first byte under its name. -/
def Part1.loc (a : Part1) : Nat := if a.name = .mesh then a.va.toNat else a.key
/-- Whether two parts share a location. -/
def Part1.meets (a b : Part1) : Bool := a.name = b.name && a.loc < b.loc + b.size && b.loc < a.loc + a.size
/-- Whether two parts of one access lie on one page, or in one untranslated region (R127, R128), both of data or both scale bytes (R99). -/
def Part1.samePage (a b : Part1) : Bool :=
  a.name = b.name && decide (a.pos < 512) = decide (b.pos < 512) && (a.name ≠ AName.translated || a.va.toNat / 2 ^ 16 = b.va.toNat / 2 ^ 16
    || (a.large && b.large && a.va.toNat / 2 ^ 26 = b.va.toNat / 2 ^ 26))

/-- The local offset of a part in the local memory of a core, by either name. -/
def localOffset (core : Nat) (a : Part1) : Option Nat :=
  match a.name with
  | .alias_ => some a.va.toNat
  | .mesh => match meshRegion a.va.toNat with | .local_ c o => if c = core then some o else none | _ => none
  | .translated => none

/-- An access through kind 0 of the issuing core's own slot uses the loop-back port (R129). -/
def ownPort (core : Nat) (a : Part1) : Bool := a.name = .mesh && (localOffset core a).isSome

/-- Homes that are registers: frames, cells, control blocks and cluster controls. -/
def special (a : Part1) : Bool :=
  a.name = .mesh && match meshRegion a.va.toNat with | .frame _ _ | .cell _ _ _ | .ctl _ _ | .clusterCtl _ _ => true | _ => false

/-- The core whose slot a physical-map part lies in (R13). -/
def Part1.slotCore (a : Part1) : Option Nat :=
  if a.name ≠ AName.mesh then none
  else match meshRegion a.va.toNat with
    | .local_ c _ | .cell c _ _ | .ctl c _ => some c
    | .frame t _ => some (coreOf t)
    | .staging o _ => some (o / 6 * 48 + o % 6 * 8)
    | _ => none

/-- A part reaches the slot it lies in (R228). -/
def State.reach (s : State) (a : Part1) : State := match a.slotCore with | some c => s.reached c | none => s
/-- Whether a part's slot is that of a gated or waking core, whose cluster NI holds the access (R228). -/
def State.sleeps (s : State) (a : Part1) : Bool := match a.slotCore with | some c => s.asleep c | none => false
/-- Parts that stand at a cluster NI make a gated core wake (R228): none when all of them wake already. -/
def State.rouse (s : State) (ps : List Part1) : Option State :=
  if ps.any fun a => match a.slotCore with | some c => (s.core c).gate = 2 | none => false
  then some ((ps.filter s.sleeps).foldl (fun s a => s.reach a) s) else none
/-- A stall at parts that a gated or waking core has yet to take (R228). -/
def State.stallAt (s : State) (ps : List Part1) : Out1 := .next ((s.rouse ps).getD s)

/-- The home of a part now: a staging address names the set that is staging when the access is performed (R23). -/
def State.keyOf (s : State) (a : Part1) : Nat := if a.name = .mesh then s.homeOf a.va.toNat else a.key

/-- The register a frame offset holds, if it holds one whose value may not be known yet (R17). -/
def frameReg (off : Nat) : Option RegName :=
  if off < 0x100 then some (.s (BitVec.ofNat 5 (off / 8)))
  else if off < 0x140 then some (.k (BitVec.ofNat 3 ((off - 0x100) / 8)))
  else if 0x200 ≤ off ∧ off < 0x400 then some (.b (BitVec.ofNat 4 ((off - 0x200) / 32)))
  else if 0x800 ≤ off then some (.v (BitVec.ofNat 5 ((off - 0x800) / 64)))
  else none

/-- Whether a part of the access of a number names a register of a frame whose value an access issued before it has yet to bring (R113). -/
def State.frameUnknown (s : State) (id : Nat) (a : Part1) : Bool :=
  a.name = .mesh && match meshRegion a.va.toNat with
    | .frame t off => match frameReg off with
      | some r => (s.strand t).tags.any fun e => e.1 = r && e.2 < id
      | none => false
    | _ => false

/-! ## Registers whose values are on their way (R113, R116) -/

/-- The registers a load writes. -/
def Dst.regs : Dst → List RegName
  | .sreg d _ _ => [.s d]
  | .vreg d => [.v d]
  | .vblk d k _ => [.v d, .k k]
  | .brec d => [.b d]

/-- s0 and k0 take no value (R17). -/
def RegName.real (r : RegName) : Bool := r ≠ .s 0 && r ≠ .k 0

/-- Registers take their values from a number. -/
def Strand.tagged (x : Strand) (rs : List RegName) (id : Nat) : Strand :=
  { x with tags := (rs.filter (·.real)).map (·, id) ++ x.tags.filter fun e => !rs.contains e.1 }

/-- What data of an instruction is not known: registers with the bits they stand at. -/
def Strand.needs (x : Strand) (rs : List (RegName × Nat)) : List Need :=
  rs.filterMap fun r => (x.tags.find? fun e => e.1 = r.1).map fun e => ⟨r.1, e.2, r.2⟩

/-- The value of a register, as wide as the widest. -/
def Strand.regValue (x : Strand) : RegName → VReg
  | .s r => (x.rs r).setWidth 512
  | .k r => (x.rk r).setWidth 512
  | .v r => x.rv r
  | .b r => (x.rb r).setWidth 512

/-- Copy a register of one strand to another. -/
def Strand.copyReg (x z : Strand) : RegName → Strand
  | .s r => x.ws r (z.rs r)
  | .k r => x.wk r (z.rk r)
  | .v r => let y := x.wv r (z.v.get r.toFin)
            if z.dead.getLsbD r.toNat then { y with dead := y.dead ||| (1#32 <<< r.toNat) } else y
  | .b r => x.wb r (z.rb r)

/-- The bits of a register's width. -/
def RegName.width : RegName → Nat
  | .s _ | .k _ => 64
  | .v _ => 512
  | .b _ => 256

/-- Data with the bits of unknown registers clear. -/
def clearNeeds (data : BitVec 576) (need : List Need) : BitVec 576 :=
  need.foldl (fun g n => g &&& ~~~(BitVec.ofNat 576 ((2 ^ n.reg.width - 1) * 2 ^ n.pos))) data

/-- A store or an atomic learns data it waited for. -/
def Pend.learn (q : Pend) (id : Nat) (r : RegName) (v : VReg) : Pend :=
  let (mine, rest) := q.need.partition fun n => n.tag = id && n.reg = r
  if mine.isEmpty then q
  else
    { q with
      need := rest,
      got := mine.foldl (fun g n => g ||| (v.setWidth 576 <<< n.pos)) q.got,
      atom := q.atom.map fun a => mine.foldl (fun (a : AtomReq) n =>
        if n.pos = 0 then { a with x := v.setWidth 64 } else { a with expect := v.setWidth 64 }) a }

/-- A waiting instruction learns a register. -/
def Held.learn (h : Held) (id : Nat) (r : RegName) (v : VReg) : Held :=
  if !h.need.contains (r, id) then h
  else
    let h := { h with need := h.need.filter (· ≠ (r, id)) }
    match r with
    | .s d => { h with s := h.s.set d.toNat (v.setWidth 64) d.isLt }
    | .k d => { h with k := h.k.set d.toNat (v.setWidth 64) d.isLt }
    | .v d => { h with v := h.v.set d.toNat v d.isLt, dead := h.dead &&& ~~~(1#32 <<< d.toNat) }
    | .b d => { h with b := h.b.set d.toNat (v.setWidth 256) d.isLt }

/-- The value that number id brings to a register, standing in z: the register takes it unless a later instruction has written it, and
what waits for it learns it. -/
def Strand.produce (x z : Strand) (id : Nat) (r : RegName) : Strand :=
  let y := if x.tags.contains (r, id) then x.copyReg z r else x
  { y with pend := y.pend.map (·.learn id r (z.regValue r)), held := y.held.map (·.learn id r (z.regValue r)) }

/-! ## Watermark windows (R140) and the scoreboard (R137) -/

/-- Whether bytes of a part lie in element i of a record's walk, i from `fromI` on, under the record's space. -/
def walkMeets (r : BRec) (fromI : Nat) (a : Part1) : Bool :=
  let named := match Rec.space r with | 0 => a.name = AName.translated | 1 => a.name = .alias_ | 2 => a.name = .mesh | _ => false
  let per := if sizeClass (Rec.fmt r) = 4 then 2 else 1
  let u := unitBytes (Rec.fmt r)
  named && (List.range (Rec.dim0 r * Rec.dim1 r)).any fun w =>
    (w + 1) * per > fromI &&
      let va := (Rec.base r).toInt + recOffset r (w % Rec.dim0 r) (w / Rec.dim0 r)
      (va < a.va.toInt + a.size) && (a.va.toInt < va + u)

/-- The enabled windows of a strand. -/
def Strand.windows (x : Strand) : List Word := x.csr.wmwin.toList.filter fun w => w.getLsbD 63

/-- Whether a part lies in the range of an active window, and whether it waits there. -/
def State.windowed (s : State) (ws : List Word) (a : Part1) : Bool × Bool :=
  ws.foldl (fun (acc : Bool × Bool) w =>
      let chan := (w.extractLsb' 58 5).toNat * 64 + (w.extractLsb' 52 6).toNat
      let q := w.extractLsb' 35 16
      match s.cmds.find? fun c => match c.op with | .copy ch _ _ _ _ _ _ => ch = chan && BitVec.ofNat 16 c.seq = q | _ => false with
      | some c =>
        match c.op with
        | .copy _ _ d _ _ _ _ =>
          let ch := s.chan chan
          let wm := if ch.cur = q then ch.wm.toNat else 0
          (acc.1 || walkMeets d 0 a, acc.2 || walkMeets d wm a)
        | _ => acc
      | none => acc) (false, false)

/-- Whether local bytes overlap a scoreboard entry: any entry for a store, write entries for a load (R137). -/
def Core.boarded (c : Core) (off size : Nat) (isStore : Bool) : Bool :=
  c.board.any fun b => (isStore || b.write) && b.lo < off + size && off ≤ b.hi

/-- Whether an access to a staging window waits for an LBLD or LBSWP (R23). Log 43 (DEDUCED). -/
def State.stagingBusy (s : State) (a : Part1) : Bool :=
  a.name = .mesh && match meshRegion a.va.toNat with | .staging o _ => s.staging o | _ => false

/-! ## What a load, enter or atomic step waits for (R119, R122, R131, R137, R140, R157) -/

/-- Whether an earlier access that is not performed holds a part of a later one. A store that has not entered holds the loads of its
locations too, which could not read it by forwarding yet. -/
def Pend.holds (q : Pend) (a : Part1) : Bool :=
  q.parts.any fun b =>
    if q.parked then a.kind = .so || (a.name = AName.translated && b.va.toNat / 2 ^ 16 = a.va.toNat / 2 ^ 16)
    else b.meets a || (a.kind = .so && b.kind = .so) || (q.acq.isSome && b.kind ≠ .uo && a.kind ≠ .uo)

/-- Whether an open fence of a strand holds a part of its access of a number: one issued before it, `lbfenc` the core's local memory alone
(R119, R122, R131, R132). -/
def Strand.fenceHolds (x : Strand) (core id : Nat) (a : Part1) : Bool :=
  x.fences.any fun f => f.1 < id && match f.2 with | .lbfenc => (localOffset core a).isSome | _ => true

/-- Whether a part of the access of a number of a strand must wait, given its earlier accesses that are not performed and its windows.
Log 1 (DEDUCED). -/
def State.heldBack (s : State) (t id : Nat) (earlier : List Pend) (ws : List Word) (a : Part1) (isStore : Bool) : Bool :=
  (s.strand t).fenceHolds (coreOf t) id a
  || earlier.any (·.holds a)
  || (a.kind = .so && !isStore && (s.strand t).out.any fun o => o.at_.kind = .so)
  || (a.name = .alias_ && (s.core (coreOf t)).boarded a.va.toNat a.size isStore)
  || (s.windowed ws a).2 || s.frameUnknown id a || s.stagingBusy a

/-- Whether a part of a strand's next access must wait. -/
def State.mustWait (s : State) (t : Nat) (a : Part1) (isStore : Bool) : Bool :=
  let x := s.strand t
  s.heldBack t s.fresh x.pend x.windows a isStore

/-- Whether a part of the n-th access not yet performed must wait still. -/
def State.pendWaits (s : State) (t n : Nat) (q : Pend) (a : Part1) (isStore : Bool) : Bool :=
  s.heldBack t q.id ((s.strand t).pend.take n) q.win a isStore

/-- A part as its access uses it: never by the core copy in a window (R140). -/
def State.uncopied (s : State) (ws : List Word) (a : Part1) : Part1 := if (s.windowed ws a).1 then { a with cached := false } else a

/-! ## Loads -/

/-- The open shadow that takes a store of a strand with a shadow key: not one that has closed without the strand closing it (R143). -/
def State.shadowTakes (s : State) (t : Nat) (k : Option ShKey) : Option Shadow :=
  (k.bind fun k => s.shadowOf k.part k).filter fun h => !h.closed || h.closer = some t
/-- Whether a part of a store of a strand is one to the home: one that entered for a shadow goes home too once that shadow has ended, or
has closed without the store's strand closing it (R143). -/
def State.homeBound (s : State) (t : Nat) (a : Part1) : Bool := (s.shadowTakes t a.thru).isNone
/-- Whether a load of a part meets a store of its strand: to the same shadow, or to the home (R117, R143). -/
def State.sees (s : State) (t : Nat) (store a : Part1) : Bool := store.thru = a.thru || s.homeBound t store
/-- Bytes at a home as an access by a shadow key reads them: those the open shadow holds, else the home's (R143). -/
def State.shadowRead (s : State) (k : Option ShKey) (key n : Nat) : Nat :=
  match k.bind fun k => s.shadowOf k.part k with
  | some h => (List.range n).foldr (fun i n => (if h.bytes.has (key + i) then h.bytes.get 0 (key + i) else Memory.read s.mem (key + i)).toNat + 256 * n) 0
  | none => Memory.readN s.mem key n

/-- The byte of the youngest store of the strand to a location that has not left its outboxes (R117, R143). -/
def State.forward (s : State) (t : Nat) (a : Part1) (i : Nat) : Option Byte :=
  ((s.strand t).out.reverse.find? fun o => o.at_.name = a.name && o.at_.loc ≤ a.loc + i && a.loc + i < o.at_.loc + o.at_.size
      && s.sees t o.at_ a).map
    fun o => o.val.extractLsb' (8 * (a.loc + i - o.at_.loc)) 8

/-- Whether an entry of the port is an atomic. -/
def Strand.portAtom (x : Strand) (e : PortEntry) : Bool := e.val.isNone && x.pend.any fun q => q.id = e.id && q.atom.isSome
/-- The youngest store or atomic in the loop-back port that writes byte i of a part. -/
def State.portEntry (s : State) (t : Nat) (a : Part1) (i : Nat) : Option PortEntry :=
  (s.strand t).port.reverse.find? fun e => e.at_.name = a.name && e.at_.loc ≤ a.loc + i && a.loc + i < e.at_.loc + e.at_.size
    && ((e.val.isSome && s.sees t e.at_ a) || (s.strand t).portAtom e)
/-- Whether a load takes bytes of a part from stores in the loop-back port: an atomic there has no value to give (R117). Log 1 (DEDUCED). -/
def State.portForwards (s : State) (t : Nat) (a : Part1) : Bool :=
  (List.range a.size).any (fun i => (s.portEntry t a i).isSome)
  && (List.range a.size).all fun i => match s.portEntry t a i with | some e => e.val.isSome | none => true
/-- Whether a load of a part joins the loop-back port (R129). -/
def State.joins (s : State) (t : Nat) (a : Part1) : Bool := ownPort (coreOf t) a && !s.portForwards t a

/-- The value of byte i of a part for a load (R117, R143). -/
def State.loadByte (s : State) (t : Nat) (a : Part1) (i : Nat) : Byte :=
  let home := s.keyOf a + i
  match s.forward t a i with
  | some b => b
  | none =>
    match (s.portEntry t a i).bind fun e => e.val.map fun v => v.extractLsb' (8 * (a.loc + i - e.at_.loc)) 8 with
    | some b => b
    | none =>
      match a.thru.bind fun k => s.shadowOf k.part k with
      | some h => if h.bytes.has home then h.bytes.get 0 home else Memory.read s.mem home
      | none =>
        match (if a.cached then (s.core (coreOf t)).line home else none) with
        | some l => l.byte home
        | none => Memory.read s.mem home

/-- The bytes of a part as a number. -/
def State.loadBytes (s : State) (t : Nat) (a : Part1) (i : Nat) : Nat → Nat
  | 0 => 0
  | n + 1 => (s.loadByte t a i).toNat + 256 * s.loadBytes t a (i + 1) n

/-- The value of a part for a load. -/
def State.loadPart (s : State) (t : Nat) (a : Part1) : Nat :=
  if special a then (s.homeRead (s.keyOf a) a.size).toNat else s.loadBytes t a 0 a.size

/-- Whether a load of the part reaches the home slice: nothing nearer holds all of it (R54). -/
def State.reachesHome (s : State) (t : Nat) (a : Part1) : Bool :=
  !(a.cached && ((s.core (coreOf t)).line a.key).isSome) && !((List.range a.size).all fun i => (s.forward t a i).isSome)

/-- What is left of an access after a request of its for a line: its other parts there raise no counter again (R54). -/
def Strand.counted (x : Strand) (id home : Nat) : Strand :=
  let strip : Part1 → Part1 := fun a => if lineAt a.key = lineAt home then { a with pte := none } else a
  { x with out := x.out.map fun o => if o.id = id then { o with at_ := strip o.at_ } else o,
           pend := x.pend.map fun q => if q.id = id then { q with parts := q.parts.map strip } else q }

/-- Count the line requests of parts, one for each line (R54), and the lines counted. Log 45 (DEDUCED). -/
def State.countLines (s : State) (t : Nat) (ps : List Part1) : State × List Nat :=
  let p := s.partOf t
  let reach := ps.filter fun a => a.pte.isSome && s.reachesHome t a
  reach.foldl (fun (acc : State × List Nat) a =>
    if acc.2.contains (lineAt a.key) then acc else (acc.1.countLine p a.pte, lineAt a.key :: acc.2)) (s, [])
def State.countParts (s : State) (t : Nat) (ps : List Part1) : State := (s.countLines t ps).1

/-- Put fixed bits in their place. -/
def putBits (got : BitVec 576) (a : Part1) (v : Nat) : BitVec 576 :=
  got ||| BitVec.ofNat 576 (v % 2 ^ (8 * a.size) * 2 ^ a.pos)

/-- Bits of a load that no access brings: VLDX keeps the scale bytes above its slots (R287). -/
def Strand.kept (x : Strand) : Dst → BitVec 576
  | .vblk _ k n => BitVec.ofNat 576 ((x.rk k).toNat / 2 ^ (8 * n) * 2 ^ (8 * n) * 2 ^ 512)
  | _ => 0

/-- Write the value of a load to its destination (R281). -/
def Strand.arrive (x : Strand) (d : Dst) (got : BitVec 576) : Strand :=
  match d with
  | .sreg r bits sx =>
    x.ws r (if sx then BitVec.ofInt 64 (sxN bits (got.toNat % 2 ^ bits)) else BitVec.ofNat 64 (got.toNat % 2 ^ bits))
  | .vreg r => x.wv r (got.setWidth 512)
  | .vblk r k _ => (x.wv r (got.setWidth 512)).wk k (BitVec.ofNat 64 (got.toNat / 2 ^ 512))
  | .brec r => x.wb r (got.setWidth 256)

/-- Bring the value of an earlier load to its registers. -/
def Strand.bring (x : Strand) (id : Nat) (d : Dst) (got : BitVec 576) : Strand :=
  let z := x.arrive d got
  d.regs.foldl (fun y r => y.produce z id r) x

/-- Take the load step of a part into the bits fixed so far. -/
def State.fix (s : State) (t : Nat) (got : BitVec 576) (ps : List Part1) : BitVec 576 :=
  ps.foldl (fun g a => putBits g a (s.loadPart t a)) got

/-- What an `ldaq` does in the step of its load, on pages of every kind (R121, R42). Log 17 (DEDUCED). -/
def State.acquire (s : State) (t : Nat) (acq : Option (BitVec 3)) : State :=
  match acq with
  | some c => if c ≠ 0 then s.dropClean (coreOf t) (·.rc) else s
  | none => s

/-- The DCAUSE event of a load or an atomic of a part (R175, R59, R222, R216), for a strand or an engine. -/
def State.loadEvent (s : State) (p : Nat) (pc : Word) (a : Part1) : State :=
  if special a then
    match meshRegion a.va.toNat with
    | .cell _ _ _ => s.dcause p 0 pc
    | .ctl _ _ | .clusterCtl _ _ => s.dcause p 15 pc
    | _ => s
  else if a.name = AName.translated && inRegion (s.part p).ptreg a.key a.size then s.dcause p 15 pc
  else s

/-- The DCAUSE events of a load's or an atomic's parts (R175, R59, R222, R216). A load instruction of several single-copy parts in the
page-table region or a cell counts one event for each, a choice of the model's: R175 speaks of loads, and R127 makes each part an access
of its own. Log 79 (DESIGN CHOICE). -/
def State.loadEvents (s : State) (t : Nat) (ps : List Part1) : State :=
  ps.foldl (fun s a => (s.reach a).loadEvent (s.partOf t) (s.strand t).pc a) s

/-- An access of the executing strand, left for later steps, that waits for nothing yet. -/
def State.newPend (s : State) (ps : List Part1) : Pend :=
  { id := s.fresh, parts := ps, ported := 0, got := 0, dst := .sreg 0 0 false, acq := none, atom := none, store := none, parked := false,
    need := [], lanes := false, win := s.me.windows }

/-- Issue a load whose parts have passed their checks: at once, or left for later steps (R116, R117). `got` holds bits that need no
access; `len` the bytes of the instruction; `lanes` marks a gather. Log 1 (DEDUCED). -/
def State.load (s : State) (ps : List Part1) (got : BitVec 576) (d : Dst) (acq : Option (BitVec 3)) (len : Nat := 4)
    (lanes : Bool := false) : Out1 :=
  let t := s.cur
  if s.late && !ps.isEmpty then
    let s := (s.discardParts (s.ctx t) .load ps).loadEvents t ps
    let pd := { s.newPend ps with got := got, dst := d, acq := acq, lanes := lanes }
    .next ({ s with fresh := s.fresh + 1 }.setMe (({ s.me with pend := s.me.pend ++ [pd] }.tagged d.regs pd.id).advance len))
  else if ps.any s.sleeps then s.stallAt ps
  else if ps.any fun a => s.mustWait t a false then s.stall
  else
    let ps := ps.map (s.uncopied s.me.windows)
    let s := (s.discardParts (s.ctx t) .load ps).loadEvents t ps
    let (port, rest) := ps.partition (s.joins t)
    let got := s.fix t got rest
    let s := (s.countParts t rest).acquire t acq
    if port.isEmpty then .next (s.setMe ((s.me.arrive d got).advance len))
    else
      let pd := { s.newPend [] with ported := port.length, got := got, dst := d }
      .next ({ s with fresh := s.fresh + 1 }.setMe
        (({ s.me with pend := s.me.pend ++ [pd], port := s.me.port ++ port.map fun a => (⟨a, none, pd.id⟩ : PortEntry) }.tagged
          d.regs pd.id).advance len))

/-- Loads whose values the instruction goes on with: taken at once, or none while something holds them. -/
def State.loadNow (s : State) (ps : List Part1) : Option (State × List Nat) :=
  let t := s.cur
  let core := coreOf t
  let ps := ps.map (s.uncopied s.me.windows)
  if ps.any fun a => s.sleeps a || s.mustWait t a false || (s.joins t a
      && (s.me.port.any (fun q => q.at_.meets a) || (s.core core).boarded ((localOffset core a).getD 0) a.size false)) then none
  else
    let s := (s.discardParts (s.ctx t) .load ps).loadEvents t ps
    some (s.countParts t ps, ps.map (s.loadPart t))

/-- A load step (R117) of part j of the n-th access not yet performed. On SO pages the parts of one access that lie on one page are
taken together, and the lanes of a gather in ascending order (R127); through kind 0 of its own slot the part joins the loop-back port
(R129). -/
def State.loadStep (s : State) (t n j : Nat) : Option State :=
  let x := s.strand t
  match x.pend[n]? with
  | none => none
  | some q =>
    if q.atom.isSome || q.store.isSome then none
    else match q.parts[j]? with
      | none => none
      | some a =>
        let mine : Part1 → Bool := fun b => b = a || (a.kind = .so && !q.lanes && b.kind = .so && b.samePage a)
        let ps := q.parts.filter mine
        if (a.kind = .so && q.lanes && (q.parts.take j).any fun b => b.kind = .so) || ps.any fun b => s.pendWaits t n q b false then none
        else if ps.any s.sleeps then s.rouse ps
        else
          let ps := ps.map (s.uncopied q.win)
          let (port, now) := ps.partition (s.joins t)
          let got := s.fix t q.got now
          let q' := { q with parts := q.parts.filter fun b => !mine b, got := got, ported := q.ported + port.length }
          let (s, lines) := s.countLines t now
          let s := if q'.parts.isEmpty then s.acquire t q.acq else s
          let x := s.strand t
          let x := { x with port := x.port ++ port.map fun a => (⟨a, none, q.id⟩ : PortEntry) }
          if q'.parts.isEmpty && q'.ported = 0 then some (s.setStrand t ({ x with pend := x.pend.eraseIdx n }.bring q.id q.dst got))
          else some (s.setStrand t (lines.foldl (fun x l => x.counted q.id l) { x with pend := x.pend.set n q' }))

/-! ## Stores -/

/-- The bytes of a part in the data of its store. -/
def partData (data : BitVec 576) (a : Part1) : Word := BitVec.ofNat 64 (data.toNat / 2 ^ a.pos % 2 ^ (8 * a.size))

/-- A store into registers of a frame, a control block or the cluster controls, at a level: the new state, or what refuses it (R18, R22,
R50). Log 16 (DEDUCED). Log 72 (DEDUCED). -/
def State.specialStore (s : State) (a : Part1) (v : Word) (lvl : BitVec 2) : Except Trap State :=
  let s := s.reach a
  match meshRegion a.va.toNat with
  | .frame t off => s.frameStore t off v lvl
  | .ctl c off => s.ctlStore c off v
  | .clusterCtl cl off => s.clusterStore cl off v
  | _ => .error ⟨0x0B, a.va⟩

/-- A store into registers as it leaves its outbox. It passed its checks at issue (R116); what has changed since may refuse it, and then
it does nothing, a choice of the model's. Log 16 (DEDUCED). -/
def State.registerPut (s : State) (a : Part1) (v : Word) : State :=
  match s.specialStore a v a.lvl with
  | .ok u => u
  | .error _ => s

/-- Whether a ring record of a Slodun port that is not enabled lies on a page in transit: its enabling waits (R421, R59). -/
def State.portHeld (s : State) (p n : Nat) : Bool :=
  let x := s.slport n
  !x.en && (s.ringWaits p x.rxr || s.ringWaits p x.txr)
/-- Whether a write of a cluster control waits so: that of `SLEN`. -/
def State.enableWaits (s : State) (cl off : Nat) : Bool :=
  off = 0x430 && match gatewayPort cl with | some n => s.portHeld (s.partOfDie (cl / 16)) n | none => false
/-- Whether a store waits so. -/
def State.enableHeld (s : State) (a : Part1) : Bool :=
  special a && match meshRegion a.va.toNat with | .clusterCtl cl off => s.enableWaits cl off | _ => false

/-- Write bytes of a part to its home, with what that does beside (R23, R54). -/
def State.homePut (s : State) (p : Nat) (a : Part1) (v : Word) : State :=
  if special a then s.registerPut a v else
  let key := s.keyOf a
  let s := { s with mem := Memory.writeN s.mem key a.size v.toNat }.reach a
  let s := if a.name = .mesh then
      match meshRegion a.va.toNat with
      | .staging o _ => s.modLoom o fun l =>
          { l with viewStg := { l.viewStg with sbm := false },
                   live0 := if l.act then { l.live0 with sbm := false } else l.live0,
                   live1 := if l.act then l.live1 else { l.live1 with sbm := false } }
      | _ => s
    else s
  s.countLine p a.pte

/-- A write to a home by another than an engine command: what commands wrote there is gone (R135, R127). -/
def State.outsidePut (s : State) (p : Nat) (a : Part1) (v : Word) : State := (s.homePut p a v).unland none (s.keyOf a) a.size

/-- A strand's write of a part to its home (R117): a core-copy line of the issuing core is updated and left clean there. -/
def State.homeWrite (s : State) (core p : Nat) (a : Part1) (v : Word) : State :=
  let s := s.outsidePut p a v
  match (s.core core).line a.key with
  | some l => if a.name = AName.translated then
      s.modCore core fun c => { c with lines := c.lines.set (lineAt a.key) (l.setBytes a.key false a.size v) }
    else s
  | none => s

/-- Whether a release of a strand, number `id`, may take its step: earlier loads and stores to SO and RC pages and regions are performed,
and at scope `.clu` or wider nothing holds the write-back (R120, R60). Log 17 (DEDUCED). -/
def State.strlReady (s : State) (t id : Nat) (scope : BitVec 3) : Bool :=
  let x := s.strand t
  !(x.pend.any fun q => q.id < id && q.holdsRelease) && !(x.out.any fun o => o.id < id && o.at_.kind ≠ .uo)
  && (scope = 0 || !s.backHeld (coreOf t))

/-- The registers with the effects of a strand's stores into registers that have not reached them: what the checks of its next one meet
(R116). Log 16 (DEDUCED). -/
def State.registersAfter (s : State) (t : Nat) : State :=
  let put : State → Part1 → Word → State := fun s a v => if special a then s.registerPut a v else s
  let x := s.strand t
  (x.pend.filter fun q => q.store.isSome && q.need.isEmpty).foldl (fun s q => q.parts.foldl (fun s a => put s a (partData q.got a)) s)
    (x.out.foldl (fun s o => put s o.at_ o.val) s)

/-- What refuses a store of the executing strand into registers at its issue (R18, R22, R50, R116). Log 16 (DEDUCED). -/
def State.registerTrap (s : State) (st : List (Part1 × Word)) : Option Trap :=
  let st := st.filter fun q => special q.1
  if st.isEmpty then none
  else match st.foldlM (fun (u : State) q => u.specialStore q.1 q.2 q.1.lvl) (s.registersAfter s.cur) with
    | .ok _ => none
    | .error e => some e

/-- Whether the value of a store into a register may make it trap: not into the s, k, b and v registers and weave slots of a frame. -/
def Part1.valued (a : Part1) : Bool :=
  special a && match meshRegion a.va.toNat with
    | .frame _ off => (0x180 ≤ off && off < 0x200) || (0x400 ≤ off && off < 0x800)
    | _ => true

/-- Whether an `strl` through kind 0 of the core's own slot must wait to join the loop-back port. It counts as performed when it joins
(R129), so it waits there as R120 has its drain step wait, and writes back there: a choice of the model's, as R129 names no scope. Log 17
(DEDUCED). -/
def State.portWaits (s : State) (t id : Nat) (rel : Option (BitVec 3)) (a : Part1) : Bool :=
  match rel with
  | some c => ownPort (coreOf t) a && !s.strlReady t id c
  | none => false

/-- Parts of a store enter the outboxes of a strand, or the loop-back port (R117, R129). -/
def State.enterParts (s : State) (t id : Nat) (rel : Option (BitVec 3)) (data : BitVec 576) (ps : List Part1) : State :=
  let (port, rest) := ps.partition (ownPort (coreOf t))
  let wide := match rel with | some c => c ≠ 0 && !port.isEmpty | none => false
  (if wide then s.writeBackAll (coreOf t) else s).modStrand t fun x =>
    { x with out := x.out ++ rest.map fun a => (⟨a, partData data a, rel, id⟩ : Out),
             port := x.port ++ port.map fun a => (⟨a, some (partData data a), id⟩ : PortEntry) }

/-- The accesses of a store: one, or one for each lane of a scatter (R127), numbered on from a number. -/
def storeAccesses (id : Nat) (lanes : Bool) (ps : List Part1) : List (Nat × List Part1) :=
  if lanes then ps.zipIdx.map fun (a, i) => (id + i, [a]) else [(id, ps)]

/-- Whether an instruction that stores a value it has yet to form must wait first: its stores would not go at once (R119). -/
def State.storeStalls (s : State) (ps : List Part1) : Bool := !s.late && ps.any fun a => s.mustWait s.cur a true

/-- Issue a store whose parts have passed their checks: it enters at once, or later when the schedule says so or its data is not known
yet (R116, R117). `data` holds the bytes of the parts, `regs` the registers they come from with their places; `len` the bytes of the
instruction; `lanes` marks a scatter. A store into registers traps here; one whose value may make it trap waits for that value. Log 1
(DEDUCED). Log 16 (DEDUCED). -/
def State.store (s : State) (ps : List Part1) (data : BitVec 576) (rel : Option (BitVec 3)) (regs : List (RegName × Nat))
    (len : Nat := 4) (lanes : Bool := false) : Out1 :=
  let t := s.cur
  let need := s.me.needs regs
  if !need.isEmpty && ps.any (·.valued) then s.stall
  else match s.registerTrap (ps.map fun a => (a, partData data a)) with
  | some e => s.raise e
  | none =>
    let acc := storeAccesses s.fresh lanes ps
    let go := { s.discardParts (s.ctx t) .store ps with fresh := s.fresh + acc.length }
    if s.late || !need.isEmpty then
      let pd := acc.map fun (id, ps) =>
        { s.newPend ps with id := id, got := clearNeeds data need, store := some rel, need := need }
      .next (go.setMe ({ go.me with pend := go.me.pend ++ pd }.advance len))
    else if ps.any fun a => s.mustWait t a true || s.portWaits t s.fresh rel a then s.stall
    else
      let go := acc.foldl (fun g (id, ps) => g.enterParts t id rel data (ps.map (s.uncopied s.me.windows))) go
      .next (go.setMe (go.me.advance len))

/-- Issue stores of known words, each part an access of its own, by an instruction that does something beside them; `storeStalls` tells
first whether they must wait. Log 1 (DEDUCED). -/
def State.storeEach (s : State) (st : List (Part1 × Word)) (len : Nat) (beside : State → State) : Out1 :=
  let t := s.cur
  let ps := st.map (·.1)
  match s.registerTrap st with
  | some e => s.raise e
  | none =>
    let go := { (beside s).discardParts (s.ctx t) .store ps with fresh := s.fresh + st.length }
    let acc := st.zipIdx.map fun (q, i) => (s.fresh + i, q.1, q.2.setWidth 576 <<< q.1.pos)
    if s.late then
      let pd := acc.map fun (id, a, v) => { s.newPend [a] with id := id, got := v, store := some none }
      .next (go.modStrand t fun x => { x with pend := x.pend ++ pd }.advance len)
    else .next ((acc.foldl (fun g (id, a, v) => g.enterParts t id none v [s.uncopied s.me.windows a]) go).modStrand t fun x => x.advance len)

/-- An enter step (R117) of the n-th access not yet performed: all its parts that need not wait enter, those on SO pages together
(R127). -/
def State.enterStep (s : State) (t n : Nat) : Option State :=
  let x := s.strand t
  match x.pend[n]? with
  | none => none
  | some q =>
    match q.store with
    | none => none
    | some rel =>
      let waits : Part1 → Bool := fun a => s.pendWaits t n q a true || s.portWaits t q.id rel a
      let so := q.parts.any fun a => a.kind = .so && waits a
      let (now, rest) := q.parts.partition fun a => !waits a && !(so && a.kind = .so)
      if !q.need.isEmpty || now.isEmpty then none
      else
        let s := s.setStrand t { x with pend := if rest.isEmpty then x.pend.eraseIdx n else x.pend.set n { q with parts := rest } }
        some (s.enterParts t q.id rel q.got (now.map (s.uncopied q.win)))

/-- Write the bytes of a store to a shadow (R143), with the addresses they were written by (R144). -/
def Shadow.writeBytes (h : Shadow) (key : Nat) (va : Word) : Nat → Word → Shadow
  | 0, _ => h
  | n + 1, v => { h with bytes := h.bytes.set key (v.setWidth 8), vas := h.vas.set key va }.writeBytes (key + 1) (va + 1) n (v >>> 8)

/-- The key of the page an address is translated through now, if it is sealed. -/
def State.sealAt (s : State) (p core : Nat) (va : Word) : Option (BitVec 32) :=
  match s.cached p core va.toNat with
  | some e => if Pte.sealed e.lo then some e.key else none
  | none => match s.walk p va.toNat with
    | .ok e => if Pte.sealed e.lo then some e.key else none
    | _ => none

/-- Write a part into an open shadow (R143). -/
def State.shadowPut (s : State) (p : Nat) (h : Shadow) (a : Part1) (v : Word) : State :=
  let h' := h.writeBytes a.key a.va a.size v
  s.modPart p fun x => { x with shadows := x.shadows.map fun g => if g.key = h.key then h' else g }

/-- A strand's write into an open shadow (R143). -/
def State.shadowStore (s : State) (t : Nat) (h : Shadow) (a : Part1) (v : Word) : State :=
  (s.shadowPut (s.partOf t) h a v).unland (some h.key) a.key a.size

/-- A strand's write of a store that leaves its outbox: through a shadow when it is open for it, else to the home (R143). -/
def State.shadowWrite (s : State) (t : Nat) (o : Out) : State :=
  match s.shadowTakes t o.at_.thru with
  | some h => s.shadowStore t h o.at_ o.val
  | none => s.homeWrite (coreOf t) (s.partOf t) o.at_ o.val

/-- Stores of one access leave the outboxes together for the home or their shadow, each line counted once (R54); `seen` are the lines
counted already. -/
def State.leave (s : State) (t : Nat) (seen : List Nat) : List Out → State
  | [] => s
  | o :: os =>
    let line := lineAt o.at_.key
    let o := if seen.contains line then { o with at_ := { o.at_ with pte := none } } else o
    if s.homeBound t o.at_ then ((s.shadowWrite t o).modStrand t fun x => x.counted o.id line).leave t (line :: seen) os
    else (s.shadowWrite t o).leave t seen os

/-- A drain step (R117, R120) of the n-th entry of a strand's outboxes, to the home or to the core copy. The parts of an SO access on one
page leave together (R127), data and scale bytes apart in either order (R99). An `strl` on a UO page waits for its own location alone, but
writes back all the same (R125). -/
def State.drainStep (s : State) (t n : Nat) (home : Bool) : Option State :=
  let x := s.strand t
  let core := coreOf t
  let p := s.partOf t
  match x.out[n]? with
  | none => none
  | some o =>
    let a := o.at_
    let older := x.out.take n
    let mine : Out → Bool := fun q => q.id = o.id && (q.at_ = a || (a.kind = .so && q.at_.kind = .so && q.at_.samePage a))
    let go := x.out.filter mine
    let wide := match o.rel with | some c => c ≠ 0 | none => false
    let held := (a.kind = .so && older.any fun q => q.at_.kind = .so && q.id ≠ o.id) || older.any (fun q => q.at_.meets a)
      || (match o.rel with
          | some c => if a.kind = .uo then wide && s.backHeld core else !s.strlReady t o.id c
          | none => false)
      || go.any fun q => s.swapBytes p q.at_.key q.at_.size || s.stagingBusy q.at_ || s.frameUnknown o.id q.at_ || s.enableHeld q.at_
           || (q.at_.name = .alias_ && (s.core core).boarded q.at_.va.toNat q.at_.size true)
    if held then none
    else
      let pop : State → State := fun s => s.modStrand t fun x => { x with out := x.out.filter fun q => !mine q }
      if home || wide then
        if go.any fun q => s.sleeps q.at_ then s.rouse (go.map (·.at_))
        else
          let s := if wide then s.writeBackAll core else s
          some ((pop s).leave t [] go)
      else if !a.cached || a.thru.isSome then none
      else match s.tlbFor p core a with
        | none => none
        | some e =>
          let s := s.fillFor p core a e
          match (s.core core).line a.key with
          | none => none
          | some l => some (pop (s.modCore core fun c =>
              { c with lines := c.lines.set (lineAt a.key) (l.setBytes a.key true a.size o.val) }))

/-! ## The other steps of R117 -/

/-- A fill step: a line that a core TLB entry of an RC or UO page covers becomes present. -/
def State.fillStep (s : State) (core line : Nat) : Option State :=
  let c := s.core core
  match c.tlb.find? fun e => Pte.frame e.lo ≤ line && line < Pte.frame e.lo + (if e.large then 2 ^ 26 else 2 ^ 16) && Pte.ord e.lo ≠ 0 with
  | none => none
  | some e =>
    if line % 64 ≠ 0 || (c.line line).isSome then none
    else
      let a : Part1 := { key := line, va := BitVec.ofNat 64 (e.va + (line - Pte.frame e.lo)), size := 1, name := .translated,
                         kind := ordKind (Pte.ord e.lo), cached := true, thru := none, pos := 0, pte := if e.large then none else some e.pte,
                         large := e.large }
      some (s.fillFor e.part core a e)

/-- A write-back step: the dirty bytes of a line go to the home together. -/
def State.writeBackStep (s : State) (core line : Nat) : Option State :=
  match (s.core core).line line with
  | none => none
  | some l =>
    if l.dirty = 0 || line % 64 ≠ 0 || s.lineHeld core (line, l) then none
    else some ((s.writeLines core [(line, l)]).modCore core fun c => { c with lines := c.lines.set line { l with dirty := 0 } })

/-- A drop step: a line without a dirty byte becomes absent. -/
def State.dropStep (s : State) (core line : Nat) : Option State :=
  let c := s.core core
  match c.line line with
  | none => none
  | some l => if l.dirty ≠ 0 || line % 64 ≠ 0 then none else some (s.setCore core { c with lines := c.lines.del line })

/-! ## Fences (R122, R131, R132, R293) -/

/-- Whether the fence of a number of a strand is complete: what it waits for among the accesses issued before it is done. Log 17
(DEDUCED). -/
def State.fenceDone (s : State) (t i : Nat) (f : Fence) : Bool :=
  let x := s.strand t
  let core := coreOf t
  let pend := x.pend.filter (·.id < i)
  let out := x.out.filter (·.id < i)
  match f with
  | .fence c => pend.all (·.performed) && out.isEmpty && (c = 0 || !s.backHeld core)
  | .lbfenc => x.port.all (·.id > i) && pend.all (fun q => q.ported = 0 && q.parts.all fun a => (localOffset core a).isNone)
      && out.all fun o => (localOffset core o.at_).isNone
  | .ifenc => out.isEmpty && pend.all (fun q => q.performed || (q.store.isNone && q.atom.isNone)) && !s.backHeld core
  | .efenc => s.cmds.all (·.by_ ≠ t) && s.issued.all (·.by_ ≠ t)
      && s.net.all fun m => !((m.sender = t && m.rank.isSome) || m.for_ = some t)
           || match m.body with | .decrement _ _ _ _ _ | .handover _ _ _ _ => false | _ => true

/-- What the completion of a fence does to the core copy and the fetch buffer. -/
def State.fenceEffect (s : State) (t : Nat) (f : Fence) : State :=
  let core := coreOf t
  match f with
  | .fence c => if c = 0 then s else (s.writeBackAll core).dropClean core fun _ => true
  | .lbfenc => s
  | .ifenc => (s.writeBackAll core).modStrand t fun x => { x with fbuf := [] }
  | .efenc => s.dropClean core (·.rc)

/-- Issue a fence: complete at once when its condition holds, else open until its completion step. Log 17 (DEDUCED). -/
def State.fenceIssue (s : State) (f : Fence) : Out1 :=
  let s := s.retire
  if s.fenceDone s.cur s.fresh f && !s.late then .next (s.fenceEffect s.cur f)
  else .next (s.tick.setMe { s.me with fences := s.me.fences ++ [(s.fresh, f)] })

/-- The completion step of the oldest fence of a kind that is complete; it waits for no fence (R122, R131, R132). -/
def State.fenceStep (s : State) (t : Nat) (kind : Fence → Bool) : Option State :=
  match (s.strand t).fences.find? fun f => kind f.2 && s.fenceDone t f.1 f.2 with
  | some f => some ((s.modStrand t fun x => { x with fences := x.fences.filter fun g => g.1 ≠ f.1 }).fenceEffect t f.2)
  | none => none

/-! ## Atomics (R126, R153 to R157, R290 to R292) -/

/-- Size in bytes of an atomic's location (R290, R291). -/
def AtomOp.size (op : AtomOp) (ty : BitVec 2) : Nat :=
  match op with
  | .fadd => 4
  | .faddh => 2
  | .fmax => if ty = 0 then 4 else 2
  | _ => if ty = 0 then 4 else 8

/-- The float format of an atomic (R237). -/
def AtomOp.fmt (op : AtomOp) (ty : BitVec 2) : FFmt :=
  match op with
  | .faddh => if ty = 0 then fF16 else fBf16
  | .fmax => if ty = 0 then fF32 else if ty = 1 then fF16 else fBf16
  | _ => fF32

/-- The sum of R154: RNE, subnormals kept. -/
def FFmt.atomAdd (f : FFmt) (x y : Nat) : Nat × Flags :=
  let (v, fl) := FV.add 1 (f.value x) (f.value y)
  let (r, fr) := f.round 1 v
  (r, fl ||| fr)

/-- f of R290 and R291: the value written, none for a failing `acas`, and the flags. -/
def AtomReq.apply (r : AtomReq) (old : Nat) : Option Nat × Flags :=
  let n := 8 * r.op.size r.ty
  let x := r.x.toNat % 2 ^ n
  let s : Nat → Int := sxN n
  match r.op with
  | .add => (some ((old + x) % 2 ^ n), 0)
  | .and => (some (old &&& x), 0)
  | .or => (some (old ||| x), 0)
  | .xor => (some (old ^^^ x), 0)
  | .min => (some (if s old ≤ s x then old else x), 0)
  | .max => (some (if s old ≥ s x then old else x), 0)
  | .minn => (some (min old x), 0)
  | .maxn => (some (max old x), 0)
  | .xchg => (some x, 0)
  | .fadd | .faddh => let (v, f) := (r.op.fmt r.ty).atomAdd old x; (some v, f)
  | .fmax => let (v, f) := (r.op.fmt r.ty).pick true old x; (some v, f)
  | .cas => (if old = r.expect.toNat % 2 ^ n then some x else none, 0)

/-- Whether the location of an atomic lies on no sealed page, for event 9. A location outside the translated space has no page, and counts
as unsealed: a choice of the model's, as R154 names pages alone. Log 79 (DESIGN CHOICE). -/
def State.unsealed (s : State) (p core : Nat) (a : Part1) : Bool := a.name ≠ AName.translated || (s.sealAt p core a.va).isNone

/-- The one step of an atomic for a partition and a core: the new state and the old value (R126). -/
def State.atomStep (s : State) (p core : Nat) (a : Part1) (r : AtomReq) : State × Nat :=
  let local_ := r.scope = 0 && a.cached
  let e := if local_ then s.tlbFor p core a else none
  let (s, old) : State × Nat := match e with
    | some e =>
      let s := s.fillFor p core a e
      match (s.core core).line a.key with
      | some l => (s, l.data.toNat / 2 ^ (8 * (a.key % 64)) % 2 ^ (8 * a.size))
      | none => (s, 0)
    | none =>
      -- a dirty line that holds the location is written back first, and the line drops
      let s := if a.name = AName.translated then s.dropLines core fun l => l.1 = lineAt a.key else s
      (s.countLine p a.pte, Memory.readN s.mem a.key a.size)
  let (new, fl) := r.apply old
  let s := match new with
    | none => s
    | some v =>
      match e with
      | some _ =>
        s.modCore core fun c => match c.line a.key with
          | some l => { c with lines := c.lines.set (lineAt a.key) (l.setBytes a.key true a.size (BitVec.ofNat 64 v)) }
          | none => c
      | none => { s with mem := Memory.writeN s.mem a.key a.size v }.unland none a.key a.size
  let s := s.modPart p fun x => { x with aflag := x.aflag ||| fl }
  let s := if (r.op = .fadd || r.op = .faddh) && r.scope ≠ 0 && s.unsealed p core a then s.dcause p 9 r.pc else s
  (s, old)

/-- Flags a returning float atomic merges into the issuer's FCTL (R154). -/
def AtomReq.flags (r : AtomReq) (old : Nat) : Flags := (r.apply old).2

/-- Give a returning atomic its value. -/
def Strand.atomReturn (x : Strand) (r : AtomReq) (old : Nat) : Strand :=
  if r.d = 0 then x else (x.merge (r.flags old)).ws r.d (BitVec.ofNat 64 old)

/-- Bring the value of an atomic issued earlier to its register (R154, R290). -/
def Strand.atomBring (x : Strand) (id : Nat) (r : AtomReq) (old : Nat) : Strand :=
  if r.d = 0 then x else (x.merge (r.flags old)).bring id (.sreg r.d 64 false) (BitVec.ofNat 576 old)

/-- Whether earlier stores of the strand to the location, its SO stores for an SO page, or a swap hold the step of an atomic (R119, R126,
R60). -/
def State.atomHeld (s : State) (t : Nat) (a : Part1) : Bool :=
  (s.strand t).out.any (fun o => o.at_.meets a || (a.kind = .so && o.at_.kind = .so))
  || s.swapBytes (s.partOf t) a.key a.size
  || ((s.core (coreOf t)).line a.key).any fun l => s.lineHeld (coreOf t) (lineAt a.key, l)

/-- The fault queue of a home die has room (R157). -/
def State.parkRoom (s : State) (p va : Nat) : Bool :=
  ((s.part p).parkq.filter fun q =>
    match q.req with
    | .piece _ _ v | .status _ _ v _ | .pool _ v => s.walkHome p v.toNat = s.walkHome p va
    | .atomic _ a _ _ _ => s.walkHome p a.va.toNat = s.walkHome p va).length < 1024

/-- The record of a parked request (R156, R378): its inner cause is that of its check, 0x04 for a read and 0x05 for a write or an atomic
(R70, R377). -/
def State.parkRecord (s : State) (p : Nat) (rank : BitVec 16) (pc addr cw : Word) (src : Nat) (info : Word) (inner : BitVec 8) : State :=
  s.report { celled := false, parked := true, src := src, inner := inner, cause := 0x14, pc := pc, addr := addr, part := p, rank := rank,
             cw := cw, info := info }

/-- The registers an atomic's values come from: the operand at bit 0, the expected value of `acas` at bit 64. -/
def AtomReq.sources (b : BitVec 5) (op : AtomOp) (d : BitVec 5) : List (RegName × Nat) :=
  (.s b, 0) :: if op = .cas then [(.s d, 64)] else []

/-- ATOM and ACAS on register b (R290 to R292): its step at once, or left for later when the schedule says so or a value is not known
yet; through kind 0 of the core's own slot it joins the loop-back port (R129). Log 1 (DEDUCED). -/
def State.atomic (s : State) (op : AtomOp) (ty : BitVec 2) (scope : BitVec 3) (d : BitVec 5) (va : Word) (b : BitVec 5) : Out1 :=
  let t := s.cur
  let size := op.size ty
  let r : AtomReq := ⟨op, ty, scope, d, s.rs b, if op = .cas then s.rs d else 0, s.me.pc⟩
  let c := s.ctx t
  let need := s.me.needs (AtomReq.sources b op d)
  let dst : Dst := .sreg d 64 false
  if va.toNat % size ≠ 0 then s.trap 0x03 va
  else match s.route c .atomic va size 0 with
  | .fault e => s.raiseAccess .atomic e
  | .wait => s.stall
  | .invalid e =>
    if scope.toNat ≥ 2 && s.me.level = 0 then
      -- it parks in the fault queue of its walk home (R156)
      let a : Part1 := { key := 0, va := va, size := size, name := .translated, kind := .so, cached := false, thru := none, pos := 0, pte := none }
      if need.isEmpty && s.parkRoom c.p va.toNat then
        let x := s.me
        let pd : Pend := { s.newPend [a] with dst := dst, atom := some r, parked := true }
        let s := s.discard c .atomic va.toNat
        let s := { s with fresh := s.fresh + 1 }.modPart c.p fun y => { y with parkq := y.parkq ++ [ParkEntry.mk (.atomic t a r c.held c.lvl) false] }
        let s := s.parkRecord c.p x.rank x.pc va 0 8 0 0x05
        let x := { s.me with pend := s.me.pend ++ [pd] }.advance 4
        .next (s.setMe (if d = 0 then x else { x with st := .parked, wait := .atomic }))
      else s.stall
    else s.raiseAccess .atomic e
  | .ok a _ =>
    let port := ownPort (coreOf t) a
    let wait := s.mustWait t a false || s.mustWait t a true
    if s.late || !need.isEmpty then
      let pd : Pend := { s.newPend [a] with dst := dst, atom := some r, need := need }
      let s := (s.discardParts c .atomic [a]).loadEvents t [a]
      .next ({ s with fresh := s.fresh + 1 }.setMe (({ s.me with pend := s.me.pend ++ [pd] }.tagged dst.regs pd.id).advance 4))
    else if s.sleeps a then s.stallAt [a]
    else if wait || (!port && s.atomHeld t a) then s.stall
    else
      let a := s.uncopied s.me.windows a
      let s := (s.discardParts c .atomic [a]).loadEvents t [a]
      if port then
        let pd : Pend := { s.newPend [] with dst := dst, atom := some r, ported := 1 }
        .next ({ s with fresh := s.fresh + 1 }.setMe
          (({ s.me with pend := s.me.pend ++ [pd], port := s.me.port ++ [(⟨a, none, pd.id⟩ : PortEntry)] }.tagged dst.regs pd.id).advance 4))
      else
        let (s, old) := s.atomStep c.p c.core a r
        .next (s.setMe ((s.me.atomReturn r old).advance 4))

/-- The step of an atomic that was issued before (R117). -/
def State.atomicStep (s : State) (t n : Nat) : Option State :=
  let x := s.strand t
  match x.pend[n]? with
  | none => none
  | some q =>
    match q.atom, q.parts with
    | some r, [a] =>
      if q.parked || !q.need.isEmpty || s.pendWaits t n q a false || s.pendWaits t n q a true then none
      else if s.sleeps a then s.rouse [a]
      else
        let a := s.uncopied q.win a
        if ownPort (coreOf t) a then
          some (s.setStrand t { x with pend := x.pend.set n { q with parts := [], ported := 1 }, port := x.port ++ [⟨a, none, q.id⟩] })
        else if s.atomHeld t a then none
        else
          let (s, old) := s.atomStep (s.partOf t) (coreOf t) a r
          let x := s.strand t
          some (s.setStrand t ({ x with pend := x.pend.eraseIdx n }.atomBring q.id r old))
    | _, _ => none

/-! ## The loop-back port (R129) -/

/-- A loop-back step (R117, R137) of the n-th entry of a strand in its core's loop-back port, by a record of an open shadow to or from that
(R143). -/
def State.loopBackStep (s : State) (t n : Nat) : Option State :=
  let x := s.strand t
  let core := coreOf t
  match x.port[n]? with
  | none => none
  | some e =>
    let off := (localOffset core e.at_).getD 0
    let writes := e.val.isSome || x.portAtom e
    if (x.port.take n).any (fun q => q.at_.meets e.at_) || (s.core core).boarded off e.at_.size writes then none
    else
      let x := { x with port := x.port.eraseIdx n }
      match e.val with
      | some v => some ((match s.shadowTakes t e.at_.thru with
          | some h => s.shadowStore t h e.at_ v
          | none => { s with mem := Memory.writeN s.mem e.at_.key e.at_.size v.toNat }.unland none e.at_.key e.at_.size).setStrand t x)
      | none =>
        match x.pend.findIdx? (·.id = e.id) with
        | none => some (s.setStrand t x)
        | some i =>
          match x.pend[i]? with
          | none => none
          | some q =>
            match q.atom with
            | some r =>
              let (s, old) := (s.setStrand t { x with pend := x.pend.eraseIdx i }).atomStep (s.partOf t) core e.at_ r
              some (s.setStrand t ((s.strand t).atomBring q.id r old))
            | none =>
              let got := putBits q.got e.at_ (s.shadowRead e.at_.thru e.at_.key e.at_.size)
              if q.parts.isEmpty && q.ported ≤ 1 then
                some (s.setStrand t ({ x with pend := x.pend.eraseIdx i }.bring q.id q.dst got))
              else some (s.setStrand t { x with pend := x.pend.set i { q with ported := q.ported - 1, got := got } })

end Sys2Proof.Machine
end

