-- ==== Sys2Proof/Machine/Uses.lean ====
section
/-! DEFINITION. What an instruction waits for in the registers (R113, R116): the values it must know before it goes on, and the
instructions that only compute registers, which may wait for a value beside later accesses. -/

namespace Sys2Proof.Machine

/-- The registers an instruction must know before it goes on, none for all of them; and those it writes, when it computes registers alone
and raises no trap. -/
structure Uses where
  reads : Option (List RegName)
  writes : Option (List RegName)
  deriving DecidableEq, Repr

/-- An instruction that computes registers alone. -/
def computes (reads writes : List RegName) : Uses := ⟨some reads, some writes⟩
/-- The same for an instruction that traps when it raises a flag that is enabled. -/
def computesFlags (enabled : Bool) (reads writes : List RegName) : Uses := ⟨some reads, if enabled then none else some writes⟩
/-- An instruction that waits until it knows some registers: it accesses memory by them, transfers control, or may raise a trap. -/
def knows (reads : List RegName) : Uses := ⟨some reads, none⟩

/-- What an instruction uses, `enabled` saying whether FCTL enables a float trap. The data a store or an atomic writes is not among it
(R116). Instructions that are not named wait until every register is known: those with a payload or a command in their registers, which
wait for the strand's earlier loads as `strl.dev` does (R123), and those that wait for more (`Instr.afterRetired`). Log 1 (DEDUCED). -/
def Instr.uses (enabled : Bool) : Instr → Uses
  | .add d a b _ | .sub d a b _ | .and d a b _ | .or d a b _ | .xor d a b _ | .andn d a b _ | .shl d a b _ | .shr d a b _ | .sha d a b _
  | .rotl d a b _ | .min d a b _ | .max d a b _ | .minn d a b _ | .maxn d a b _ | .slt d a b _ | .sltn d a b _ | .seq d a b _
  | .lea d a b _ _ | .mul d a b _ | .mulh d a b _ | .mulhn d a b _ => computes [.s a, .s b] [.s d]
  | .clz d a _ | .ctz d a _ | .popc d a _ | .sext d a _ _ | .zext d a _ _ | .addi d a _ | .andi d a _ | .ori d a _ | .xori d a _
  | .slti d a _ | .shi d a _ _ | .lix d a _ => computes [.s a] [.s d]
  | .lih d _ => computes [] [.s d]
  | .cmov d a b _ => computes [.s d, .s a, .s b] [.s d]
  | .div _ a b _ | .divn _ a b _ | .rem _ a b _ | .remn _ a b _ | .beq a b _ | .bne a b _ | .blt a b _ | .bge a b _ | .bltn a b _
  | .bgen a b _ => knows [.s a, .s b]
  | .j _ | .jl _ => knows []
  | .jlr _ a _ | .lds _ a _ _ | .sts _ a _ _ | .ldaq _ a _ _ _ | .strl _ a _ _ _ => knows [.s a]
  | .vld _ r o _ _ _ | .vst _ r o _ _ _ | .sld _ r o _ _ _ | .sst _ r o _ _ _ | .vstx _ r o _ _ | .pfetch r o _ _ _ => knows [.b r, .s o]
  | .vldg _ r o _ _ | .vsts _ r o _ _ => knows [.b r, .v o]
  | .vldx _ r o k _ => knows [.b r, .s o, .k k]
  | .aadd _ a _ _ _ _ | .aand _ a _ _ _ _ | .aor _ a _ _ _ _ | .axor _ a _ _ _ _ | .amin _ a _ _ _ _ | .amax _ a _ _ _ _
  | .aminn _ a _ _ _ _ | .amaxn _ a _ _ _ _ | .axchg _ a _ _ _ _ | .afadd _ a _ _ _ | .afaddh _ a _ _ _ _ | .afmax _ a _ _ _ _
  | .acas _ a _ _ _ _ => knows [.s a]
  | .fence _ _ | .lbfenc _ | .ifenc _ | .efenc _ => knows []
  | .brld _ a _ | .brst _ a _ => knows [.s a]
  | .brsetf d a _ _ => knows [.b d, .s a]
  | .brgetf d a f _ => if (Rec.field f).isSome then computes [.b a] [.s d] else knows []
  | .brcpy d a _ => computes [.b a] [.b d]
  | .qrd _ _ _ | .qcnt _ _ _ => knows []
  | .qwr a _ _ | .qtry _ a _ _ | .qpair a _ => knows [.s a]
  | .vadd d a b m _ | .vsub d a b m _ | .vmul d a b m _ | .vmulh d a b m _ | .vmin d a b m _ | .vmax d a b m _ | .vand d a b m _
  | .vor d a b m _ | .vxor d a b m _ | .vshl d a b m _ | .vshr d a b m _ | .vsha d a b m _ | .vadds d a b m _ | .vsubs d a b m _
  | .vperm d a b m _ => computes [.v d, .v a, .v b, .k m] [.v d]
  | .vabs d a m _ | .vneg d a m _ | .vfabs d a m _ | .vfneg d a m _ | .vfclass d a m _ | .vexpd d a m _ | .vmov d a m _ =>
    computes [.v d, .v a, .k m] [.v d]
  | .vcmpeq d a b m _ | .vcmplt d a b m _ | .vcmple d a b m _ | .vfceq d a b m _ => computes [.v a, .v b, .k m] [.k d]
  | .vsel d a b m _ => computes [.v a, .v b, .k m] [.v d]
  | .vfadd d a b m _ | .vfsub d a b m _ | .vfmul d a b m _ | .vfma d a b m _ | .vfms d a b m _ | .vfnma d a b m _ | .vfmin d a b m _
  | .vfmax d a b m _ => computesFlags enabled [.v d, .v a, .v b, .k m] [.v d]
  | .vfrcp d a m _ | .vfrsq d a m _ => computesFlags enabled [.v d, .v a, .k m] [.v d]
  | .vfclt d a b m _ | .vfcle d a b m _ => computesFlags enabled [.v a, .v b, .k m] [.k d]
  | .vcvt d a _ m _ r => computesFlags enabled ([.v d, .v a, .k m] ++ if r = 6 then [.s 30, .s 31] else []) [.v d]
  | .vqblk d a _ k _ => computesFlags enabled [.v d, .v a, .k k] [.v d, .k k]
  | .vdqblk d a _ k _ => computesFlags enabled [.v a, .k k] [.v d]
  | .vbaddq d a k _ => computesFlags enabled [.v d, .v a, .k k, .k (k + 1)] [.v d, .k k]
  | .vbscal a k _ => computesFlags enabled [.s a, .k k] [.k k]
  | .vbcast d a m _ | .viota d a m _ => computes [.v d, .s a, .k m] [.v d]
  | .vext d a b _ => computes [.v a, .s b] [.s d]
  | .vins d a b _ => computes [.v d, .s a, .s b] [.v d]
  | .vcomp d a b m _ => computes [.v a, .k m] [.v d, .s b]
  | .vslide d a b m _ => computes [.v d, .v a, .s b, .k m] [.v d]
  | .vredadd d a m _ | .vredmax d a m _ | .vredmin d a m _ => computes [.v a, .k m] [.s d]
  | .vfredadd d a m _ | .vfredmax d a m _ => computesFlags enabled [.v a, .k m] [.s d]
  | .vscanadd d a m _ => computes [.v a, .k m] [.v d]
  | .vfscanadd d a m _ => computesFlags enabled [.v a, .k m] [.v d]
  | .kand d a b | .kor d a b | .kxor d a b => computes [.k a, .k b] [.k d]
  | .knot d a | .kmov d a => computes [.k a] [.k d]
  | .kget d a | .kpopc d a | .kfirst d a => computes [.k a] [.s d]
  | .vrand d a b m => computes [.v d, .s a, .s b, .k m] [.v d]
  | .vlive a => knows [.s a]
  | .yield _ | .gate _ | .csrrd _ _ | .eret | .wfi | .tlbinvAll _ | .ptsync _ | .lbswp _ | .lstat _ _ =>
    knows []
  | .jcwait a _ | .jcrd _ a _ _ | .sealq _ a _ | .self _ a _ | .migr _ a _ | .csrwr _ a _ | .csrset _ a _ | .csrclr _ a _ | .tlbinv a _
  | .lsemi a _ _ | .rcrd _ a _ _ | .wmrd _ a _ | .hrel a _ | .href a _ | .hcall a _ | .hstat _ a _ | .gres a _ | .gstat _ a _ => knows [.s a]
  | .rkset a b _ | .rktrn a b _ | .stgput a b _ | .stgseq a b _ => knows [.s a, .s b]
  | .stgend a b o _ => knows [.s a, .s b, .s o]
  | .stgdef a r _ | .rcsnap r a _ | .glnch r a _ => knows [.s a, .b r]
  | .stgsnap r a b _ => knows [.b r, .s a, .s b]
  | .digest r q _ => knows [.b r, .b q]
  | .shdw r _ | .publ r _ | .disc r _ => knows [.b r]
  | _ => ⟨none, none⟩

/-- SYSC, TRAP, BRK, HALTG and JCINIT wait until every earlier instruction of the strand has retired (R253, R325). -/
def Instr.afterRetired : Instr → Bool
  | .sysc _ | .trap _ | .brk | .haltg _ | .jcinit _ _ _ _ | .jcinitForce _ _ _ _ => true
  | _ => false

/-- Instructions that access memory beside their other work, and wait with it behind an open `fence` (R122): those of other majors. -/
def Instr.accesses : Instr → Bool
  | .digest _ _ _ | .stgdef _ _ _ | .stgsnap _ _ _ _ | .rcsnap _ _ _ | .gstat _ _ _ | .glnch _ _ _ | .halo _ _ _ _ | .mfork _ _
  | .jcinit _ _ _ _ | .jcinitForce _ _ _ _ => true
  | _ => false

/-- Every instruction a strand has issued has retired: none waits for a value, no register waits for one, and no load and no returning
atomic is open. A store and an atomic that returns nothing have retired as they were issued with what they store (R253, R154). Log 1
(DEDUCED). -/
def Strand.retired (x : Strand) : Bool :=
  x.held.isEmpty && x.tags.isEmpty
  && x.pend.all fun q => q.need.isEmpty && (q.store.isSome || match q.atom with | some r => r.d = 0 | none => false)

/-- Whether an instruction merges flags into FCTL: those that trap for a flag that is enabled (R102). -/
def Instr.mergesFlags (i : Instr) : Bool := (Instr.uses true i).writes.isNone && (Instr.uses false i).writes.isSome
/-- Whether earlier float instructions that wait for a value have yet to merge their flags into FCTL (R102, R249). -/
def Strand.flagsDue (x : Strand) : Bool := x.held.any fun h => match decode h.w h.x with | .ok i => Instr.mergesFlags i | .error _ => false

/-- Whether an earlier access has yet to bring a register among some, or any at all. -/
def Strand.unknown (x : Strand) : Option (List RegName) → Bool
  | none => !x.tags.isEmpty
  | some rs => x.tags.any fun e => rs.contains e.1

/-- An instruction of registers alone goes aside with the registers as they stand, to run when it knows what it waits for. -/
def State.defer (s : State) (ws : List IWord) (reads writes : List RegName) : State :=
  let x := s.me
  let h : Held := { id := s.fresh, w := ws.headD 0, x := ws.getD 1 0, s := x.s, k := x.k, v := x.v, dead := x.dead, b := x.b,
                    fctl := x.csr.fctl &&& ~~~0x1F, need := x.tags.filter fun e => reads.contains e.1 }
  { s with fresh := s.fresh + 1 }.setMe (({ x with held := x.held ++ [h] }.tagged writes h.id).advance (4 * ws.length))

/-- An instruction that waited runs with its registers: its results go where no later instruction has written, its flags to FCTL. -/
def State.runHeld (run : Instr → State → Out1) (s : State) (t : Nat) (h : Held) : State :=
  let x := s.strand t
  let x := { x with held := x.held.filter fun g => g.id ≠ h.id }
  let y := { x with s := h.s, k := h.k, v := h.v, dead := h.dead, b := h.b, tags := [], csr := { x.csr with fctl := h.fctl } }
  match decode h.w h.x with
  | .error _ => s.setStrand t x
  | .ok i =>
    match run i ({ s with cur := t }.setStrand t y) with
    | .next s' =>
      let z := s'.strand t
      let x := x.merge (z.csr.fctl.extractLsb' 0 5)
      let rs := ((Instr.uses false i).writes.getD []).filter (·.real)
      s.setStrand t (rs.foldl (fun x r => x.produce z h.id r) x)
    | _ => s.setStrand t x

/-- Instructions of a strand that waited and now know their registers run, so far as fuel goes. -/
def State.settleStrand (run : Instr → State → Out1) (t : Nat) : Nat → State → State
  | 0, s => s
  | n + 1, s =>
    match (s.strand t).held.find? fun h => h.need.isEmpty with
    | some h => State.settleStrand run t n (s.runHeld run t h)
    | none => s

/-- Every instruction that waited and now knows its registers runs, before the machine's next step. -/
def State.settleHeld (run : Instr → State → Out1) (s : State) : State :=
  (s.strands.filter fun x => !x.2.held.isEmpty).foldl (fun s x => s.settleStrand run x.1 x.2.held.length) s

end Sys2Proof.Machine
end

