-- ==== Sys2Proof/Machine/Fetch.lean ====
section
/-! DEFINITION. Fetching words (R132, R230, R231), what stands before the issue of an instruction, and taking an interrupt (R376). -/

namespace Sys2Proof.Machine

/-- The result of reading one instruction word at its home. -/
inductive Fetched where
  | word (w : IWord) (pte : Option Nat)
  | trap (t : Trap)
  | wait
  deriving DecidableEq, Repr

/-- Read the word at an address as a fetch of a strand (R71, R132). -/
def State.fetchWord (s : State) (t : Nat) (a : Word) : Fetched :=
  match s.route (s.ctx t) .fetch a 4 0 with
  | .ok p _ => .word ((s.homeRead (s.keyOf p) 4).setWidth 32) p.pte
  | .invalid e | .fault e => .trap e
  | .wait => .wait

/-- A request for the line of an instruction word: one for the words of a line that are fetched in sequence (R54). Log 45 (DEDUCED). -/
def State.countFetch (s : State) (t i : Nat) (a : Word) (pte : Option Nat) : State :=
  if i = 0 || a.toNat % 64 = 0 then s.countLine (s.partOf t) pte else s

/-- A translation that refuses the fetch of word i from a strand's PC on is discarded before the fresh walk (R77); a word of the fetch
buffer is not fetched again. -/
def State.refetch (s : State) (t i : Nat) : State :=
  let x := s.strand t
  if i < x.fbuf.length then s else s.discardAt (s.ctx t) .fetch (x.pc + BitVec.ofNat 64 (4 * i))

/-- A fetch step (R117): the next word in sequence joins the buffer, which holds up to 32 bytes. -/
def State.fetchStep (s : State) (t : Nat) : Option State :=
  let x := s.strand t
  let i := x.fbuf.length
  let a := x.pc + BitVec.ofNat 64 (4 * i)
  if x.st = .free ∨ i ≥ 8 then none
  else match s.fetchWord t a with
    | .word w pte => some (((s.refetch t i).setStrand t { x with fbuf := x.fbuf ++ [w] }).countFetch t i a pte)
    | _ => none

/-- A strand leaves `jcwait` other than by a firing: the cell shows whether others still wait (R20). Log 78 (DEDUCED). -/
def State.leaveCell (s : State) (t : Nat) : State :=
  match (s.strand t).wait with
  | .cell core j =>
    let others := s.strands.any fun x => x.1 ≠ t && x.2.wait = .cell core j
    s.setCell core j.toNat { s.cell core j.toNat with parked := others }
  | _ => s

/-- A strand leaves the wait it was released into, and its residency tag clears at its return address (R204, R402). -/
def State.leaveWait (s : State) (t : Nat) : State :=
  ((s.leaveCell t).modStrand t fun x => { x with st := .ready, wait := .none, again := false }).clearReturned t

/-- Waits that an interrupt ends (R376, R256). Log 78 (DEDUCED). -/
def Wait.interruptible : Wait → Bool
  | .none | .cell _ _ | .shadow _ | .turn _ _ _ | .launch _ | .qread _ | .qwrite _ | .wfi => true
  | _ => false

/-- Whether a strand takes an interrupt before its next instruction (R376), once a residency tag that is to clear there may (R402). Log 78
(DEDUCED). -/
def State.interrupted (s : State) (t : Nat) : Bool :=
  let x := s.strand t
  x.irq.isSome && tsIe x.csr.tstat && (!x.returned || x.soReady) && x.wait.interruptible && !s.coreHalted (coreOf t) && (s.core (coreOf t)).gate = 0
  && (x.st = .ready || x.st = .blocked || x.st = .parked)

/-- Take interrupt code 1 (R376): to master, TPC holding the instruction that would issue or that waits. Log 78 (DEDUCED). -/
def State.takeInterrupt (s : State) (t : Nat) : State :=
  let x := s.strand t
  let val := x.irq.getD 0
  let s := (s.leaveWait t).modStrand t fun x => { x with irq := none }
  let s := if x.st = .ready then s else s.joinWait t
  let vec := (s.core (coreOf t)).cmtvec
  if vec = 0 then s.haltTrap t 5 0 val x.pc
  else s.enter t 2 vec (0x8000000000000000 ||| 1) val x.pc

/-- An open IFENC or EFENC holds every later instruction of its strand (R132, R293; DEDUCED, log 61). -/
def Strand.fenced (x : Strand) : Bool := x.fences.any fun f => f.2 = .ifenc || f.2 = .efenc

/-- Whether a strand may issue now (R202 to R206, R228, R389): one released into a wait issues the waiting instruction again (R203); at
the return address of its residency tag it waits until the tag may clear (R402). Log 61 (DEDUCED). -/
def State.issuable (s : State) (t : Nat) : Bool :=
  let x := s.strand t
  x.resident && !x.fenced && (!x.returned || x.soReady) && (x.wait = .none || x.again) && (x.st = .ready || x.st = .blocked || x.st = .parked)
  && !s.coreHalted (coreOf t) && (s.core (coreOf t)).gate = 0

/-- Majors whose instructions access memory: loads, stores, atomics, record and prefetch instructions. -/
def accessMajor (w : IWord) : Bool :=
  let m := (w.extractLsb' 26 6).toNat
  (0x14 ≤ m && m ≤ 0x21) || m = 0x23 || m = 0x24

/-- An open `fence` of any scope: every later access waits for its completion, its translation too (R122; DEDUCED, log 62). -/
def Strand.awaitsFence (x : Strand) : Bool := x.fences.any fun f => match f.2 with | .fence _ => true | _ => false

/-- What stands before an instruction. -/
inductive Issue where
  /-- the strand does not issue -/
  | idle
  /-- an interrupt, a fetch fault or a stall -/
  | taken (s : State)
  /-- the word or words it executes, and the state it executes them in -/
  | words (w x : IWord) (s : State)
  deriving DecidableEq, Repr

/-- The instruction word number i from a strand's PC on: from the buffer, else read at its home. -/
def State.wordAt (s : State) (t i : Nat) : Fetched :=
  match (s.strand t).fbuf[i]? with
  | some w => .word w none
  | none => s.fetchWord t ((s.strand t).pc + BitVec.ofNat 64 (4 * i))

/-- A fetch fault: the first instruction of a handler halts the strand (R375), any other traps (R231). A wait that the strand was
released into is over. -/
def State.fetchFault (s : State) (t : Nat) (c : BitVec 8) (val : Word) : State :=
  let s := s.leaveWait t
  let x := s.strand t
  if x.vecFetch then s.haltTrap t 6 c val x.pc else s.deliver c val x.pc

/-- The state in which a strand executes its next word or words: it leaves a wait it was released into, and a residency tag whose return
address it stands at clears first (R402). Log 9 (DEDUCED). -/
def State.issuing (s : State) (t : Nat) (late : Bool) (ws : List IWord) (ptes : List (Option Nat)) : State :=
  let ir : Word := match ws with | [w] => w.setWidth 64 | [w, x] => x ++ w | _ => 0
  let s := (List.range ws.length).foldl (fun s i => s.refetch t i) s
  let s := ({ s with cur := t, late := late, ir := ir }.leaveCell t).clearReturned t
  let x := s.strand t
  let s := ptes.zipIdx.foldl (fun s (e, i) => s.countFetch t i (x.pc + BitVec.ofNat 64 (4 * i)) e) s
  let s := s.setStrand t { x with st := .ready, wait := .none, again := false, vecFetch := false,
                                  fbuf := if x.fbuf.length < ws.length then ws else x.fbuf }
  s.modCore (coreOf t) fun c => { c with last := frameOf t }

/-- What a strand does with the word or words it has fetched: it executes them, sets an instruction of registers alone aside, or waits
for a register (R116), for its earlier instructions to retire (R253) or, with an access, for an open `fence` (R122). Log 1 (DEDUCED). Log 62
(DEDUCED). -/
def State.issueWords (s : State) (t : Nat) (late : Bool) (w x : IWord) (ptes : List (Option Nat)) : Issue :=
  let ws := if isLong w then [w, x] else [w]
  let st := s.strand t
  if st.awaitsFence && accessMajor w then .idle
  else match decode w x with
  | .error _ => .words w x (s.issuing t late ws ptes)
  | .ok i =>
    let u := Instr.uses (fctlEnables st.csr.fctl ≠ 0) i
    if (Instr.afterRetired i && !st.retired) || (Instr.accesses i && st.awaitsFence) then .idle
    else if !st.unknown u.reads then .words w x (s.issuing t late ws ptes)
    else match u.reads, u.writes with
      | some rs, some ds => .taken ((s.issuing t late ws ptes).defer ws rs ds)
      | _, _ => .idle

/-- What a strand does when the scheduler lets it issue. Log 1 (DEDUCED). -/
def State.prepare (s : State) (t : Nat) (late : Bool) : Issue :=
  if s.interrupted t then .taken (s.takeInterrupt t)
  else if !s.issuable t then .idle
  else match s.wordAt t 0 with
  | .wait => .idle
  | .trap e => .taken (({ s with cur := t }.refetch t 0).fetchFault t e.cause e.val)
  | .word w p =>
    if isLong w then
      match s.wordAt t 1 with
      | .wait => .idle
      | .trap _ => .taken ((({ s with cur := t }.refetch t 0).refetch t 1).fetchFault t 0x04 ((s.strand t).pc + 4))
      | .word x q => s.issueWords t late w x [p, q]
    else s.issueWords t late w 0 [p]

end Sys2Proof.Machine
end

