-- ==== Sys2Proof/Machine/Scalar.lean ====
section
/-! DEFINITION. The scalar instructions: the ALU major, the immediate majors, branches and jumps (R242 to R247). -/

namespace Sys2Proof.Machine

/-! ## Values (R243) -/

def clz64 (a : Word) : Word := BitVec.ofNat 64 (64 - bitLen a.toNat)
def ctz64 (a : Word) : Word := BitVec.ofNat 64 (((List.range 64).find? fun i => a.getLsbD i).getD 64)
def popc64 (a : Word) : Word := BitVec.ofNat 64 ((List.range 64).countP fun i => a.getLsbD i)
/-- Bits of a width code (R234): 8, 16 or 32. -/
def codeBits (s : BitVec 3) : Nat := 8 * 2 ^ (s.extractLsb' 0 2).toNat
def sextN (a : Word) (n : Nat) : Word := BitVec.ofInt 64 (sxN n a.toNat)
def zextN (a : Word) (n : Nat) : Word := BitVec.ofNat 64 (a.toNat % 2 ^ n)
def mulHigh (a b : Int) : Word := BitVec.ofInt 64 (a * b / 2 ^ 64)
/-- The shift amount of a register. -/
def shamt (b : Word) : Nat := (b.extractLsb' 0 6).toNat

/-- The four shifts of SHI and of SHL, SHR, SHA, ROTL. -/
def shift64 (k : BitVec 2) (a : Word) (n : Nat) : Word :=
  match k.toNat with
  | 0 => a <<< n
  | 1 => a >>> n
  | 2 => a.sshiftRight n
  | _ => a.rotateLeft n

/-- A result in d from two register values (R242). -/
def State.alu (s : State) (d a b : BitVec 5) (f : Word → Word → Word) : Out1 := .next (s.put d (f (s.rs a) (s.rs b)))

/-- DIV, DIVN, REM and REMN trap on a zero divisor, TVAL holding the dividend (R244). -/
def State.aluDiv (s : State) (d a b : BitVec 5) (f : Word → Word → Word) : Out1 :=
  if s.rs b = 0 then s.trap 0x0A (s.rs a) else s.alu d a b f

/-- A result in d from a register value and a constant (R245). -/
def State.aluImm (s : State) (d a : BitVec 5) (f : Word → Word) : Out1 := .next (s.put d (f (s.rs a)))

/-- A branch (R246). -/
def State.branch (s : State) (a b : BitVec 5) (i : BitVec 16) (c : Word → Word → Bool) : Out1 :=
  if c (s.rs a) (s.rs b) then s.transfer (s.me.pc + (i.signExtend 64 <<< 2)) else .next s.retire

/-- A jump that links in d (R247): a refused target writes no link (R230). -/
def State.jumpLink (s : State) (d : BitVec 5) (target : Word) : Out1 :=
  if target.extractLsb' 0 2 ≠ 0 then s.trap 0x03 target else .next ((s.ws d (s.me.pc + 4)).jump target)

/-! ## The ALU major -/

def execAdd (d a b : BitVec 5) (_h : BitVec 2) (s : State) : Out1 := s.alu d a b fun x y => x + y
def execSub (d a b : BitVec 5) (_h : BitVec 2) (s : State) : Out1 := s.alu d a b fun x y => x - y
def execAnd (d a b : BitVec 5) (_h : BitVec 2) (s : State) : Out1 := s.alu d a b fun x y => x &&& y
def execOr (d a b : BitVec 5) (_h : BitVec 2) (s : State) : Out1 := s.alu d a b fun x y => x ||| y
def execXor (d a b : BitVec 5) (_h : BitVec 2) (s : State) : Out1 := s.alu d a b fun x y => x ^^^ y
def execAndn (d a b : BitVec 5) (_h : BitVec 2) (s : State) : Out1 := s.alu d a b fun x y => x &&& ~~~y
def execShl (d a b : BitVec 5) (_h : BitVec 2) (s : State) : Out1 := s.alu d a b fun x y => shift64 0 x (shamt y)
def execShr (d a b : BitVec 5) (_h : BitVec 2) (s : State) : Out1 := s.alu d a b fun x y => shift64 1 x (shamt y)
def execSha (d a b : BitVec 5) (_h : BitVec 2) (s : State) : Out1 := s.alu d a b fun x y => shift64 2 x (shamt y)
def execRotl (d a b : BitVec 5) (_h : BitVec 2) (s : State) : Out1 := s.alu d a b fun x y => shift64 3 x (shamt y)
def execMin (d a b : BitVec 5) (_h : BitVec 2) (s : State) : Out1 := s.alu d a b fun x y => if x.slt y then x else y
def execMax (d a b : BitVec 5) (_h : BitVec 2) (s : State) : Out1 := s.alu d a b fun x y => if x.slt y then y else x
def execMinn (d a b : BitVec 5) (_h : BitVec 2) (s : State) : Out1 := s.alu d a b fun x y => if x.ult y then x else y
def execMaxn (d a b : BitVec 5) (_h : BitVec 2) (s : State) : Out1 := s.alu d a b fun x y => if x.ult y then y else x
def execSlt (d a b : BitVec 5) (_h : BitVec 2) (s : State) : Out1 := s.alu d a b fun x y => bit (x.slt y)
def execSltn (d a b : BitVec 5) (_h : BitVec 2) (s : State) : Out1 := s.alu d a b fun x y => bit (x.ult y)
def execSeq (d a b : BitVec 5) (_h : BitVec 2) (s : State) : Out1 := s.alu d a b fun x y => bit (x = y)
def execClz (d a : BitVec 5) (_h : BitVec 2) (s : State) : Out1 := s.aluImm d a clz64
def execCtz (d a : BitVec 5) (_h : BitVec 2) (s : State) : Out1 := s.aluImm d a ctz64
def execPopc (d a : BitVec 5) (_h : BitVec 2) (s : State) : Out1 := s.aluImm d a popc64
def execSext (d a : BitVec 5) (_h : BitVec 2) (w : BitVec 3) (s : State) : Out1 := s.aluImm d a fun x => sextN x (codeBits w)
def execZext (d a : BitVec 5) (_h : BitVec 2) (w : BitVec 3) (s : State) : Out1 := s.aluImm d a fun x => zextN x (codeBits w)
def execLea (d a b : BitVec 5) (_h : BitVec 2) (k : BitVec 3) (s : State) : Out1 := s.alu d a b fun x y => x + (y <<< k.toNat)
def execMul (d a b : BitVec 5) (_h : BitVec 2) (s : State) : Out1 := s.alu d a b fun x y => x * y
def execMulh (d a b : BitVec 5) (_h : BitVec 2) (s : State) : Out1 := s.alu d a b fun x y => mulHigh x.toInt y.toInt
def execMulhn (d a b : BitVec 5) (_h : BitVec 2) (s : State) : Out1 := s.alu d a b fun x y => mulHigh x.toNat y.toNat
def execDiv (d a b : BitVec 5) (_h : BitVec 2) (s : State) : Out1 := s.aluDiv d a b fun x y => x.sdiv y
def execDivn (d a b : BitVec 5) (_h : BitVec 2) (s : State) : Out1 := s.aluDiv d a b fun x y => x.udiv y
def execRem (d a b : BitVec 5) (_h : BitVec 2) (s : State) : Out1 := s.aluDiv d a b fun x y => x.srem y
def execRemn (d a b : BitVec 5) (_h : BitVec 2) (s : State) : Out1 := s.aluDiv d a b fun x y => x.umod y
def execCmov (d a b : BitVec 5) (_h : BitVec 2) (s : State) : Out1 :=
  .next (if s.rs a ≠ 0 then s.put d (s.rs b) else s.retire)

/-! ## The immediate majors -/

def execAddi (d a : BitVec 5) (i : BitVec 16) (s : State) : Out1 := s.aluImm d a fun x => x + sx16 i
def execAndi (d a : BitVec 5) (i : BitVec 16) (s : State) : Out1 := s.aluImm d a fun x => x &&& i.setWidth 64
def execOri (d a : BitVec 5) (i : BitVec 16) (s : State) : Out1 := s.aluImm d a fun x => x ||| i.setWidth 64
def execXori (d a : BitVec 5) (i : BitVec 16) (s : State) : Out1 := s.aluImm d a fun x => x ^^^ i.setWidth 64
def execSlti (d a : BitVec 5) (i : BitVec 16) (s : State) : Out1 := s.aluImm d a fun x => bit (x.slt (sx16 i))
def execShi (d a : BitVec 5) (k : BitVec 2) (c : BitVec 6) (s : State) : Out1 := s.aluImm d a fun x => shift64 k x c.toNat
def execLih (d : BitVec 5) (i : BitVec 16) (s : State) : Out1 := .next (s.put d (i.setWidth 64 <<< 16))
def execLix (d a : BitVec 5) (i : BitVec 16) (s : State) : Out1 := s.aluImm d a fun x => (x <<< 16) ||| i.setWidth 64

/-! ## Branches and jumps -/

def execBeq (a b : BitVec 5) (i : BitVec 16) (s : State) : Out1 := s.branch a b i fun x y => x = y
def execBne (a b : BitVec 5) (i : BitVec 16) (s : State) : Out1 := s.branch a b i fun x y => x ≠ y
def execBlt (a b : BitVec 5) (i : BitVec 16) (s : State) : Out1 := s.branch a b i fun x y => x.slt y
def execBge (a b : BitVec 5) (i : BitVec 16) (s : State) : Out1 := s.branch a b i fun x y => !x.slt y
def execBltn (a b : BitVec 5) (i : BitVec 16) (s : State) : Out1 := s.branch a b i fun x y => x.ult y
def execBgen (a b : BitVec 5) (i : BitVec 16) (s : State) : Out1 := s.branch a b i fun x y => !x.ult y
def execJ (i : BitVec 26) (s : State) : Out1 := s.transfer (s.me.pc + (i.signExtend 64 <<< 2))
def execJl (i : BitVec 26) (s : State) : Out1 := s.jumpLink 1 (s.me.pc + (i.signExtend 64 <<< 2))
def execJlr (d a : BitVec 5) (i : BitVec 16) (s : State) : Out1 := s.jumpLink d (s.rs a + (sx16 i <<< 2))

end Sys2Proof.Machine
end

