-- ==== Sys2Proof/Machine/Memory.lean ====
section
/-! DEFINITION. Memory, atomic, fence and buffer-record instructions (R281 to R294). -/

namespace Sys2Proof.Machine

/-! ## Scalar loads and stores (R282, R283) -/

/-- A scalar load (R282, R283). One to the page of the strand's own parked atomic that returns nothing fails its check and traps at once if
the page is still invalid: R157 has such an access wait behind the request, and R116 has a failing check trap; the model's reading is
that it waits to be performed, not to be checked. Log 88 (DEDUCED). -/
def State.loadScalar (s : State) (d : BitVec 5) (va : Word) (w : BitVec 3) (acq : Option (BitVec 3)) : Out1 :=
  let n := codeBits w
  match s.routeScalar (s.ctx s.cur) .load va (n / 8) with
  | .ok p _ => s.load [p] 0 (.sreg d n (w.toNat < 3)) acq
  | .invalid t | .fault t => s.raiseAccess .load t
  | .wait => s.stall

/-- A scalar store. -/
def State.storeScalar (s : State) (d : BitVec 5) (va : Word) (w : BitVec 3) (rel : Option (BitVec 3)) : Out1 :=
  let n := codeBits w
  match s.routeScalar (s.ctx s.cur) .store va (n / 8) with
  | .ok p _ => s.store [p] ((s.rs d).setWidth 576) rel [(.s d, 0)]
  | .invalid t | .fault t => s.raiseAccess .store t
  | .wait => s.stall

def execLds (d a : BitVec 5) (w : BitVec 3) (i : BitVec 13) (s : State) : Out1 := s.loadScalar d (s.rs a + i.signExtend 64) w none
def execSts (d a : BitVec 5) (w : BitVec 3) (i : BitVec 13) (s : State) : Out1 := s.storeScalar d (s.rs a + i.signExtend 64) w none
def execLdaq (d a : BitVec 5) (w c : BitVec 3) (i : BitVec 10) (s : State) : Out1 := s.loadScalar d (s.rs a + i.signExtend 64) w (some c)
def execStrl (d a : BitVec 5) (w c : BitVec 3) (i : BitVec 10) (s : State) : Out1 := s.storeScalar d (s.rs a + i.signExtend 64) w (some c)

/-! ## Buffer-record access (R284 to R289) -/

/-- The check of a whole instruction: a value, a trap, or not yet. -/
inductive Checked (α : Type) where
  | ok (x : α)
  | trap (t : Trap)
  | wait
  deriving DecidableEq, Repr

/-- One unit as it passed its check: its parts and effective format; none when it is dropped. -/
abbrev Unit1 := Option (List Part1 × Nat)

/-- Check every unit before any is performed; the lowest failing unit decides (R286). -/
def State.checkUnits (s : State) (c : Ctx) (r : BRec) (u cls : Nat) (acc : Acc) : List Int → Checked (List Unit1)
  | [] => .ok []
  | o :: os =>
    match s.bmUnit c r o u cls acc with
    | .wait => .wait
    | .invalid t | .fault t => .trap t
    | .dropped => match s.checkUnits c r u cls acc os with | .ok l => .ok (none :: l) | e => e
    | .ok ps eff _ => match s.checkUnits c r u cls acc os with | .ok l => .ok (some (ps, eff) :: l) | e => e

/-- The bytes of a unit of a class through a record: a block's size is that of the format, or of the page that holds `base`
(R235), which must be of class 5. `offs` gives the offsets of the units by their size: the first unit decides the trap. A `base` outside the
translated space has no page to give a size: 16 bytes, with zero codes 0x00, a choice of the model's that shows only when every unit is
dropped. Log 80 (DESIGN CHOICE). -/
def State.unitOf (s : State) (c : Ctx) (r : BRec) (cls : Nat) (offs : Nat → List Int) : Checked Nat :=
  if cls ≠ 5 then .ok (if cls = 4 then 1 else 2 ^ cls)
  else if Rec.fmt r ≠ 31 then .ok (if sizeClass (Rec.fmt r) = 5 then unitBytes (Rec.fmt r) else 16)
  else if vaRegion (Rec.base r) ≠ .translated then .ok 16
  else match s.basePage c r with
    | .ok _ (some e) =>
      if sizeClass (Pte.fmt e.lo).toNat = 5 then .ok (unitBytes (Pte.fmt e.lo).toNat)
      else .trap ⟨0x08, Rec.base r + BitVec.ofInt 64 ((offs 16).headD 0)⟩
    | .ok _ none => .ok 16
    | .invalid t | .fault t => .trap t
    | .wait => .wait

/-- The shadow key accesses through a record carry: while such a shadow is open, for a store while it takes new writes (R143). It is fixed
at issue: a store made before another strand opens the shadow goes home, though it drains while the shadow is open; R143 does not say,
a choice of the model's. Log 91 (DEDUCED). -/
def State.thruOf (s : State) (p : Nat) (r : BRec) (isStore : Bool) : Option ShKey :=
  match s.shadowOf p (shKeyOf p r) with
  | some h => if isStore && h.closed then none else some h.key
  | none => none

/-- Parts of the units in their places: unit i at bit i × w, scale bytes from bit 512 on. -/
def placeUnits (thru : Option ShKey) (w : Nat) (l : List Unit1) : List Part1 :=
  l.zipIdx.flatMap fun (u, i) => match u with
    | some (ps, _) => ps.map fun a => { a with thru := thru, pos := if a.pos < 512 then a.pos + i * w else 512 + 8 * i }
    | none => []

/-- The bits dropped units read as: zero codes, and scale 127 for blocks (R84, R287). -/
def dropFill (zc w u : Nat) (scales : Bool) (l : List Unit1) : BitVec 576 :=
  l.zipIdx.foldl (fun g (x, i) => match x with
    | none => g ||| BitVec.ofNat 576 (fillBytes zc u * 2 ^ (i * w) + if scales then 127 * 2 ^ (512 + 8 * i) else 0)
    | some _ => g) 0

/-- A load of several units through a record; `lanes` marks a gather. -/
def State.loadUnits (s : State) (r : BRec) (cls : Nat) (offs : Nat → List Int) (merge : Bool) (d : Nat → List Unit1 → Dst)
    (lanes : Bool := false) : Out1 :=
  let c := s.ctx s.cur
  if recRefused r false then s.trap 0x08 (Rec.base r)
  else match s.unitOf c r cls offs with
  | .trap t => s.raiseAccess .load t
  | .wait => s.stall
  | .ok u =>
    match s.checkUnits c r u cls .load (offs u) with
    | .trap t => s.raiseAccess .load t
    | .wait => s.stall
    | .ok l =>
      let ps := placeUnits (s.thruOf c.p r false) (8 * u) l
      let got := if l.any (·.isNone) then dropFill (zeroCode (s.zeroFmt c r)) (8 * u) u (cls = 5) l else 0
      s.load (if merge then mergeParts ps else ps) (got ||| s.me.kept (d u l)) (d u l) none 4 lanes

/-- A store of several units through a record; `data` holds the bytes, scale bytes from bit 512 on, of the registers `regs`; `lanes` marks
a scatter. -/
def State.storeUnits (s : State) (r : BRec) (cls : Nat) (offs : Nat → List Int) (merge : Bool) (data : BitVec 576)
    (regs : List (RegName × Nat)) (lanes : Bool := false) : Out1 :=
  let c := s.ctx s.cur
  if recRefused r false then s.trap 0x08 (Rec.base r)
  else match s.unitOf c r cls offs with
  | .trap t => s.raiseAccess .load t
  | .wait => s.stall
  | .ok u =>
    match s.checkUnits c r u cls .store (offs u) with
    | .trap t => s.raiseAccess .store t
    | .wait => s.stall
    | .ok l =>
      let ps := placeUnits (s.thruOf c.p r true) (8 * u) l
      s.store (if merge then mergeParts ps else ps) data none regs 4 lanes

/-- Offsets of consecutive units that fill 64 bytes (R285). -/
def unitOffsets (o : Word) (i : Int) (u : Nat) : List Int := (List.range (64 / u)).map fun (k : Nat) => o.toInt + i * u + k * u
/-- Offsets of the lanes of an index vector (R285). -/
def laneOffsets (v : VReg) (cls : Nat) : List Int :=
  if cls = 3 then (List.range 8).map fun i => sxN 64 (lane v 64 i) else (List.range 16).map fun i => sxN 32 (lane v 32 i)

/-- Whether a format's SLD result is sign-extended (R285). -/
def signedFmt (code : Nat) : Bool := match kindOf code with | .int true _ => true | _ => false

def execVld (d : BitVec 5) (r : BitVec 4) (o : BitVec 5) (i : BitVec 7) (_h : BitVec 2) (c : BitVec 3) (s : State) : Out1 :=
  s.loadUnits (s.rb r) c.toNat (unitOffsets (s.rs o) i.toInt) true fun _ _ => .vreg d
def execVst (d : BitVec 5) (r : BitVec 4) (o : BitVec 5) (i : BitVec 7) (_h : BitVec 2) (c : BitVec 3) (s : State) : Out1 :=
  s.storeUnits (s.rb r) c.toNat (unitOffsets (s.rs o) i.toInt) true ((s.rv d).setWidth 576) [(.v d, 0)]
def execVldg (d : BitVec 5) (r : BitVec 4) (o : BitVec 5) (_h : BitVec 2) (c : BitVec 3) (s : State) : Out1 :=
  s.loadUnits (s.rb r) c.toNat (fun _ => laneOffsets (s.rv o) c.toNat) false (fun _ _ => .vreg d) true
def execVsts (d : BitVec 5) (r : BitVec 4) (o : BitVec 5) (_h : BitVec 2) (c : BitVec 3) (s : State) : Out1 :=
  s.storeUnits (s.rb r) c.toNat (fun _ => laneOffsets (s.rv o) c.toNat) false ((s.rv d).setWidth 576) [(.v d, 0)] true
def execVldx (d : BitVec 5) (r : BitVec 4) (o : BitVec 5) (k : BitVec 3) (_h : BitVec 2) (s : State) : Out1 :=
  s.loadUnits (s.rb r) 5 (unitOffsets (s.rs o) 0) false fun u _ => .vblk d k (64 / u)
def execVstx (d : BitVec 5) (r : BitVec 4) (o : BitVec 5) (k : BitVec 3) (_h : BitVec 2) (s : State) : Out1 :=
  s.storeUnits (s.rb r) 5 (unitOffsets (s.rs o) 0) false (s.rk k ++ s.rv d) [(.v d, 0), (.k k, 512)]
def execSld (d : BitVec 5) (r : BitVec 4) (o : BitVec 5) (i : BitVec 7) (_h : BitVec 2) (c : BitVec 3) (s : State) : Out1 :=
  s.loadUnits (s.rb r) c.toNat (fun u => [(s.rs o).toInt + i.toInt * u]) false
    fun u l => .sreg d (8 * u) (match l with | [some (_, eff)] => signedFmt eff | _ => false)
def execSst (d : BitVec 5) (r : BitVec 4) (o : BitVec 5) (i : BitVec 7) (_h : BitVec 2) (c : BitVec 3) (s : State) : Out1 :=
  s.storeUnits (s.rb r) c.toNat (fun u => [(s.rs o).toInt + i.toInt * u]) false ((s.rs d).setWidth 576) [(.s d, 0)]

/-- Bring the line of a prefetched unit near (R289): the fill step for a translated RC or UO page under policy 0, 1 or 3, else a
request to the home slice. Log 17 (DEDUCED). -/
def State.prefetch (s : State) (c : Ctx) (r : BRec) (a : Part1) : State :=
  if a.cached && Rec.cache r ≠ 2 then
    match s.tlbFor c.p c.core a with
    | some e => s.fillFor c.p c.core a e
    | none => s.countLine c.p a.pte
  else s.countLine c.p a.pte

def execPfetch (r : BitVec 4) (o : BitVec 5) (i : BitVec 7) (_h : BitVec 2) (k : BitVec 3) (s : State) : Out1 :=
  let c := s.ctx s.cur
  let b := s.rb r
  if recRefused b false then .next s.retire
  else match s.unitOf c b k.toNat (unitOffsets (s.rs o) i.toInt) with
  | .ok u =>
    let s' := (unitOffsets (s.rs o) i.toInt u).foldl (fun s o => match s.bmUnit c b o u k.toNat .load with
      | .ok (a :: _) _ _ => s.prefetch c b a
      | _ => s) s
    .next s'.retire
  | _ => .next s.retire

/-! ## Atomics (R290 to R292) -/

def execAadd (d a b : BitVec 5) (t : BitVec 2) (_h : BitVec 2) (c : BitVec 3) (s : State) : Out1 := s.atomic .add t c d (s.rs a) b
def execAand (d a b : BitVec 5) (t : BitVec 2) (_h : BitVec 2) (c : BitVec 3) (s : State) : Out1 := s.atomic .and t c d (s.rs a) b
def execAor (d a b : BitVec 5) (t : BitVec 2) (_h : BitVec 2) (c : BitVec 3) (s : State) : Out1 := s.atomic .or t c d (s.rs a) b
def execAxor (d a b : BitVec 5) (t : BitVec 2) (_h : BitVec 2) (c : BitVec 3) (s : State) : Out1 := s.atomic .xor t c d (s.rs a) b
def execAmin (d a b : BitVec 5) (t : BitVec 2) (_h : BitVec 2) (c : BitVec 3) (s : State) : Out1 := s.atomic .min t c d (s.rs a) b
def execAmax (d a b : BitVec 5) (t : BitVec 2) (_h : BitVec 2) (c : BitVec 3) (s : State) : Out1 := s.atomic .max t c d (s.rs a) b
def execAminn (d a b : BitVec 5) (t : BitVec 2) (_h : BitVec 2) (c : BitVec 3) (s : State) : Out1 := s.atomic .minn t c d (s.rs a) b
def execAmaxn (d a b : BitVec 5) (t : BitVec 2) (_h : BitVec 2) (c : BitVec 3) (s : State) : Out1 := s.atomic .maxn t c d (s.rs a) b
def execAxchg (d a b : BitVec 5) (t : BitVec 2) (_h : BitVec 2) (c : BitVec 3) (s : State) : Out1 := s.atomic .xchg t c d (s.rs a) b
def execAfadd (d a b : BitVec 5) (_h : BitVec 2) (c : BitVec 3) (s : State) : Out1 := s.atomic .fadd 0 c d (s.rs a) b
def execAfaddh (d a b : BitVec 5) (t : BitVec 2) (_h : BitVec 2) (c : BitVec 3) (s : State) : Out1 := s.atomic .faddh t c d (s.rs a) b
def execAfmax (d a b : BitVec 5) (t : BitVec 2) (_h : BitVec 2) (c : BitVec 3) (s : State) : Out1 := s.atomic .fmax t c d (s.rs a) b
def execAcas (d a b : BitVec 5) (t : BitVec 2) (_h : BitVec 2) (c : BitVec 3) (s : State) : Out1 := s.atomic .cas t c d (s.rs a) b

/-! ## Fences (R293) -/

def execFence (_h : BitVec 2) (c : BitVec 3) (s : State) : Out1 := s.fenceIssue (.fence c)
def execLbfenc (_h : BitVec 2) (s : State) : Out1 := s.fenceIssue .lbfenc
def execIfenc (_h : BitVec 2) (s : State) : Out1 := s.fenceIssue .ifenc
def execEfenc (_h : BitVec 2) (s : State) : Out1 := s.fenceIssue .efenc

/-! ## Buffer records (R294) -/

/-- The four 8-byte parts of a record in memory, checked as LDS or STS of `i64` at an address that is a multiple of 32 (R294). -/
def State.recParts (s : State) (acc : Acc) (va : Word) : Checked (List Part1) :=
  let c := s.ctx s.cur
  if s.unsorted c va then .trap ⟨acc.cause, va⟩
  else if va.toNat % 32 ≠ 0 then .trap ⟨0x03, va⟩
  else
    (List.range 4).foldr (fun i r => match s.route c acc (va + BitVec.ofNat 64 (8 * i)) 8 0 with
      | .ok p _ => match r with | .ok l => .ok ({ p with pos := 64 * i } :: l) | e => e
      | .invalid t | .fault t => .trap t
      | .wait => .wait) (.ok [])

def execBrld (d : BitVec 4) (a : BitVec 5) (_h : BitVec 2) (s : State) : Out1 :=
  match s.recParts .load (s.rs a) with
  | .ok ps => s.load ps 0 (.brec d) none
  | .trap t => s.raiseAccess .load t
  | .wait => s.stall
def execBrst (d : BitVec 4) (a : BitVec 5) (_h : BitVec 2) (s : State) : Out1 :=
  match s.recParts .store (s.rs a) with
  | .ok ps => s.store ps ((s.rb d).setWidth 576) none [(.b d, 0)]
  | .trap t => s.raiseAccess .store t
  | .wait => s.stall

/-- A record with a field replaced. -/
def setField (r : BRec) (lo n : Nat) (v : Word) : BRec :=
  let m : BRec := BitVec.ofNat 256 ((2 ^ n - 1) * 2 ^ lo)
  (r &&& ~~~m) ||| (BitVec.ofNat 256 (v.toNat % 2 ^ n * 2 ^ lo))

def execBrsetf (d : BitVec 4) (a f : BitVec 5) (_h : BitVec 2) (s : State) : Out1 :=
  match Rec.field f with
  | none => s.trapIr 0x01
  | some (lo, n, signed) =>
    let v := s.rs a
    let fits := if signed then decide (sxN n v.toNat = v.toInt) else decide (v.toNat < 2 ^ n)
    if fits then .next (s.setMe ((s.me.wb d (setField (s.rb d) lo n v)).advance 4)) else s.trap 0x05 v
def execBrgetf (d : BitVec 5) (a : BitVec 4) (f : BitVec 5) (_h : BitVec 2) (s : State) : Out1 :=
  match Rec.field f with
  | none => s.trapIr 0x01
  | some (lo, n, signed) =>
    let x := (s.rb a).toNat / 2 ^ lo % 2 ^ n
    .next (s.put d (if signed then BitVec.ofInt 64 (sxN n x) else BitVec.ofNat 64 x))
def execBrcpy (d a : BitVec 4) (_h : BitVec 2) (s : State) : Out1 := .next (s.setMe ((s.me.wb d (s.rb a)).advance 4))

end Sys2Proof.Machine
end

