-- ==== Sys2Proof/Machine/Queue.lean ====
section
/-! DEFINITION. Queue registers (R226, R227, R295). -/

namespace Sys2Proof.Machine

/-- Whether a read of a queue register is misuse (R227). -/
def Strand.readMisuse (x : Strand) (n : BitVec 3) : Bool :=
  match n.toNat with
  | 3 | 4 | 5 => !x.paired
  | 6 => x.task.handler.isNone
  | _ => true

/-- Take the oldest entry of q3 to q6 into a register, and retire; q6 refills from its firing's payload (R220). The first read of a firing
whose unsequenced payloads came from several senders is recorded (R219). -/
def State.takeEntry (s : State) (n : BitVec 3) (w : Strand → Word → Strand) : State :=
  let x := s.me
  match x.entries n.toNat with
  | [] => s
  | v :: rest =>
    let s' := s.setMe ((w { x with q := x.q.set n.toNat rest n.isLt } v).advance 4)
    if n = 6 then
      let s' := if x.task.mixed then s'.dcause (s.partOf s.cur) 12 x.pc else s'
      (s'.setMe { s'.me with task := { s'.me.task with mixed := false } }).refill s.cur
    else s'

/-- Block on a queue register (R204). -/
def State.blockOn (s : State) (w : Wait) : Out1 := .next (s.setMe { s.me with st := .blocked, wait := w, slow := false })

/-- A blocked partner may go on once there is room or an entry (R204); one that moves goes on where it lands. One that is halted keeps its
wait and executes the instruction again when it is released (R203). -/
def State.unblock (s : State) (t : Nat) (f : Wait → Bool) : State :=
  let x := s.strand t
  if !f x.wait then s
  else if x.st = .blocked then (s.setStrand t { x with wait := .none, again := false, st := .ready }).joinWait t
  else if x.st = .moving && x.rest = .blocked then s.setStrand t { x with wait := .none, rest := .ready }
  else s

/-- Pair a surrogate or check task with the other of its tile as it starts (R370): the first of the two is paired with a strand to
come, the second takes what the first has written. Log 37 (DEDUCED). -/
def State.pairTile (s : State) (t l i w : Nat) : State :=
  let p := s.partOf t
  let other : Nat := 1 - w
  match (s.part p).tile? l i with
  | none => s
  | some y =>
    let s := s.modTile p l i fun y => { y with hold := [] }
    let s := match (s.strand t).partner.bind (s.rankPlace p) with
      | some v => if (s.strand v).partner = some (s.strand t).rank then s.modStrand v fun x => { x with paired := false } else s
      | none => s
    let put : Strand → Strand := fun x => y.hold.foldl (fun (x : Strand) e =>
      { x with q := x.q.set e.1.toNat (x.q.get e.1.toFin ++ [e.2]) e.1.isLt }) { x with partner := none, paired := true }
    match s.roleAt p (.tile l i other) with
    | some u =>
      let rk := (s.strand t).rank
      let s := s.modStrand t fun x => { put x with partner := some (s.strand u).rank }
      s.modStrand u fun x => if x.paired && x.partner.isNone then { x with partner := some rk } else x
    | none => s.modStrand t put

/-- Room appears in queue n of a strand: its writer goes on. -/
def State.roomAppears (s : State) (t : Nat) (n : BitVec 3) : State :=
  match s.partnerOf t with
  | some u => s.unblock u fun w => w = .qwrite (n - 3)
  | none => s

def execQrd (d : BitVec 5) (_h : BitVec 2) (n : BitVec 3) (s : State) : Out1 :=
  let x := s.me
  if x.readMisuse n || (n = 6 && (x.entries 6).isEmpty) then s.trap 0x0C 0
  else if (x.entries n.toNat).isEmpty then s.blockOn (.qread n)
  else
    let s' := s.takeEntry n fun x v => x.ws d v
    .next (if n = 6 then s' else s'.roomAppears s.cur n)

def execQwr (a : BitVec 5) (_h : BitVec 2) (n : BitVec 3) (s : State) : Out1 :=
  let x := s.me
  let v := s.rs a
  if n = 7 then
    if (x.entries 7).length ≥ 8 then s.trap 0x0C 0
    else .next (s.setMe ({ x with q := x.q.set 7 (x.entries 7 ++ [v]) }.advance 4))
  else if n.toNat ≥ 3 || !x.paired then s.trap 0x0C 0
  else match s.heldFor s.cur with
    | some (l, i, _) =>
      if s.queueCount s.cur n ≥ 8 then s.blockOn (.qwrite n)
      else .next (s.modTile (s.partOf s.cur) l i fun y => { y with hold := y.hold ++ [(n + 3, v)] }).retire
    | none => match s.partnerOf s.cur with
      | some u =>
        if s.queueCount s.cur n ≥ 8 then s.blockOn (.qwrite n)
        else .next ((s.post s.cur x.partner u false (.entry (n + 3) v)).retire)
      | none => s.trap 0x0C 0

def execQtry (d a : BitVec 5) (_h : BitVec 2) (n : BitVec 3) (s : State) : Out1 :=
  let x := s.me
  if x.readMisuse n then s.trap 0x0C 0
  else
    let s := s.event 6
    if (x.entries n.toNat).isEmpty then .next (s.put a 0)
    else
      let s' := s.takeEntry n fun x v => (x.ws d v).ws a 1
      .next (if n = 6 then s' else s'.roomAppears s.cur n)

def execQcnt (d : BitVec 5) (_h : BitVec 2) (n : BitVec 3) (s : State) : Out1 :=
  .next ((s.event 2).put d (BitVec.ofNat 64 (s.queueCount s.cur n)))

/-- Name a partner (R226): the pairing becomes valid when each has named the other, and an earlier partner's ends. -/
def State.pairWith (s : State) (rk : BitVec 16) : State :=
  let t := s.cur
  let x := s.me
  let s := match s.partnerOf t with
    | some u => if (s.strand u).partner = some x.rank || (s.strand u).tilePair.isSome then s.modStrand u fun y => { y with paired := false } else s
    | none => s
  if rk = x.rank then s.modStrand t fun y => { y with partner := none, paired := false }
  else match s.rankPlace (s.partOf t) rk with
    | none => s.modStrand t fun y => { y with partner := some rk, paired := false }
    | some u =>
      let both := (s.strand u).partner = some x.rank
      let s := s.modStrand t fun y => { y with partner := some rk, paired := both }
      if both then s.modStrand u fun y => { y with paired := true } else s

/-- The destination word is resolved first, so one that fails raises 0x05 also while q0 to q5 hold an entry: which of the causes of R227 and
R295 comes first is a choice of the model's. Log 95 (DESIGN CHOICE). -/
def execQpair (a : BitVec 5) (_h : BitVec 2) (s : State) : Out1 :=
  let w := s.rs a
  let p := s.partOf s.cur
  match s.resolve (coreOf s.cur) p w with
  | none => s.trap 0x05 w
  | some (rk, e) =>
    if entryState e = 2 || (List.range 6).any fun n => s.queueCount s.cur (BitVec.ofNat 3 n) ≠ 0 || ((s.me.q.toList.getD n []).length ≠ 0)
    then s.trap 0x0C 0
    else .next ((s.niFill (coreOf s.cur) p rk).pairWith rk).retire

end Sys2Proof.Machine
end

