-- ==== Sys2Proof/Machine/System.lean ====
section
/-! DEFINITION. The SYS major: CSR operations (R248 to R251), SYSC, TRAP, ERET, BRK, HALTG and WFI (R252 to R256). -/

namespace Sys2Proof.Machine

/-! ## CSR values -/

/-- `STRAND` (R207). -/
def State.strandCsr (s : State) (t : Nat) : Word :=
  let x := s.strand t
  BitVec.ofNat 64 ((match x.task.handler with | some j => j.toNat * 2 ^ 9 + 2 ^ 8 | none => 0)
    + x.task.prio.toNat * 2 ^ 6 + x.level.toNat * 2 ^ 4 + frameOf t)

/-- `COORD` (R32). -/
def coordWord (t : Nat) : Word :=
  BitVec.ofNat 64 (dieOfCore (coreOf t) * 2 ^ 14 + clusterInDie (coreOf t) * 2 ^ 10 + coreInCluster (coreOf t) * 2 ^ 4 + frameOf t)

/-- The value of a CSR for a strand (R251). -/
def State.csrValue (s : State) (t : Nat) (n : BitVec 12) : Word :=
  let x := s.strand t
  match n.toNat with
  | 0 => s.strandCsr t
  | 1 => coordWord t
  | 2 => x.rank.setWidth 64
  | 3 => (s.core (coreOf t)).stage.setWidth 64
  | 4 => x.task.path
  | 8 => s.cycle
  | k => if partKept n then (s.part (s.partOf t)).csr k else x.csr.read k

/-- The DCAUSE event of a read that returns a value (R175). -/
def csrEvent (n : BitVec 12) : Option (Fin 16) :=
  match n.toNat with
  | 8 => some 1
  | 1 => some 5
  | 0x221 | 0x108 => some 15
  | _ => none

/-- The four operations on a value; a w1c register takes ones where they clear (R248). -/
inductive CsrOp where
  | rd | wr | set_ | clr
  deriving DecidableEq, Repr

/-- Log 68 (DEDUCED). -/
def CsrOp.new (op : CsrOp) (n : BitVec 12) (old a : Word) : Word :=
  match op with
  | .rd => old
  | .wr => a
  | .set_ => if n.toNat = 0x109 then a else old ||| a
  | .clr => if n.toNat = 0x109 then ~~~a else old &&& ~~~a

/-- A write of a CSR by a strand under the register's own rule: none where it refuses the value. Log 68 (DEDUCED). -/
def State.csrStore (s : State) (t : Nat) (n : BitVec 12) (v : Word) : Option State :=
  let p := s.partOf t
  if n.toNat = 0x72 then some (s.dcause p 12 (s.strand t).pc)
  else if partKept n then
    ((s.part p).csrWrite n.toNat v (s.quietFor p (some t))).map fun x =>
      let s := s.setPart p x
      if n.toNat = 0x240 then s.modStrand t fun x => { x with fbuf := [] } else s
  else s.strandCsrWrite t n v

/-- The read and the write of a CSR operation, in one step (R249). -/
def State.csrStep (s : State) (op : CsrOp) (d : BitVec 5) (n : BitVec 12) (a : Word) : Out1 :=
  let old := s.csrValue s.cur n
  let ev : State → State := fun s' => if d = 0 then s' else match csrEvent n with | some e => s'.event e | none => s'
  if op = .rd then .next ((ev s).put d old)
  else
    let v := op.new n old a
    match s.csrStore s.cur n v with
    | none => s.trap 0x05 v
    | some s' => .next ((ev s').put d old)

/-- A CSR operation (R248): assignment, levels, and the order of partition-kept registers, which are read as by an SO access (R249). A read
or a write of FCTL waits for the flags of earlier float instructions; those of a returning atomic may merge before it or after (R249). -/
def State.csrOp (s : State) (op : CsrOp) (d : BitVec 5) (n : BitVec 12) (a : Word) : Out1 :=
  let lvl := s.me.level.toNat
  match csrLevels n with
  | none => s.trapIr 0x01
  | some (r, w) =>
    if lvl < r then s.trapIr 0x02
    else match op, w with
      | .rd, _ =>
        if (partKept n && !s.me.soReady) || (n.toNat = 0x10 && s.me.flagsDue) then s.stall else s.csrStep op d n a
      | _, none => s.trapIr 0x01
      | _, some w =>
        if lvl < w then s.trapIr 0x02
        else if partKept n then s.afterRelease fun s => s.csrStep op d n a
        else if n.toNat = 0x10 && s.me.flagsDue then s.stall
        else s.csrStep op d n a

def execCsrrd (d : BitVec 5) (n : BitVec 12) (s : State) : Out1 := s.csrOp .rd d n 0
def execCsrwr (d a : BitVec 5) (n : BitVec 12) (s : State) : Out1 := s.csrOp .wr d n (s.rs a)
def execCsrset (d a : BitVec 5) (n : BitVec 12) (s : State) : Out1 := s.csrOp .set_ d n (s.rs a)
def execCsrclr (d a : BitVec 5) (n : BitVec 12) (s : State) : Out1 := s.csrOp .clr d n (s.rs a)

/-! ## System operations (R252, R253) -/

/-- A trap whose return goes to the next instruction. -/
def State.trapNext (s : State) (c : BitVec 8) (val : Word) : Out1 := .next (s.deliver c val (s.me.pc + 4))

def execSysc (c : BitVec 12) (s : State) : Out1 := s.trapNext 0x11 (c.setWidth 64)
def execTrap (c : BitVec 12) (s : State) : Out1 := s.trapNext 0x10 (c.setWidth 64)
def execEret (s : State) : Out1 := s.eret

/-- Signal every group of a set (R395). -/
def State.signalGroups (s : State) (p : Nat) (gs : BitVec 16) : State :=
  (List.range 16).foldl (fun s g => if gs.getLsbD g then s.groupStop p g else s) s

def execBrk (s : State) : Out1 :=
  let dbg := s.myCore.cdbg
  if dbg.getLsbD 0 then
    let pc := s.me.pc
    .next ((s.retire.haltStrand s.cur 3 pc).signalGroups (s.partOf s.cur) (dbg.extractLsb' 32 16))
  else s.trap 0x12 0

def execHaltg (g : BitVec 4) (s : State) : Out1 :=
  if s.me.level = 0 then s.trapIr 0x02
  else
    let s' := s.retire
    let s' := if s.myCore.cdbg.getLsbD (32 + g.toNat) then s'.haltStrand s.cur 4 (s.me.pc + 4) else s'
    .next (s'.groupStop (s.partOf s.cur) g.toNat)

/-- Log 69 (DEDUCED). -/
def execWfi (s : State) : Out1 :=
  .next (s.setMe { s.me.advance 4 with wait := if s.me.irq.isSome then .none else .wfi })

end Sys2Proof.Machine
end

