-- ==== Sys2Proof/Machine/Spawn.lean ====
section
/-! DEFINITION. Task records, their checks, their placement and their delivery (R208 to R211, R171 to R173), and what the end of a
task tells the Bolter and the Assay (R365, R370). -/

namespace Sys2Proof.Machine

/-- A record without arguments (R208). -/
def TRec.new (code frame : Word) (level prio : BitVec 2) (cw : BitVec 30) (cwCore : Nat) (path : Word) (launches : List Nat) : TRec :=
  { code := code, frame := frame, seq := 0, level := level, prio := prio, cw := cw, path := path, a0 := 0, a1 := 0, a2 := 0, a3 := 0,
    cwCore := cwCore, handler := none, words := [], mixed := false, launches := launches, role := .none, b0 := 0, tag := none, slot := none }

/-- The completion word of a record as R146 lays it out. -/
def TRec.word (r : TRec) : Word := r.cw.setWidth 64

/-- The cell a completion word names, as core and index (R146). -/
def State.cwPlace (s : State) (p cwCore : Nat) (w : Word) : Option (Nat × Nat) :=
  if !cwValid w then none
  else if cwRemote w then (s.rankValid cwCore p (cwRank w)).map fun e => (coreOf (entryPlace e), (cwCell w).toNat)
  else some (cwCore, (cwCell w).toNat)

/-- Whether a completion word names an ordered cell. -/
def State.namesOrdered (s : State) (p cwCore : Nat) (w : Word) : Bool :=
  match s.cwPlace p cwCore w with
  | some (c, j) => (s.cell c j).ordered
  | none => false

/-- Whether a code word's address is no task code (R208, R209). -/
def badCode (code : Word) : Bool := code.extractLsb' 0 2 ≠ 0 || code.extractLsb' 56 8 ≠ 0

/-- The checks spawn makes of a record for a strand (R209). -/
def State.checkRec (s : State) (t : Nat) (r : TRec) : Option Trap :=
  let p := s.partOf t
  if badCode r.code then some ⟨0x03, r.code⟩
  else if r.level.toNat > (s.strand t).level.toNat then some ⟨0x02, r.code⟩
  else match s.checkCw r.cwCore p r.word with
    | some e => some e
    | none => if cwRemote r.word && s.namesOrdered p r.cwCore r.word then some ⟨0x0B, r.word⟩ else none

/-- Stamp a record that names an ordered cell (R209). -/
def State.stamp (s : State) (p : Nat) (r : TRec) : State × TRec :=
  match s.cwPlace p r.cwCore r.word with
  | some (c, j) =>
    let x := s.cell c j
    if x.ordered then (s.setCell c j { x with spawned := x.spawned + 1 }, { r with seq := x.spawned }) else (s, r)
  | none => (s, r)

/-- Number of cores of a partition, and core i of R173. -/
def State.coreByIndex (s : State) (p i : Nat) : Nat := (maskDies (s.mask p)).getD (i / 768) 0 * 768 + i % 768
/-- The core a path names in strict mode (R173). -/
def State.pathCore (s : State) (p : Nat) (path : Word) : Nat :=
  s.coreByIndex p (path.toNat * (768 * (maskDies (s.mask p)).length) / 2 ^ 64)
/-- Where a forked task is queued (R210). -/
def State.forkCore (s : State) (p core : Nat) (path : Word) : Nat := if (s.part p).dmode then s.pathCore p path else core

/-- Deliver a record to a core: directly when the creator stands there, else through the network (R209, R211). -/
def State.deliverRec (s : State) (p sender home : Nat) (core : Nat) (r : TRec) : State :=
  let (s, r) := s.stamp p r
  if core = home then s.queueRecord sender core r else s.post sender none (core * 16) false (.record r)

/-- Deliver records in order (R209). -/
def State.deliverRecs (s : State) (p sender home : Nat) (rs : List (Nat × TRec)) : State :=
  rs.foldl (fun s r => s.deliverRec p sender home r.1 r.2) s

/-- Whether a record of a strand for its own core still stands outside the core's queues (R211). -/
def State.spawnHeld (s : State) (t : Nat) : Bool :=
  s.net.any fun m => m.sender = t && coreOf m.dest = coreOf t && match m.body with | .record _ => true | _ => false

/-- A spawning instruction of n bytes retires once its records for its own core have entered; until then the strand stalls at it (R211). -/
def State.spawnRetire (s : State) (n : Nat) : State :=
  if s.spawnHeld s.cur then s.setMe { s.me with wait := .spawn n } else s.setMe (s.me.advance n)

/-- spawn of R209 for the executing strand, by an instruction of n bytes. -/
def State.spawn (s : State) (rs : List (Nat × TRec)) (before : State → State) (n : Nat) : Out1 :=
  match rs.findSome? fun r => s.checkRec s.cur r.2 with
  | some e => s.raise e
  | none => s.afterRelease fun s => .next (((before s).deliverRecs (s.partOf s.cur) s.cur (coreOf s.cur) rs).spawnRetire n)

/-- The path of ordinal o of the executing task (R171). -/
def Strand.childPath (x : Strand) (o : Word) : Word := m64s x.task.path [o + 1]

/-! ## What the end of a task tells its launcher (R365, R370) -/

def Part.set? (x : Part) (n : BitVec 4) : Option BoltSet := (x.sets.find? fun b => b.1 = n.toNat).map (·.2)

/-- A record's state before it is put. -/
def BoltRec.new : BoltRec := { done := 0, running := none }
/-- Every stage of a record is done (R365). -/
def BoltSet.over (b : BoltSet) (r : BoltRec) : Bool := (List.range b.n).all fun i => r.done.getLsbD i

/-- The path of stage s of record i (R364). -/
def BoltSet.path (b : BoltSet) (i st : Nat) (done : BitVec 8) : Word :=
  m64s b.salt [BitVec.ofNat 64 i, BitVec.ofNat 64 (st + 1), done.setWidth 64 + 1]

/-- Whether a strand's task is the running stage task of a record (R365). -/
def State.stageRuns (s : State) (t : Nat) (set : BitVec 4) (i st : Nat) : Bool :=
  match (s.part (s.partOf t)).set? set with
  | some b =>
    let r := b.records.get BoltRec.new i
    r.running = some st && (s.strand t).task.path = b.path i st r.done
  | none => false

/-- Whether the turn of a pair has come (R366). -/
def BoltSet.turn (b : BoltSet) (i st : Nat) : Bool :=
  (List.range i).all (fun j => b.over (b.records.get BoltRec.new j)) && (List.range st).all fun k => (b.records.get BoltRec.new i).done.getLsbD k

/-- Strands parked in STGSEQ whose turn has come go on (R366). -/
def State.wakeTurns (s : State) (p : Nat) (set : BitVec 4) : State :=
  match (s.part p).set? set with
  | none => s
  | some b =>
    (s.strandsOf p).foldl (fun s t =>
      match (s.strand t).wait with
      | .turn n i st => if n = set && b.turn i st then s.endWait t fun x => x.advance 8 else s
      | _ => s) s

/-- Take a stage's outcome (R365): done bits, statistics, and the finish of the record. -/
def State.stageReport (s : State) (p : Nat) (set : BitVec 4) (i st : Nat) (reject : Bool) : State :=
  match (s.part p).set? set with
  | none => s
  | some b =>
    let r := b.records.get BoltRec.new i
    let r' : BoltRec := { done := if reject then BitVec.allOnes 8 else r.done ||| (1#8 <<< st), running := none }
    let k := i / 4096 * 16 + st * 2 + (if reject then 1 else 0)
    let b' := { b with records := b.records.set i r', stats := b.stats.set k (b.stats.get 0 k + 1) }
    let s := (s.modPart p fun x => { x with sets := x.sets.set set.toNat b' }).wakeTurns p set
    if b.over r' then s.completeCw (engineSender 0) b.cwCore p b.cw b.by_ [] none false else s

/-- The end of a task that the Bolter or the Assay started (R365, R370). A stage task that reported nothing counts as a reject. -/
def State.roleEnded (s : State) (t : Nat) : State :=
  let p := s.partOf t
  let x := s.strand t
  match x.task.role with
  | .none => s
  | .stage set i st =>
    if s.stageRuns t set i st then
      (s.stageReport p set i st true).report
        { celled := false, parked := false, src := 6, inner := 0, cause := 0x14, pc := x.pc, addr := BitVec.ofNat 64 i, part := p, rank := x.rank,
          cw := 0, info := 0 }
    else s
  | .tile l i w =>
    let s := s.modTile p l i fun y => if w = 0 then { y with sDone := true } else if w = 1 then { y with cDone := true } else { y with eDone := true }
    if w = 2 then s else s.modStrand t fun x => if x.partner.isNone then { x with paired := false } else x

end Sys2Proof.Machine
end

