-- ==== Sys2Proof/Machine/Task.lean ====
section
/-! DEFINITION. The TASK major (R322 to R330, R164 to R166), RFORK (R331, R332, R223) and the moves of a strand between cores (R30,
R33). -/

namespace Sys2Proof.Machine

/-! ## FORK, DONE, YIELD (R323, R215, R324) -/

/-- FORK with a priority. -/
def State.fork (s : State) (d a b : BitVec 5) (prio : BitVec 2) : Out1 :=
  let x := s.me
  let cw := s.rs d
  if cw.extractLsb' 30 34 ≠ 0 then s.trap 0x0B cw
  else
    let core := coreOf s.cur
    let path := x.childPath x.task.ordinal
    let r := TRec.new (s.rs a) (s.rs b) x.level prio (cw.extractLsb' 0 30) core path x.task.launches
    s.spawn [(s.forkCore (s.partOf s.cur) core path, r)]
      (fun s => s.setMe { s.me with task := { s.me.task with ordinal := s.me.task.ordinal + 1 } }) 4

def execFork (d a b : BitVec 5) (_h : BitVec 2) (s : State) : Out1 := s.fork d a b s.me.task.prio
def execForkP (d a b : BitVec 5) (_h : BitVec 2) (p : BitVec 2) (s : State) : Out1 := s.fork d a b p

/-- Send a decrement of a strand: to a cell of its own core without the network, else through it (R218, R220, R326). Log 12 (DEDUCED). -/
def State.sendDec (s : State) (cwCore : Nat) (cw : Word) (dec : BitVec 8) (ws : List Word) (seq : Option (BitVec 16)) : State :=
  let t := s.cur
  if cwRemote cw then s.sendRank t (cwRank cw) (.decrement (cwCell cw) dec ws seq false)
  else if cwCore = coreOf t then s.localDec t cwCore (cwCell cw) dec ws seq false
  else s.post t none (cwCore * 16) false (.decrement (cwCell cw) dec ws seq false)

/-- Whether a completion word still resolves for its sender (R31). Log 23 (DEDUCED). -/
def State.cwGone (s : State) (cw : Word) : Bool :=
  cwRemote cw && (s.rankValid (coreOf s.cur) (s.partOf s.cur) (cwRank cw)).isNone

/-- The n oldest words of q7. -/
def Strand.take7 (x : Strand) (n : Nat) : List Word × Strand := (x.q[7].take n, { x with q := x.q.set 7 (x.q[7].drop n) })

/-- The end of the task of the executing strand (R215). Log 23 (DEDUCED). -/
def State.endTask (s : State) (n : Nat) : State :=
  let t := s.cur
  let x := s.me
  let (ws, x') := x.take7 n
  let cw : Word := x.task.cw.setWidth 64
  let s := s.setMe x'
  let s := if cwValid cw then
      s.sendDec x.task.cwCore cw 1 ws (if s.namesOrdered (s.partOf t) x.task.cwCore cw then some x.task.seq else none)
    else s
  let s := (s.roleEnded t).dropTag t
  let s := s.modStrand t fun x =>
    { x with st := .idle, fbuf := [], q := (x.q.set 6 []).set 7 [],
             task := { x.task with words := [], mixed := false, handler := none, role := .none, launches := [], cw := 0 } }
  s.reap (s.partOf t)

def execDone (n : BitVec 5) (_h : BitVec 2) (s : State) : Out1 :=
  let x := s.me
  let cw : Word := x.task.cw.setWidth 64
  if n.toNat > 8 || n.toNat > x.q[7].length || !x.q[3].isEmpty || !x.q[4].isEmpty || !x.q[5].isEmpty || (n ≠ 0 && !cwValid cw) then
    s.trap 0x0C 0
  else if cwValid cw && s.cwGone cw then s.trap 0x05 cw
  else if s.cmds.any (·.by_ = s.cur) || !x.held.isEmpty then s.stall
  else s.afterRelease fun s => .next (s.endTask n.toNat)

/-- YIELD leaves residence when another strand of the core waits for it. -/
def execYield (_h : BitVec 2) (s : State) : Out1 :=
  let core := coreOf s.cur
  let waits := (List.range 16).any fun f => (s.strand (core * 16 + f)).waits
  if waits then .next ((s.setMe { s.me.advance 4 with resident := false }).joinWait s.cur) else .next s.retire

/-! ## Join cells (R325 to R328, R218) -/

/-- Raise a trap in a strand that does not execute: a forced JCINIT of the cell it waits on (R218). -/
def State.trapIn (s : State) (t : Nat) (c : BitVec 8) (val : Word) : State :=
  let cur := s.cur
  { { s with cur := t }.deliver c val (s.strand t).pc with cur := cur }

/-- Strands that wait on a cell leave `jcwait` with a trap (R218, R222); one that moves takes it on its way. -/
def State.evict (s : State) (core : Nat) (j : BitVec 12) : State :=
  ((s.strands.map (·.1)).filter fun t => (s.strand t).waitsOn core j).foldl (fun s t =>
    (s.endWait t id).trapIn t 0x0B (BitVec.ofNat 64 (j.toNat + 2 ^ 63))) s

/-- JCINIT, forced or not. Log 10 (DEDUCED). Log 11 (DEDUCED). -/
def State.jcinit (s : State) (d a b : BitVec 5) (force : Bool) : Out1 :=
  let t := s.cur
  let c := s.ctx t
  let dj := s.rs d
  let n := s.rs a
  let h := s.rs b
  let j := dj.extractLsb' 0 12
  if force && s.me.level = 0 then s.trapIr 0x02
  else if dj.extractLsb' 14 50 ≠ 0 then s.trapIr 0x0B
  else if n.extractLsb' 32 32 ≠ 0 then s.trapIr 0x0B
  else
    let init : State → Word → Word → Out1 := fun s code frame =>
      let o := s.me.task.ordinal
      let s := s.setMe { s.me with task := { s.me.task with ordinal := o + 1 } }
      let x := s.cell c.core j.toNat
      if !force && (x.parked || !x.arrivals.isEmpty) then s.trap 0x0B (j.setWidth 64)
      else
        let s := if force then s.evict c.core j else s
        let y : Cell :=
          { count := n.extractLsb' 0 32, initial := n.extractLsb' 0 32, ordered := dj.getLsbD 12, reinit := dj.getLsbD 13, failed := false,
            parked := false, code := code, frame := frame, arrivals := [], spawned := 0, next := 0, hpath := s.me.task.path, hord := o,
            firing := 0, launches := s.me.task.launches }
        .next ((s.setCell c.core j.toNat y).retire.reap c.p)
    if h = 0 then init s 0 0
    else if h.toNat % 16 ≠ 0 then s.trap 0x03 h
    else match s.routeScalar c .load h 8, s.routeScalar c .load (h + 8) 8 with
    | .invalid e, _ | .fault e, _ => s.raiseAccess .load e
    | .wait, _ => s.stall
    | _, .invalid e | _, .fault e => s.raiseAccess .load e
    | _, .wait => s.stall
    | .ok p _, .ok q _ =>
      match s.loadNow [p, q] with
      | none => s.stall
      | some (s, vs) =>
        let code := BitVec.ofNat 64 (vs.getD 0 0)
        if code.extractLsb' 56 6 ≠ 0 || code.extractLsb' 62 2 = 3 then s.trapIr 0x0B
        else if (code.extractLsb' 62 2).toNat > s.me.level.toNat then s.trapIr 0x02
        else init s code (BitVec.ofNat 64 (vs.getD 1 0))

def execJcinit (d a b : BitVec 5) (_h : BitVec 2) (s : State) : Out1 := s.jcinit d a b false
def execJcinitForce (d a b : BitVec 5) (_h : BitVec 2) (s : State) : Out1 := s.jcinit d a b true

/-- Log 10 (DEDUCED). -/
def execJcdec (d a n : BitVec 5) (_h : BitVec 2) (s : State) : Out1 :=
  let cw := s.rs d
  let amt := s.rs a
  match s.checkCw (coreOf s.cur) (s.partOf s.cur) cw with
  | some e => s.raise e
  | none =>
    if !cwValid cw then s.trap 0x0B cw
    else if amt.extractLsb' 8 56 ≠ 0 then s.trapIr 0x0B
    else if n.toNat > 8 || n.toNat > s.me.q[7].length then s.trap 0x0C 0
    else s.afterRelease fun s =>
      let (ws, x) := s.me.take7 n.toNat
      .next ((s.setMe x).retire.sendDec (coreOf s.cur) cw (amt.extractLsb' 0 8) ws none)

/-- The cell a register names, or the trap of R327. -/
def execJcwait (a : BitVec 5) (_h : BitVec 2) (s : State) : Out1 :=
  let w := s.rs a
  let core := coreOf s.cur
  let c := s.cell core (w.extractLsb' 0 12).toNat
  if w.extractLsb' 12 52 ≠ 0 || c.reinit then s.trap 0x0B w
  else if c.count = 0 then .next (s.retire.dropClean core fun _ => true)
  else
    .next ((s.setCell core (w.extractLsb' 0 12).toNat { c with parked := true }).setMe
      { s.me with st := .parked, wait := .cell core (w.extractLsb' 0 12) })

def execJcrd (d a : BitVec 5) (_h : BitVec 2) (sc : BitVec 3) (s : State) : Out1 :=
  let w := s.rs a
  if w.extractLsb' 12 52 ≠ 0 then s.trap 0x0B w
  else .next ((s.event 0).put d ((s.cell (coreOf s.cur) (w.extractLsb' 0 12).toNat).word (8 * sc.toNat)))

def execSelf (d a : BitVec 5) (_h : BitVec 2) (s : State) : Out1 :=
  let w := s.rs a
  if w.extractLsb' 12 52 ≠ 0 then s.trap 0x0B w
  else .next (s.put d ((s.me.rank.setWidth 64 <<< 14) ||| 0x3000 ||| w))

/-! ## Seals (R165, R166) -/

/-- Log 24 (DEDUCED). -/
def execSealg (d a b : BitVec 5) (_h : BitVec 2) (s : State) : Out1 :=
  let t := s.cur
  let core := coreOf t
  let p := s.partOf t
  let dw := s.rs d
  let cw := s.rs b
  let k := (s.rs a).extractLsb' 0 32
  match s.resolve core p dw with
  | none => s.trap 0x05 dw
  | some (rk, _) =>
    match s.checkCw core p cw with
    | some e => s.raise e
    | none =>
      if k = 0 || !s.me.heldKeys.contains k then s.trap 0x06 (k.setWidth 64)
      else if s.me.pend.any (·.parked) then s.stall
      else
        let pc := s.me.pc
        let s := s.modStrand t fun x =>
          { x with csr := { x.csr with sealk := x.csr.sealk.map fun w => if w.extractLsb' 0 32 = k then 0 else w } }
        .next (s.retire.sendRank t rk (.handover k cw core pc))

/-- Log 77 (DEDUCED). -/
def execSealq (d a : BitVec 5) (_h : BitVec 2) (s : State) : Out1 :=
  let va := s.rs a
  let c := s.ctx s.cur
  if s.unsorted c va then s.trap 0x04 va
  else if vaRegion va ≠ .translated then .next (s.put d 0)
  else match s.translate c .load va.toNat with
  | .wait => s.stall
  | .invalid | .fault => s.trap 0x04 va
  | .ok e =>
    if !Pte.sealed e.lo then .next (s.put d 0)
    else
      let h := e.key ≠ 0 && c.held.contains e.key
      .next (s.put d (0x8000000000000000 ||| if h then 0x4000000000000000 ||| e.key.setWidth 64 else 0))

/-! ## GATE and MIGR (R329, R330) -/

def execGate (_h : BitVec 2) (s : State) : Out1 :=
  .next ((s.modCore (coreOf s.cur) fun c => { c with gateReq := true }).retire)

/-- The lowest frame of a core that may receive a strand: free, neither forwarding nor taken by another move (R30). -/
def State.freeFrame (s : State) (core : Nat) : Option Nat :=
  ((List.range 16).map (· + core * 16)).find? fun t =>
    (s.strand t).st = .free && (s.strand t).fwd.isNone && !(s.strands.any fun x => x.2.st = .moving && x.2.fwd = some t)

/-- Write a rank-table entry, where the partition has its tables (R36); the change is complete when no NI of the partition holds the old one
(R28). Log 27 (DEDUCED). -/
def State.setRank (s : State) (p : Nat) (rk : BitVec 16) (e : BitVec 32) : State :=
  let s := if !(s.part p).tables then s else { s with mem := Memory.writeN s.mem ((s.part p).rtbase.toNat + 4 * rk.toNat) 4 e.toNat }
  { s with cores := s.cores.map fun c => if s.partOfCore c.1 = p then (c.1, { c.2 with ni := c.2.ni.filter fun x => x.1 ≠ rk.toNat }) else c }

/-- Everything a strand has issued is done, atomics that parked apart, and its entries for its partner have arrived (R330).
Log 23 (DEDUCED). -/
def State.settled (s : State) (t : Nat) : Bool :=
  let x := s.strand t
  s.cmds.all (·.by_ ≠ t) && s.issued.all (·.by_ ≠ t)
  && s.net.all (fun m => (m.sender ≠ t && m.for_ ≠ some t) || match m.body with | .record _ => true | _ => false)
  && x.pend.all (·.parked) && x.out.isEmpty && x.port.isEmpty && x.fences.isEmpty && x.held.isEmpty && x.tags.isEmpty

/-- Whether the entry of a strand's rank is the strand's own: valid, and naming it (R25, R29). -/
def State.ownsRank (s : State) (t : Nat) : Bool :=
  let p := s.partOf t
  let rk := (s.strand t).rank
  rk.toNat < (s.part p).rtlim.toNat && entryState (s.rankEntry p rk) = 1 && entryPlace (s.rankEntry p rk) = t

/-- Begin to move a strand to a frame (R30, R42): its core's dirty lines go home, its entry, if the rank is its own, is in transit, and it
is `moving`, to have its state again where it lands (R204). A rank that never was the strand's, or that RKSET has given away or made
invalid, stays as it is (R29). Log 18 (DEDUCED). -/
def State.beginMove (s : State) (t u : Nat) : State :=
  let x := s.strand t
  let p := s.partOf t
  let s := s.writeBackAll (coreOf t)
  let s := if s.ownsRank t then s.setRank p x.rank (placeEntry 2 t) else s
  s.modStrand t fun x => { x with st := .moving, fwd := some u, fbuf := [], rest := x.st }

def execMigr (d a : BitVec 5) (_h : BitVec 2) (s : State) : Out1 :=
  let w := s.rs a
  let t := s.cur
  let core := entryPlace (w.setWidth 32) / 16
  let bad := w.extractLsb' 17 47 ≠ 0 || w.extractLsb' 0 4 ≠ 0 || (w.extractLsb' 4 6).toNat > 47
    || !inMask (s.mask (s.partOf t)) (w.extractLsb' 14 3).toNat || (s.core core).stage ≠ (s.core (coreOf t)).stage
  if s.me.level = 0 then s.trapIr 0x02
  else if bad then s.trap 0x05 w
  else if !s.settled t then s.stall
  else if core = coreOf t then .next (s.put d 0)
  else match s.freeFrame core with
    | none => .next (s.put d 1)
    | some u => if s.backHeld (coreOf t) then s.stall else .next ((s.put d 0).beginMove t u)

/-! ## RFORK (R332, R223) -/

/-- The cores of the fork tree, in its order (R223). -/
def State.forkTree (s : State) (p core : Nat) : List Nat :=
  let oct := (List.range 8).map (· + leadOf core)
  let clu := (List.range 48).map (· + clusterOf core * 48)
  let die := (List.range 768).map (· + dieOfCore core * 768)
  let rest := ((maskDies (s.mask p)).filter (· ≠ dieOfCore core)).flatMap fun d => (List.range 768).map (· + d * 768)
  [core] ++ oct.filter (· ≠ core) ++ clu.filter (fun c => c / 8 ≠ core / 8) ++ die.filter (fun c => c / 48 ≠ core / 48) ++ rest

/-- The first n recruits: the cores of idle strands along the fork tree. -/
def State.recruits (s : State) (p core n : Nat) : List Nat :=
  ((s.forkTree p core).flatMap fun c => ((List.range 16).filter fun f => (s.strand (c * 16 + f)).st = .idle).map fun _ => c).take n

/-- Log 10 (DEDUCED). -/
def execRfork (j c f t : BitVec 5) (_h : BitVec 2) (g : BitVec 16) (s : State) : Out1 :=
  let x := s.me
  let core := coreOf s.cur
  let p := s.partOf s.cur
  let w := s.rs j
  let trip := (s.rs t).toNat
  let cell := s.cell core (w.extractLsb' 0 12).toNat
  let n := (trip + g.toNat - 1) / g.toNat
  if w.extractLsb' 12 52 ≠ 0 then s.trap 0x0B w
  else if trip ≥ 2 ^ 32 then s.trapIr 0x0B
  else if cell.count ≠ 0 || cell.parked || !cell.arrivals.isEmpty || n > 65536 then s.trap 0x0B w
  else
    let strict := (s.part p).dmode
    let found := if strict then [] else s.recruits p core n
    let r := if strict then n else if n = 0 then 0 else max 1 found.length
    let rs := (List.range r).map fun i =>
      let path := x.childPath (x.task.ordinal + BitVec.ofNat 64 i)
      let lo := i * n / r * g.toNat
      let hi := min ((i + 1) * n / r * g.toNat) trip
      (if strict then s.pathCore p path else found.getD i core,
       { TRec.new (s.rs c) (s.rs f) x.level x.task.prio (0x1000 ||| w.setWidth 30) core path x.task.launches with
         a0 := BitVec.ofNat 64 lo, a1 := BitVec.ofNat 64 hi, a2 := BitVec.ofNat 64 i, a3 := BitVec.ofNat 64 r })
    s.spawn rs (fun s =>
      let s := if r < n then s.event 14 else s
      let s := s.setMe { s.me with task := { s.me.task with ordinal := s.me.task.ordinal + BitVec.ofNat 64 r } }
      let s := s.setCell core (w.extractLsb' 0 12).toNat { cell with count := BitVec.ofNat 32 r }
      if r = 0 then s.fire core (w.extractLsb' 0 12) else s) 8

end Sys2Proof.Machine
end

