-- ==== Sys2Proof/Machine/Launch.lean ====
section
/-! DEFINITION. Launch packets (R224, R225, R333), their grants (R46 to R48) and their copies (R172). -/

namespace Sys2Proof.Machine

def pktCode (q : BitVec 512) : Word := pkt q 0 64
def pktFbase (q : BitVec 512) : Word := pkt q 64 64
def pktStride (q : BitVec 512) : Word := pkt q 128 32
def pktPool (q : BitVec 512) : Nat := (pkt q 160 32).toNat
def pktCw (q : BitVec 512) : Word := pkt q 192 64
def pktPrio (q : BitVec 512) : BitVec 2 := (pkt q (0x28 * 8 + 8) 2).setWidth 2
def pktLevel (q : BitVec 512) : BitVec 2 := (pkt q (0x28 * 8 + 10) 2).setWidth 2

/-- Whether a packet is refused whole (R224): `top` is the highest level its copies may have. Log 26 (DEDUCED). -/
def State.packetRefused (s : State) (p : Nat) (q : BitVec 512) (top : Nat) : Bool :=
  let dies := (pkt q (0x28 * 8) 8).setWidth 8
  pkt q (0x28 * 8 + 12) 52 ≠ 0 || dies = 0 || pkt q (0x20 * 8) 48 = 0 || pkt q (0x20 * 8 + 48) 16 = 0
  || dies &&& ~~~(s.mask p) ≠ 0 || (pktLevel q).toNat > top
  || (pktPool q ≠ 0 && pktStride q = 0 && (packetClusters q).length > 1)

/-- The record of a refused launch (R47, R224, R377). For a packet refused under R209, R224 or R47 no rule names an address, and the
record holds 0: a choice of the model's. Log 26 (DEDUCED). -/
def State.launchRefused (s : State) (p : Nat) (l : Launch) (inner : BitVec 8) (addr : Word) : State :=
  let r : FaultRec := { celled := false, parked := false, src := 4, inner := inner, cause := 0x14, pc := l.pc, addr := addr, part := p,
                        rank := l.rank, cw := if l.by_.isSome then pktCw l.packet else 0, info := BitVec.ofNat 64 (64 * l.slot) }
  match l.by_ with
  | some t => s.reportFailed r t l.cwCore t
  | none => s.report r

/-- MFORK (R333). -/
def execMfork (pr : BitVec 5) (_h : BitVec 2) (s : State) : Out1 :=
  let a := s.rs pr
  let c := s.ctx s.cur
  let x := s.me
  if s.unsorted c a then s.trap 0x04 a
  else if a.toNat % 64 ≠ 0 then s.trap 0x03 a
  else
    let parts : Checked (List Part1) := (List.range 8).foldr (fun i r =>
      match s.routeScalar c .load (a + BitVec.ofNat 64 (8 * i)) 8 with
      | .ok p _ => match r with | .ok l => .ok (p :: l) | e => e
      | .invalid t | .fault t => .trap t
      | .wait => .wait) (.ok [])
    match parts with
    | .trap t => s.raiseAccess .load t
    | .wait => s.stall
    | .ok ps =>
      let back := s
      match s.loadNow ps with
      | none => s.stall
      | some (s, vs) =>
        let q : BitVec 512 := BitVec.ofNat 512 (vs.foldr (fun v n => v + 2 ^ 64 * n) 0)
        if s.packetRefused c.p q x.level.toNat then s.trap 0x05 a
        else if badCode (pktCode q) then s.trap 0x03 (pktCode q)
        else match s.checkCw c.core c.p (pktCw q) with
        | some e => s.raise e
        | none =>
          if cwRemote (pktCw q) && s.namesOrdered c.p c.core (pktCw q) then s.trap 0x0B (pktCw q)
          else s.afterRelease (back := back) fun s =>
            let l : Launch := { id := s.fresh, packet := q, by_ := some s.cur, path := x.task.path, ord := x.task.ordinal, cwCore := c.core,
                                rank := x.rank, pc := x.pc, outer := x.task.launches, slot := 0, boot := false }
            let s := { s with fresh := s.fresh + 1 }.modPart c.p fun y => { y with launches := y.launches ++ [l] }
            let n := BitVec.ofNat 64 (packetCores q).length
            .next (s.modStrand s.cur fun x => { x with task := { x.task with ordinal := x.task.ordinal + n } }).retire8

/-! ## Grants (R46, R47) -/

/-- The lowest run of n granules that are free and not reserved. -/
def Cluster.run (c : Cluster) (n : Nat) : Option Nat :=
  (List.range (257 - n)).find? fun g => granuleBits g n &&& (c.granted ||| c.rsv) = 0

/-- The runs a launch takes, by cluster; none while some cluster has no room. -/
def State.runsFor (s : State) (n : Nat) : List Nat → Option (List (Nat × Nat × Nat))
  | [] => some []
  | cl :: cls => match (s.cluster cl).run n, s.runsFor n cls with
    | some g, some l => some ((cl, g, n) :: l)
    | _, _ => none

/-- The unreserved granules of a cluster. -/
def Cluster.unreserved (c : Cluster) : Nat := (List.range 256).countP fun g => !c.reserved g

/-- How an engine access to one unit is routed (R7, R15, R71): at its home, or with the cause and address it fails with, and
whether it may park. -/
inductive Engined where
  | ok (p : Part1)
  | fail (cause : BitVec 8) (addr : Word) (mayPark : Bool)
  | wait
  deriving DecidableEq, Repr

/-- Route an engine access of a size. Alignment is that of the size. -/
def State.engineRoute (s : State) (c : Ctx) (acc : Acc) (va : Word) (size : Nat) (skey : BitVec 32) : Engined :=
  if s.unsorted c va then .fail acc.cause va false
  else if va.toNat % size ≠ 0 then .fail 0x03 va false
  else match s.route c acc va size skey with
  | .ok p _ => .ok p
  | .invalid t => .fail t.cause va (c.lvl = 0)
  | .fault t => .fail t.cause t.val false
  | .wait => .wait

/-- The core whose local memory or slot a part lies in, by either name. -/
def Part1.homeCore (a : Part1) : Option Nat :=
  if a.name = .alias_ then match meshRegion a.key with | .local_ c _ => some c | _ => none else a.slotCore

/-- Whether an engine access to a part waits at its home: a store in the low half of an entry whose page a swap moves (R60), one in a
staging window while its octet loads or swaps (R23), or at the slot of a gated or waking core (R228). -/
def State.engineWaits (s : State) (p : Nat) (a : Part1) (store : Bool) : Bool :=
  (store && (s.swapBytes p a.key a.size || s.enableHeld a)) || s.stagingBusy a || match a.homeCore with | some c => s.asleep c | none => false
/-- An engine access that stands at the cluster NI of a gated core makes it wake (R228). -/
def State.engineRouse (s : State) (a : Part1) : Option State :=
  match a.homeCore with
  | some c => if (s.core c).gate = 2 then some (s.reached c) else none
  | none => none

/-- The copies of a packet: core, number and frame. -/
def packetCopies (q : BitVec 512) : List (Nat × Nat × Word) :=
  (packetCores q).zipIdx.map fun (c, j) => (c, j, pktFbase q + BitVec.ofNat 64 j * pktStride q)

/-- What a launch writes the pool-base word of a copy with: its packet's level, and no seals (R46). -/
def poolCtx (p : Nat) (q : BitVec 512) (core : Nat) : Ctx := ⟨p, core, pktLevel q, []⟩

/-- The route of a pool-base word of a copy: an engine write at the packet's level, with no seals (R46). A frame in the private alias lies
in the local memory of the copy's own core, a choice of the model's: no rule says whose alias a launch's write uses. Log 70 (DEDUCED). -/
def State.poolRoute (s : State) (p : Nat) (q : BitVec 512) (core : Nat) (frame : Word) : Engined :=
  s.engineRoute (poolCtx p q core) .store frame 8 0

/-- Write the pool-base word of a copy. Log 70 (DEDUCED). -/
def State.poolWord (s : State) (p : Nat) (q : BitVec 512) (a : Part1) (base : Word) : Except Trap State :=
  if special a then s.specialStore a base (pktLevel q) else .ok (s.outsidePut p a base)

/-- The pool-base word of a copy: the run granted in its cluster, or zero (R46). -/
def poolBase (runs : List (Nat × Nat × Nat)) (core : Nat) : Word :=
  match runs.find? fun r => r.1 = clusterOf core with
  | some (cl, g, _) => BitVec.ofNat 64 (poolAddr cl (g * 0x10000))
  | none => 0

/-- How the writing of pool-base words ends: all are written, one fails, one waits at its home, or one parks (R46, R156). -/
inductive PoolEnd where
  | done
  | failed (inner : BitVec 8) (addr : Word)
  | waits (a : Option Part1)
  | parks (va : Word)
  deriving DecidableEq, Repr

/-- Write the pool-base words in copy order, from copy k on; words already written stay when one fails. Log 70 (DEDUCED). -/
def State.poolWords (s : State) (p : Nat) (q : BitVec 512) (runs : List (Nat × Nat × Nat)) :
    Nat → List (Nat × Nat × Word) → State × Nat × PoolEnd
  | k, [] => (s, k, .done)
  | k, (c, _, f) :: l =>
    let r := s.poolRoute p q c f
    let s := s.discardAt (poolCtx p q c) .store f
    match r with
    | .wait => (s, k, .waits none)
    | .fail e va park => (s, k, if park then .parks va else .failed e va)
    | .ok a =>
      if s.engineWaits p a true then (s, k, .waits (some a))
      else match s.poolWord p q a (poolBase runs c) with
        | .ok s => s.poolWords p q runs (k + 1) l
        | .error e => (s, k, .failed e.cause e.val)

/-- Change the launch at the head of a partition's list. -/
def State.setLaunch (s : State) (p : Nat) (l : Launch) : State :=
  s.modPart p fun x => { x with launches := x.launches.map fun m => if m.id = l.id then l else m }
/-- Take a launch off a partition's list. -/
def State.dropLaunch (s : State) (p id : Nat) : State :=
  s.modPart p fun x => { x with launches := x.launches.filter fun l => l.id ≠ id }

/-- Give back the granules of a launch that is refused. -/
def State.ungrant (s : State) (l : Launch) : State :=
  (l.runs.getD []).foldl (fun (s : State) (r : Nat × Nat × Nat) =>
    s.modCluster r.1 fun c => { c with granted := c.granted &&& ~~~(granuleBits r.2.1 r.2.2) }) s

/-- Refuse a launch at its grant (R46, R47): its granules go back, and it is reported; the boot packet sets `err` alone (R414). What its
issuer's task held may end with it (R48). Log 81 (DEDUCED). -/
def State.refuseLaunch (s : State) (p : Nat) (l : Launch) (inner : BitVec 8) (addr : Word) : State :=
  let s := (s.ungrant l).dropLaunch p l.id
  let s := if l.boot then s.modPart p fun x => { x with err := 0x05 } else s.launchRefused p l inner addr
  s.reap p

/-- Start the copies of a launch that has its grants and its pool-base words (R46, R172). A local completion word of a packet from the host,
which has no issuing core, names a cell of each copy's own core: R224 does not say, a choice of the model's. Log 93 (DESIGN CHOICE). -/
def State.startLaunch (s : State) (p : Nat) (l : Launch) : State :=
  let q := l.packet
  let copies := packetCopies q
  let runs := l.runs.getD []
  let r := (s.part p).rootOrd
  let root := m64 (s.part p).dsalt 0
  let s := (s.dropLaunch p l.id).modPart p fun x =>
    { x with grants := if runs.isEmpty then x.grants else x.grants ++ [⟨l.id, runs⟩],
             rootOrd := if l.by_.isSome then x.rootOrd else x.rootOrd + 1 }
  copies.foldl (fun s (c : Nat × Nat × Word) =>
    let path := if l.by_.isSome then m64s l.path [l.ord + BitVec.ofNat 64 c.2.1 + 1]
                else m64s root [r + 1, BitVec.ofNat 64 c.2.1 + 1]
    let rec_ : TRec :=
      { TRec.new (pktCode q) c.2.2 (pktLevel q) (pktPrio q) ((pktCw q).extractLsb' 0 30) (if l.by_.isSome then l.cwCore else c.1)
          path (l.id :: l.outer) with
        a0 := pkt q 0x180 64, a1 := pkt q 0x1C0 64, a2 := BitVec.ofNat 64 c.2.1, a3 := BitVec.ofNat 64 copies.length }
    let (s, rec_) := s.stamp p rec_
    s.post (engineSender l.id) none (c.1 * 16) false (.record rec_)) s

/-- Go on with a launch that has its granules: its pool-base words, then its copies. None while nothing can be done. A word that meets an
invalid entry parks if the packet's level is apprentice (R156), the launches behind it waiting with it. Log 70 (DEDUCED). -/
def State.fillLaunch (s : State) (p : Nat) (l : Launch) (progress : Bool) : Option State :=
  let q := l.packet
  let (s', k, e) := s.poolWords p q (l.runs.getD []) l.next ((packetCopies q).drop l.next)
  let l' := { l with next := k }
  match e with
  | .done => some (s'.startLaunch p l')
  | .failed c va => some (s'.refuseLaunch p l' c va)
  | .waits a =>
    if progress || k ≠ l.next then some (s'.setLaunch p l') else a.bind s.engineRouse
  | .parks va =>
    if !s'.parkRoom p va.toNat then (if progress || k ≠ l.next then some (s'.setLaunch p l') else none)
    else
      let s := (s'.setLaunch p { l' with stuck := true }).modPart p fun x => { x with parkq := x.parkq ++ [⟨.pool l.id va, false⟩] }
      some (s.parkRecord p l.rank l.pc va (if l.by_.isSome then pktCw q else 0) 4 (BitVec.ofNat 64 (64 * l.slot)) 0x05)

/-- Grant the oldest launch of a partition, or refuse it (R46, R47). None while it waits. For a launch refused for want of granules no
rule gives the record's address, which is 0, or its inner cause, which is a free value. Log 26 (DEDUCED). Log 70 (DEDUCED). -/
def State.launchGrant (s : State) (p : Nat) : Option State :=
  match (s.part p).launches with
  | [] => none
  | l :: _ =>
    let n := (pktPool l.packet + 0xFFFF) / 0x10000
    let cls := packetClusters l.packet
    if l.stuck then none
    else if l.runs.isSome then s.fillLaunch p l false
    else if n ≠ 0 && cls.any fun cl => (s.cluster cl).unreserved < n then some (s.refuseLaunch p l (Config.openInner l.id) 0)
    else match if n = 0 then some [] else s.runsFor n cls with
    | none => none
    | some runs =>
      let s := runs.foldl (fun (s : State) (r : Nat × Nat × Nat) =>
        { s with mem := Memory.clear s.mem (poolAddr r.1 (r.2.1 * 0x10000)) (n * 0x10000) }.modCluster r.1 fun c =>
          { c with granted := c.granted ||| granuleBits r.2.1 r.2.2 }) s
      let l := { l with runs := some runs }
      (s.setLaunch p l).fillLaunch p l true

/-- The checks of R209 that a packet's copies meet: the cause they fail with. Log 26 (DEDUCED). -/
def State.packetSpawn (s : State) (p core : Nat) (q : BitVec 512) : Option (BitVec 8) :=
  if badCode (pktCode q) then some 0x03
  else match s.checkCw core p (pktCw q) with
    | some e => some e.cause
    | none => if cwRemote (pktCw q) && s.namesOrdered p core (pktCw q) then some 0x0B else none

/-- Accept a packet that no strand issued, or refuse it (R224, R225); `top` is the highest level its copies may have. -/
def State.launchAccept (s : State) (p slot : Nat) (q : BitVec 512) (top : Nat) (boot : Bool) : Except (BitVec 8) State :=
  if s.packetRefused p q top then .error 0x05
  else match s.packetSpawn p (s.lead p * 48) q with
  | some c => .error c
  | none =>
    let l : Launch := { id := s.fresh, packet := q, by_ := none, path := 0, ord := 0, cwCore := 0, rank := 0, pc := 0, outer := [], slot := slot, boot := boot }
    .ok ({ s with fresh := s.fresh + 1 }.modPart p fun x => { x with launches := x.launches ++ [l] })

/-- A launch packet of the host: one that is refused puts a record in the fault queue. -/
def State.hostLaunch (s : State) (p slot : Nat) (q : BitVec 512) : State :=
  match s.launchAccept p slot q 1 false with
  | .ok s => s
  | .error c =>
    s.launchRefused p { id := 0, packet := q, by_ := none, path := 0, ord := 0, cwCore := 0, rank := 0, pc := 0, outer := [], slot := slot, boot := false } c 0

end Sys2Proof.Machine
end

