-- ==== Sys2Proof/Machine/LoomMath.lean ====
section
/-! DEFINITION. What a Loom computes: the pairs and formats it takes (R303, R304), its K-steps (R111, R305), its macros as memory
(R23, R296) and the keys and sums of TOPK (R358). -/

namespace Sys2Proof.Machine

/-! ## Pairs and formats (R303, R304) -/

/-- The A formats of pair code 0. -/
def loomAFmt (f : Nat) : Bool := f = 0 || f = 15 || f = 11 || f = 13 || f = 19 || f = 20 || f = 16 || f = 18
/-- The B formats. -/
def loomBFmt (f : Nat) : Bool := f = 19 || f = 20 || f = 16 || f = 18 || f = 21

/-- Whether an A format, a B format, a pair and `un` form a combination of R303. -/
def loomCombo (pair : BitVec 3) (af bf : Nat) (un : Bool) : Bool :=
  match pair.toNat with
  | 0 => loomAFmt af && loomBFmt bf && !un
  | 3 => af = 0 && bf = 19 && un
  | _ => (af = 0 || af = 15) && (bf = 19 || bf = 20) && (!un || (af = 0 && bf = 19))

/-- The largest and the smallest code of an element format under pair codes 1 to 7. -/
def loomMx (un four : Bool) : Nat := if four then 7 else if un then 0xFF else 0x7F
def loomMn (un four : Bool) : Nat := if four then 8 else if un then 0 else 0x80

/-- The pad and skip byte of a pair in a B format, or in an 8-bit A format (R304). -/
def loomPad (pair : BitVec 3) (un : Bool) (f : Nat) : Nat :=
  match pair.toNat with
  | 0 => if f = 21 then 0x77 else 0
  | 1 | 7 => loomMx un (fmtBits f = 4)
  | 2 | 6 => loomMn un (fmtBits f = 4)
  | _ => 0

/-- The accumulator identity of a pair (R304). -/
def loomIdent (pair : BitVec 3) : Nat :=
  match pair.toNat with
  | 1 | 7 => 0x7FFFFFFF
  | 2 | 6 => 0x80000000
  | _ => 0

/-- The accumulator format of a pair (R303). -/
def loomAccFmt (pair : BitVec 3) : Nat := if pair = 0 then 8 else 2

/-- How many elements of A one unit of its record holds along a row (R301). -/
def loomPer (f : Nat) : Nat := match sizeClass f with | 5 => 16 | 4 => 2 | _ => 1

/-! ## K-steps -/

/-- An infinity of pairs 1, 2, 6 and 7: beyond every 32-bit value. -/
def loomInf : Int := 2 ^ 40

/-- An element of pair codes 1 to 7 as an integer or an infinity (R303, R304). -/
def loomInt (pair : BitVec 3) (un four : Bool) (raw : Nat) : Int :=
  let w := if four then 4 else 8
  let x := raw % 2 ^ w
  if (pair = 1 || pair = 7) && x = loomMx un four then loomInf
  else if (pair = 2 || pair = 6) && x = loomMn un four then -loomInf
  else if un && !four then (x : Int) else sxN w x

/-- combine of R305. -/
def loomCombine (pair : BitVec 3) (a b : Int) : Int :=
  match pair.toNat with
  | 1 => if a = loomInf ∨ b = loomInf then loomInf else a + b
  | 2 => if a = -loomInf ∨ b = -loomInf then -loomInf else a + b
  | 3 => a * b
  | 6 => min a b
  | 7 => max a b
  | _ => if a ≠ 0 ∧ b ≠ 0 then 1 else 0

/-- The reduction of two values (R305). -/
def loomReduce (pair : BitVec 3) (a b : Int) : Int :=
  match pair.toNat with
  | 1 | 7 => min a b
  | 2 | 3 | 6 => max a b
  | 4 => if a ≠ 0 ∨ b ≠ 0 then 1 else 0
  | _ => (a + b) % 2

/-- The reduce of the products of one K-block. -/
def loomStepInt (pair : BitVec 3) : List Int → Int
  | [] => 0
  | [x] => x
  | x :: xs => loomReduce pair x (loomStepInt pair xs)

/-- An accumulator after an integer K-step (R305). -/
def loomAccInt (pair : BitVec 3) (acc : Nat) (step : Int) : Nat :=
  let a : Int :=
    if (pair = 1 || pair = 7) && acc = 0x7FFFFFFF then loomInf
    else if (pair = 2 || pair = 6) && acc = 0x80000000 then -loomInf
    else sxN 32 acc
  let r := match pair.toNat with
    | 5 => (a % 2 + step) % 2
    | _ => loomReduce pair a step
  if r ≥ loomInf then 0x7FFFFFFF else if r ≤ -loomInf then 0x80000000 else wrapN 32 r

/-- The exact sum of the products of one K-block of pair code 0, an exactly zero sum being +0 (R111, R314). -/
def loomStepFloat (as bs : List FV) : FV :=
  match (as.zip bs).foldl (fun (s : FV) (p : FV × FV) => (FV.add 1 s (FV.mul p.1 p.2).1).1) (.num false 0 0) with
  | .num neg m e => if m = 0 then .num false 0 0 else .num neg m e
  | v => v

/-- An accumulator after a float K-step: one rounding, NaN with NV (R111). -/
def loomAccFloat (acc : Nat) (step : FV) : Nat × Flags :=
  let a := fF32.value acc
  if a.isNan || step.isNan then (fF32.canon, fNV)
  else
    let (v, fl) := FV.add 1 a step
    let (r, fr) := fF32.round 1 v
    (r, fl ||| fr)

/-- One K-step of an accumulator: 16 raw codes of A with their scale and 16 of B with theirs. -/
def loomKStep (pair : BitVec 3) (un : Bool) (af bf : Nat) (a b : List Nat × Nat) (acc : Nat) : Nat × Flags :=
  if pair = 0 then
    let step :=
      if a.2 = 255 ∨ b.2 = 255 then FV.nan false
      else (loomStepFloat (a.1.map (valueOf (elemOf af))) (b.1.map (valueOf (elemOf bf)))).scale ((a.2 : Int) - 127 + ((b.2 : Int) - 127))
    loomAccFloat acc step
  else
    let ps := (a.1.zip b.1).map fun p =>
      loomCombine pair (loomInt pair un (fmtBits af = 4) p.1) (loomInt pair un (fmtBits bf = 4) p.2)
    (loomAccInt pair acc (loomStepInt pair ps), 0)

/-- K-steps in order: the blocks of A a command takes and the blocks of B they meet. -/
def loomRow (pair : BitVec 3) (un : Bool) (af bf : Nat) (a b : Nat → List Nat × Nat) : List (Nat × Nat) → Nat → Nat × Flags
  | [], acc => (acc, 0)
  | k :: ks, acc =>
    let (x, fl) := loomKStep pair un af bf (a k.1) (b k.2) acc
    let (y, fs) := loomRow pair un af bf a b ks x
    (y, fl ||| fs)

/-! ## The planes of A (R303, R319) -/

/-- Planes per pass of an A format. -/
def loomPlanes (f : Nat) : Nat := match elemOf f with | 0 => 8 | 13 => 2 | _ => 4

/-- The value of planes lo to hi − 1 of an element of A: a signed integer's top plane weighs negative, a float's planes are those of its
significand. -/
def loomPlanePart (f : Nat) (raw lo hi : Nat) : FV :=
  let top := hi ≥ loomPlanes f
  match kindOf (elemOf f) with
  | .int _ w =>
    let x := raw % 2 ^ w
    if lo ≥ w then .num false 0 0 else ofInt ((if top then sxN w x else ((x % 2 ^ hi : Nat) : Int)) - ((x % 2 ^ lo : Nat) : Int))
  | _ =>
    match valueOf (elemOf f) raw with
    | .num neg m e => .num neg ((if top then m else m % 2 ^ hi) - m % 2 ^ lo) e
    | v => v

/-- A K-step of pair code 0 over some planes of A (R319). -/
def loomPlaneStep (af bf lo hi : Nat) (a b : List Nat × Nat) : FV :=
  if a.2 = 255 ∨ b.2 = 255 then .nan false
  else (loomStepFloat (a.1.map fun x => loomPlanePart af x lo hi) (b.1.map (valueOf (elemOf bf)))).scale
    ((a.2 : Int) - 127 + ((b.2 : Int) - 127))

/-- What a split at plane q does to an element of the row in progress: the exact sum over all K-blocks of the planes passed since the row
began or was last split, at plane hi, rounded once. -/
def loomSplitSave (af bf q hi : Nat) (a b : Nat → List Nat × Nat) (ks : List (Nat × Nat)) (acc : Nat) : Nat × Flags :=
  loomAccFloat acc (ks.foldl (fun (s : FV) k => (FV.add 1 s (loomPlaneStep af bf q hi (a k.1) (b k.2))).1) (.num false 0 0))

/-- The K-steps of the remaining planes after a split. -/
def loomSplitRow (af bf q : Nat) (a b : Nat → List Nat × Nat) : List (Nat × Nat) → Nat → Nat × Flags
  | [], acc => (acc, 0)
  | k :: ks, acc =>
    let (x, fl) := loomAccFloat acc (loomPlaneStep af bf 0 q (a k.1) (b k.2))
    let (y, fs) := loomSplitRow af bf q a b ks x
    (y, fl ||| fs)

/-! ## Macros as memory (R23, R296) -/

/-- Where a physical set of an octet's macros starts: set 0 or 1. -/
def loomBase (o : Nat) (set : Bool) : Nat := coreAddr (o / 6 * 48 + o % 6 * 8) (0x300000 + if set then 0x80000 else 0)
/-- The 16 codes and the scale of a K-block of a column, K-blocks counted over the four macros. -/
def macroBlock (m : List Host.Cell) (base col kb : Nat) : List Nat × Nat :=
  let a := base + kb / 8 * 0x4000 + col * 128 + 16 * (kb % 8)
  ((List.range 16).map fun e => (Memory.read m (a + e)).toNat, (Memory.read m (base + 0x10000 + kb / 8 * 0x400 + col * 8 + kb % 8)).toNat)

/-- n bytes of one value. -/
def Memory.fill (m : List Host.Cell) (a : Nat) (b : Byte) : Nat → List Host.Cell
  | 0 => m
  | n + 1 => Memory.write (Memory.fill m a b n) (a + n) b

/-- Every byte a pad byte and every scale 127 (R311). -/
def loomPadSet (m : List Host.Cell) (base : Nat) (p : Byte) : List Host.Cell :=
  Memory.fill (Memory.fill m base p 0x10000) (base + 0x10000) 127 0x1000

/-- Place a block of 16 elements and its scale (R311). -/
def loomPlace (m : List Host.Cell) (base col kb : Nat) (es : List Nat) (sc : Nat) : List Host.Cell :=
  let a := base + kb / 8 * 0x4000 + col * 128 + 16 * (kb % 8)
  let m := es.zipIdx.foldl (fun m e => Memory.write m (a + e.2) (BitVec.ofNat 8 e.1)) m
  Memory.write m (base + 0x10000 + kb / 8 * 0x400 + col * 8 + kb % 8) (BitVec.ofNat 8 sc)

/-! ## Search (R358) -/

/-- key(v) of R358. -/
def searchKey (f raw : Nat) (key min_ : Bool) : Nat :=
  let w := fmtBits f
  let x := raw % 2 ^ w
  let top := 2 ^ (w - 1)
  let k := if !key then x
    else match kindOf f with
      | .int true _ => if x ≥ top then x - top else x + top
      | .flt _ => if x ≥ top then 2 ^ w - 1 - x else x + top
      | _ => x
  if min_ then 2 ^ w - 1 - k else k

/-- The candidates of the k largest keys, the lower index winning among equals, in ascending order (R358). -/
def searchChoose (keys : List Nat) (k : Nat) : List Nat :=
  let is := keys.zipIdx
  (is.filter fun (x, i) => (is.filter fun (y, j) => y > x || (y = x && j < i)).length < k).map (·.2)

/-- q(score) in Q32.32 (R358). -/
def searchSum (f raw : Nat) : Nat × Flags :=
  match kindOf f with
  | .int s w => (wrapN 64 ((if s then sxN w raw else (raw % 2 ^ w : Nat)) * 2 ^ 32), 0)
  | _ =>
    match valueOf f raw with
    | .nan _ => (0, fNV)
    | v =>
      let (x, fl) := convertVal (v.scale 32) true 3 (.rm 1)
      (x, fl)

end Sys2Proof.Machine
end

