-- ==== Sys2Proof/Machine/Engine.lean ====
section
/-! DEFINITION. Engine commands (R133 to R137, R147, R156 to R158): the pieces a command reads and writes, acceptance, the steps of
its engine, its completion, and the requests that park. -/

namespace Sys2Proof.Machine

/-! ## Pieces -/

/-- One engine unit of at most 8 bytes (R134): part `sub` of an access unit of a record, 8 bytes of a packed slot (R316), an element of an
accumulator or an octet-spread record (R302, R85), or bytes of the local memory of the core that holds a rank (R337). `core` is the core
whose local memory the private alias names; with a rank, that of the core that holds it (R338). -/
inductive Piece where
  | unit (r : BRec) (o : Int) (u cls sub : Nat) (geom : Option Nat) (rank : Option (BitVec 16))
  | slot (r : BRec) (o : Int) (sub : Nat)
  | acc (r : BRec) (x0 x1 : Nat)
  | far (rank : BitVec 16) (off size : Nat)
  deriving DecidableEq, Repr

/-- How a piece is resolved. -/
inductive PieceR where
  | ok (a : Part1)
  | dropped
  | fail (cause : BitVec 8) (addr : Word) (mayPark : Bool)
  | wait
  deriving DecidableEq, Repr

/-- The context of a command's accesses: what its issuer held at issue (R162). -/
def Cmd.ctx (c : Cmd) : Ctx := ⟨c.part, c.core, c.level, c.seals⟩

/-- The core that holds a rank now: none where no entry names one; in transit, not yet (R29, R30). -/
inductive Holder where
  | at_ (core : Nat)
  | moving
  | nowhere
  deriving DecidableEq, Repr

def State.holder (s : State) (p : Nat) (rk : BitVec 16) : Holder :=
  if rk.toNat ≥ (s.part p).rtlim.toNat then .nowhere
  else
    let e := s.rankEntry p rk
    if !s.entryLive p e then .nowhere
    else if entryState e = 1 then .at_ (coreOf (entryPlace e))
    else .moving

/-- Offset of an accumulator element, and the core whose bank holds it (R302). -/
def accOffset (r : BRec) (x0 x1 : Nat) : Int := recOffset r (if Rec.space r = 3 then x0 % 64 else x0) x1
def accCore (core : Nat) (r : BRec) (x0 : Nat) : Nat := if Rec.space r = 3 then leadOf core + x0 / 64 else core

/-- Bytes of the local memory of a core. -/
def bankPart (core off size : Nat) : Part1 :=
  { key := coreAddr core off, va := BitVec.ofNat 64 off, size := size, name := .alias_, kind := .rc, cached := false, thru := none, pos := 0, pte := none }

/-- Sort, check and route a piece (R84, R85, R71, R86, R98). The address of a unit that fails its bound is that of the unit. Log 39
(DEDUCED). -/
def State.pieceRoute (s : State) (c : Cmd) (acc : Acc) : Piece → PieceR
  | .unit r o u cls sub geom rank =>
    let go : Nat → PieceR := fun core =>
      match s.bmUnit { c.ctx with core := core } r o u cls acc with
      | .wait => .wait
      | .dropped => .dropped
      | .invalid t => .fail t.cause t.val (c.level = 0)
      | .fault t => .fail t.cause (if t.cause = 0x07 then Rec.base r + t.val else t.val) false
      | .ok ps _ e =>
        let bad : Bool := match geom, e with | some g, some e => decide (Pte.geom e.lo ≠ g) | _, _ => false
        if bad then .fail 0x08 (match ps with | a :: _ => a.va | [] => 0) false
        else match ps[sub]? with | some a => .ok a | none => .dropped
    match rank with
    | none => go c.core
    | some rk =>
      match s.holder c.part rk with
      | .at_ core => go core
      | .moving => .wait
      | .nowhere => .fail 0x05 (rk.setWidth 64) false
  | .slot r o sub =>
    match bound r o 144 with
    | .dropped => .dropped
    | .fault => .fail 0x07 (Rec.base r + BitVec.ofInt 64 o) false
    | .hit o' =>
      match s.unitAt c.ctx r (o' + 8 * sub) 8 (sizeClass (Rec.fmt r)) acc with
      | .wait => .wait
      | .dropped => .dropped
      | .invalid t => .fail t.cause t.val (c.level = 0)
      | .fault t => .fail t.cause (if t.cause = 0x07 then Rec.base r + t.val else t.val) false
      | .ok ps _ _ => match ps with | a :: _ => .ok a | [] => .dropped
  | .acc r x0 x1 =>
    let o := accOffset r x0 x1
    let u := unitBytes (Rec.fmt r)
    match bound r o u with
    | .dropped => .dropped
    | .fault => .fail 0x07 (Rec.base r + BitVec.ofInt 64 o) false
    | .hit o' =>
      let va := Rec.base r + BitVec.ofNat 64 o'
      if !inSpace r va then .fail 0x07 va false
      else if frameArea va.toNat then .fail acc.cause va false
      else if va.toNat % u ≠ 0 then .fail 0x03 va false
      else .ok (bankPart (accCore c.core r x0) va.toNat u)
  | .far rk off size =>
    match s.holder c.part rk with
    | .at_ core => if off % size ≠ 0 then .fail 0x03 (BitVec.ofNat 64 off) false else .ok (bankPart core off size)
    | .moving => .wait
    | .nowhere => .fail 0x05 (rk.setWidth 64) false

/-- The value of a dropped piece: zero codes, or scale 127 (R84). -/
def Piece.zeros : Piece → Word
  | .unit r _ u cls sub _ _ =>
    if cls = 5 && sub = u / 8 then 127 else BitVec.ofNat 64 (fillBytes (zeroCode (Rec.fmt r)) (min u 8))
  | .acc r _ _ => BitVec.ofNat 64 (fillBytes (zeroCode (Rec.fmt r)) (unitBytes (Rec.fmt r)))
  | _ => 0

/-- The shadow key a piece's record has (R143). -/
def Piece.key (p : Nat) : Piece → Option ShKey
  | .unit r _ _ _ _ _ _ | .slot r _ _ | .acc r _ _ => some (shKeyOf p r)
  | .far _ _ _ => none

/-- The command of a number that has been accepted and has not completed. -/
def State.cmd? (s : State) (id : Nat) : Option Cmd := s.cmds.find? fun c => c.id = id

/-- An engine read step at a home, or from the shadow (R134, R143). -/
def State.engineLoad (s : State) (k : Option ShKey) (a : Part1) : Word :=
  if special a then s.homeRead (s.keyOf a) a.size else BitVec.ofNat 64 (s.shadowRead k (s.keyOf a) a.size)

/-- The open shadow that takes a command's writes: not one that was closed before the command was accepted (R143, R144). -/
def State.engineShadow (s : State) (c : Cmd) (k : Option ShKey) : Option Shadow :=
  (k.bind fun k => s.shadowOf k.part k).filter fun h => !h.closed || h.before.contains c.id

/-- Bytes that a command writes, to the home or into a shadow with the key, where other commands that have not completed have written
some of them and nothing else has since: each such byte is that of either, a free value, as only single bytes are atomic between commands
(R135). A byte that a strand has written since stays whole with its unit (R127). Log 42 (DEDUCED). -/
def State.byteMix (s : State) (c : Cmd) (k : Option ShKey) (key size : Nat) (v : Word) : State × Word :=
  let theirs : Nat → Bool := fun b => s.lands.any fun l => l.1 ≠ c.id && l.2.1 = k && l.2.2.1 ≤ b && b < l.2.2.1 + l.2.2.2 && (s.cmd? l.1).isSome
  if !(List.range size).any fun i => theirs (key + i) then (s, v)
  else
    let keep := Config.byteMix s.fresh
    (s.tick, BitVec.ofNat 64 ((List.range size).foldr (fun i n =>
      (if theirs (key + i) && keep.getLsbD i then s.shadowRead k (key + i) 1 else v.toNat / 256 ^ i % 256) + 256 * n) 0))

/-- An engine write step of a command at a home, or into the shadow while it takes the command's writes (R134, R143, R144); the command's
bytes are noted for the writes of others (R135). -/
def State.engineStore (s : State) (c : Cmd) (k : Option ShKey) (a : Part1) (v : Word) : Except Trap State :=
  if special a then s.specialStore a v c.level
  else
    let key := s.keyOf a
    let h := s.engineShadow c k
    let at_ : Option ShKey := h.map fun h => h.key
    let (s, v) := s.byteMix c at_ key a.size v
    let s := { s with lands := (c.id, at_, key, a.size) :: s.lands }
    .ok (match h with | some h => s.shadowPut c.part h a v | none => s.homePut c.part a v)

/-- A part of a command's access as it counts: a line it has requested before is counted no more (R54). Log 45 (DEDUCED). -/
def Cmd.once (c : Cmd) (store : Bool) (a : Part1) : Part1 := if c.seen.contains (store, lineAt a.key) then { a with pte := none } else a
/-- A command with a line it has requested (R54). -/
def Cmd.saw (c : Cmd) (store : Bool) (a : Part1) : Cmd :=
  if a.pte.isNone || c.seen.contains (store, lineAt a.key) then c else { c with seen := (store, lineAt a.key) :: c.seen }
/-- An engine access of a command to the local memory or slot of another core reaches that core (R228). -/
def State.engineReach (s : State) (c : Cmd) (a : Part1) : State :=
  if a.name = .alias_ then match a.homeCore with | some k => if k = c.core then s else s.reached k | none => s else s.reach a

/-! ## What each command reads and writes -/

/-- Pieces of one access unit of a format. -/
def subsOf (f : Nat) : Nat := if sizeClass f = 5 then unitBytes f / 8 + 1 else 1

/-- Piece q of a record's walk, its pieces counted unit by unit (R83). -/
def walkPiece (r : BRec) (q : Nat) (geom : Option Nat) (rank : Option (BitVec 16)) : Piece :=
  let f := Rec.fmt r
  let w := q / subsOf f
  .unit r (recOffset r (w % Rec.dim0 r) (w / Rec.dim0 r)) (unitBytes f) (sizeClass f) (q % subsOf f) geom rank
def walkCount (r : BRec) : Nat := Rec.dim0 r * Rec.dim1 r
def walkPieces (r : BRec) : Nat := walkCount r * subsOf (Rec.fmt r)

/-- The rows of A that a product takes, with the blocks of A and B each meets: LMM and LMMS, or LMMG (R314, R315). -/
def CmdOp.plan : CmdOp → List (Nat × List (Nat × Nat))
  | .lmm _ _ _ _ _ d first count _ =>
    (List.range count).map fun i => (first + i, (List.range d.kblk.toNat).map fun k => (k, k))
  | .lmmg _ _ _ _ _ _ offs =>
    (offs.zip offs.tail).zipIdx.flatMap fun ((a, b), g) =>
      (List.range (b - a)).map fun i => (a + i, (List.range 8).map fun k => (k, 8 * g + k))
  | _ => []

/-- Units of A that one row takes, and the pieces of each. -/
def CmdOp.aUnits : CmdOp → Nat × Nat
  | .lmm _ _ _ _ _ d _ _ true => ((d.kblk.toNat + 7) / 8, 18)
  | .lmm _ a _ _ _ d _ _ false => ((16 * d.kblk.toNat + loomPer (Rec.fmt a) - 1) / loomPer (Rec.fmt a), subsOf (Rec.fmt a))
  | .lmmg _ a _ _ _ _ _ => ((128 + loomPer (Rec.fmt a) - 1) / loomPer (Rec.fmt a), subsOf (Rec.fmt a))
  | _ => (0, 1)

/-- Columns of the accumulator that a product takes: how many, and the first (R314). -/
def loomCols (c : BRec) (cs : BitVec 2) (d : LDesc) : Nat × Nat := (min d.ncol.toNat (Rec.dim0 c - 128 * cs.toNat), 128 * cs.toNat)
def CmdOp.cols : CmdOp → Nat × Nat
  | .lmm c _ _ _ cs d _ _ _ => loomCols c cs d
  | .lmmg c _ _ _ cs d _ => loomCols c cs d
  | _ => (0, 0)

/-- Strips of HALO (R339): width, height, first column and row sent, first column and row written, and the cell that counts it;
neighbour order N, E, S, W. -/
def haloStrip (t : BRec) (h dir : Nat) : Nat × Nat × Nat × Nat × Nat × Nat × Nat :=
  let d0 := Rec.dim0 t
  let d1 := Rec.dim1 t
  match dir with
  | 0 => (d0 - 2 * h, h, h, h, h, d1 - h, 2)
  | 1 => (h, d1 - 2 * h, d0 - 2 * h, h, 0, h, 3)
  | 2 => (d0 - 2 * h, h, h, d1 - 2 * h, h, 0, 0)
  | _ => (h, d1 - 2 * h, h, h, d0 - h, h, 1)

/-- The strip that a piece of HALO belongs to, and its place within the strip. -/
def haloFind (t : BRec) (h : Nat) : Nat → List (Nat × BitVec 16) → Nat → Option (Nat × Nat × BitVec 16 × Nat)
  | _, [], _ => none
  | k, (dir, rk) :: nb, i =>
    let n := (haloStrip t h dir).1 * (haloStrip t h dir).2.1
    if i < n then some (k, dir, rk, i) else haloFind t h (k + 1) nb (i - n)
def haloCount (t : BRec) (h : Nat) (nb : List (Nat × BitVec 16)) : Nat :=
  nb.foldl (fun a d => a + (haloStrip t h d.1).1 * (haloStrip t h d.1).2.1) 0
/-- A piece of a strip where it is sent from, or where it lands. -/
def haloPiece (t : BRec) (h : Nat) (nb : List (Nat × BitVec 16)) (i : Nat) (landing : Bool) : Piece :=
  let f := Rec.fmt t
  match haloFind t h 0 nb i with
  | none => .unit t 0 1 0 0 none none
  | some (_, dir, rk, q) =>
    let (w, _, cs, rs, cd, rd, _) := haloStrip t h dir
    .unit t (if landing then recOffset t (cd + q % w) (rd + q / w) else recOffset t (cs + q % w) (rs + q / w))
      (unitBytes f) (sizeClass f) 0 none (if landing then some rk else none)

/-- Lines and candidates of a search (R358). -/
def topkShape (sc : BRec) (col : Bool) : Nat × Nat := if col then (Rec.dim0 sc, Rec.dim1 sc) else (Rec.dim1 sc, Rec.dim0 sc)

/-- How many pieces a command reads. -/
def CmdOp.readCount (o : CmdOp) : Nat :=
  match o with
  | .copy _ src _ _ _ _ _ => walkPieces src
  | .lmm _ _ _ _ _ _ _ _ _ | .lmmg _ _ _ _ _ _ _ => o.plan.length * (o.aUnits.1 * o.aUnits.2 + o.cols.1)
  | .lbld b _ => walkPieces b
  | .ladr _ c _ => walkCount c
  | .topk _ sc _ _ _ _ _ _ => walkCount sc
  | .rread l _ _ => walkCount l
  | .rwrite src _ _ => walkPieces src
  | .halo t h nb => haloCount t h nb
  | .start _ _ | .lbswp | .laini _ _ => 0

/-- A piece of one row of A (R301, R316). -/
def loomAPiece (a : BRec) (bitmap : Bool) (row q : Nat) (subs : Nat) : Piece :=
  if bitmap then .slot a (recOffset a (q / subs) row) (q % subs)
  else
    let f := Rec.fmt a
    .unit a (recOffset a (q / subs) row) (unitBytes f) (sizeClass f) (q % subs) (if sizeClass f = 5 then some 0 else none) none

/-- Read piece i of a command. -/
def CmdOp.readPiece (o : CmdOp) (i : Nat) : Piece :=
  let product : BRec → BRec → Bool → Piece := fun c a bitmap =>
    let ap := o.aUnits.1 * o.aUnits.2
    let n := o.plan.length
    if i < n * ap then loomAPiece a bitmap ((o.plan.getD (i / ap) (0, [])).1) (i % ap) o.aUnits.2
    else
      let j := i - n * ap
      .acc c (o.cols.2 + j % o.cols.1) ((o.plan.getD (j / o.cols.1) (0, [])).1)
  match o with
  | .copy _ src _ _ _ _ _ => walkPiece src i none none
  | .lmm c a _ _ _ _ _ _ b => product c a b
  | .lmmg c a _ _ _ _ _ => product c a false
  | .lbld b _ => walkPiece b i (some 1) none
  | .ladr _ c _ => .acc c (i % Rec.dim0 c) (i / Rec.dim0 c)
  | .topk _ sc _ _ _ _ _ _ => if Rec.space sc = 3 then .acc sc (i % Rec.dim0 sc) (i / Rec.dim0 sc) else walkPiece sc i none none
  | .rread l rk off => .far rk (off + i * unitBytes (Rec.fmt l)) (unitBytes (Rec.fmt l))
  | .rwrite src _ _ => walkPiece src i none none
  | .halo t h nb => haloPiece t h nb i false
  | .start _ _ | .lbswp | .laini _ _ => .far 0 0 1

/-- How many pieces a command writes. LBLD: the padding, then the blocks. -/
def CmdOp.writeCount (o : CmdOp) : Nat :=
  match o with
  | .copy _ _ dst _ _ _ _ => walkPieces dst
  | .lmm _ _ _ _ _ _ _ _ _ | .lmmg _ _ _ _ _ _ _ => o.plan.length * o.cols.1
  | .lbld b _ => 1 + walkCount b
  | .laini c _ => walkCount c
  | .ladr d _ _ => walkPieces d
  | .topk _ sc k _ col _ _ _ => (topkShape sc col).1 * k
  | .rread l _ _ => walkCount l
  | .rwrite _ dst _ => walkPieces dst
  | .halo t h nb => haloCount t h nb
  | .start _ _ | .lbswp => 0

/-- Write piece j of a command. -/
def CmdOp.writePiece (o : CmdOp) (j : Nat) : Piece :=
  match o with
  | .copy _ _ dst _ _ _ _ => walkPiece dst j none none
  | .lmm c _ _ _ _ _ _ _ _ | .lmmg c _ _ _ _ _ _ =>
    .acc c (o.cols.2 + j % o.cols.1) ((o.plan.getD (j / o.cols.1) (0, [])).1)
  | .laini c _ => .acc c (j % Rec.dim0 c) (j / Rec.dim0 c)
  | .ladr d _ _ => walkPiece d j none none
  | .topk out _ k _ _ _ _ _ =>
    if Rec.space out = 3 then .acc out (j % k) (j / k)
    else .unit out (recOffset out (j % k) (j / k)) (unitBytes (Rec.fmt out)) (sizeClass (Rec.fmt out)) 0 none none
  | .rread l _ _ => walkPiece l j none none
  | .rwrite _ dst rk => walkPiece dst j none (if Rec.space dst = 1 then some rk else none)
  | .halo t h nb => haloPiece t h nb j true
  | .start _ _ | .lbswp | .lbld _ _ => .far 0 0 1

/-- The read pieces that a write piece needs. -/
def CmdOp.needs (o : CmdOp) (j : Nat) : List Nat :=
  let product : List Nat :=
    let ap := o.aUnits.1 * o.aUnits.2
    let ρ := j / o.cols.1
    (List.range ap).map (· + ρ * ap) ++ [o.plan.length * ap + j]
  match o with
  | .copy _ src dst _ _ _ _ =>
    if sizeClass (Rec.fmt dst) = 5 then [j]
    else
      let per := loomPer (Rec.fmt dst)
      let from_ := loomPer (Rec.fmt src)
      (List.range per).map fun h => (j * per + h) / from_
  | .lmm _ _ _ _ _ _ _ _ _ | .lmmg _ _ _ _ _ _ _ => product
  | .lbld b _ => if j = 0 then [] else (List.range (subsOf (Rec.fmt b))).map (· + (j - 1) * subsOf (Rec.fmt b))
  | .ladr d c _ =>
    if sizeClass (Rec.fmt d) = 5 then List.range (walkCount c)
    else
      let per := loomPer (Rec.fmt d)
      let x1 := j / Rec.dim0 d
      (List.range per).filterMap fun h =>
        let x0 := j % Rec.dim0 d * per + h
        if x0 < Rec.dim0 c then some (x1 * Rec.dim0 c + x0) else none
  | .topk _ sc k _ col _ _ _ =>
    (List.range (topkShape sc col).2).map fun i => if col then i * Rec.dim0 sc + j / k else j / k * Rec.dim0 sc + i
  | .rread _ _ _ | .rwrite _ _ _ | .halo _ _ _ => [j]
  | .start _ _ | .lbswp | .laini _ _ => []

/-! ## What is written -/

/-- The value of a piece as read. -/
def Cmd.val (c : Cmd) (i : Nat) : Nat := (c.got.get 0 i).toNat

/-- The 16 codes and the scale of a block from its pieces, the first of which is i. -/
def Cmd.block (c : Cmd) (f i : Nat) : List Nat × Nat :=
  let n := unitBytes f / 8
  let x := (List.range n).foldr (fun k a => c.val (i + k) + 2 ^ 64 * a) 0
  ((List.range 16).map fun e => x / 2 ^ (fmtBits f * e) % 2 ^ fmtBits f, c.val (i + n))

/-- The rank of bit b among the set bits of a bitmap. -/
def rankBits (m b : Nat) : Nat := (List.range b).countP fun i => m.testBit i

/-- Codes and scale of K-block k of a row of A whose pieces start at i: from units, or from packed slots with the pad value for an
absent element (R301, R316). -/
def Cmd.aBlock (c : Cmd) (f : Nat) (bitmap : Bool) (pad i k : Nat) : List Nat × Nat :=
  if bitmap then
    let b := i + k / 8 * 18
    let byte : Nat → Nat := fun n => c.val (b + n / 8) / 2 ^ (8 * (n % 8)) % 256
    let m := c.val b + 2 ^ 64 * c.val (b + 1)
    ((List.range 16).map fun e =>
      let p := 16 * (k % 8) + e
      if m.testBit p then byte (16 + rankBits m p) else pad, 127)
  else if sizeClass f = 5 then c.block f (i + k * subsOf f)
  else if loomPer f = 2 then
    ((List.range 16).map fun e => c.val (i + (16 * k + e) / 2) / 2 ^ (4 * (e % 2)) % 16, 127)
  else ((List.range 16).map fun e => c.val (i + 16 * k + e), 127)

/-- An element of a product after its row (R314 to R316), or after the planes that a split left (R319). -/
def State.product (s : State) (c : Cmd) (a : BRec) (pair : BitVec 3) (un : Bool) (d : LDesc) (bitmap : Bool) (j : Nat) : Nat × Flags :=
  let o := c.op
  let ap := o.aUnits.1 * o.aUnits.2
  let ρ := j / o.cols.1
  let (_, ks) := o.plan.getD ρ (0, [])
  let f := Rec.fmt a
  let base := loomBase (octetOf c.core) (s.loom (octetOf c.core)).act
  let A := c.aBlock f bitmap (loomPad pair un 0) (ρ * ap)
  let B := macroBlock s.mem base (j % o.cols.1)
  let old := c.val (o.plan.length * ap + j)
  match c.split with
  | some (r, q) => if r = ρ then loomSplitRow f d.bfmt.toNat q A B ks old else loomRow pair un f d.bfmt.toNat A B ks old
  | none => loomRow pair un f d.bfmt.toNat A B ks old

/-- The choosing of convert for an element of a copy: the mode, or the keyed draw with the element's counter (R150). -/
def copyConv (rm : BitVec 3) (key ctr : Word) (i : Nat) : Conv := if rm = 6 then .keyed key (ctr + BitVec.ofNat 64 i) else .rm rm.toNat

/-- Element i of the source of a copy, as read. Log 13 (DEDUCED). -/
def Cmd.element (c : Cmd) (f i : Nat) : Nat :=
  if loomPer f = 2 then c.val (i / 2) / 2 ^ (4 * (i % 2)) % 16 else c.val i

/-- The candidates a search chooses in line L, in ascending order (R358). -/
def Cmd.chosen (c : Cmd) (sc : BRec) (k : Nat) (col key min_ : Bool) (L : Nat) : List Nat :=
  let n := (topkShape sc col).2
  let at_ : Nat → Nat := fun i => if col then i * Rec.dim0 sc + L else L * Rec.dim0 sc + i
  searchChoose ((List.range n).map fun i => searchKey (Rec.fmt sc) (c.val (at_ i)) key min_) k

/-- The value a write piece takes, with its flags. `geom` is the geometry of the page it is written to. -/
def State.writeValue (s : State) (c : Cmd) (j : Nat) (geom : Nat) : Word × Flags :=
  match c.op with
  | .copy _ src dst conv rm key ctr =>
    if sizeClass (Rec.fmt dst) = 5 then (c.got.get 0 j, 0)
    else
      let per := loomPer (Rec.fmt dst)
      let rs := (List.range per).map fun h =>
        let i := j * per + h
        let x := c.element (Rec.fmt src) i
        if conv then convert x (Rec.fmt src) (Rec.fmt dst) (copyConv rm key ctr i) else (x, (0 : Flags))
      (BitVec.ofNat 64 (rs.foldr (fun r a => r.1 + 16 * a) 0), rs.foldl (fun f r => f ||| r.2) 0)
  | .lmm _ a pair un _ d _ _ b => let (x, f) := s.product c a pair un d b j; (BitVec.ofNat 64 x, f)
  | .lmmg _ a pair un _ d _ => let (x, f) := s.product c a pair un d false j; (BitVec.ofNat 64 x, f)
  | .laini _ pair => (BitVec.ofNat 64 (loomIdent pair), 0)
  | .ladr d acc rm =>
    let f := Rec.fmt d
    let el : Nat → Nat → Nat := fun x0 x1 => if x0 < Rec.dim0 acc ∧ x1 < Rec.dim1 acc then c.val (x1 * Rec.dim0 acc + x0) else 0
    if sizeClass f = 5 then
      let w := j / subsOf f
      let bx := w % Rec.dim0 d
      let by_ := w / Rec.dim0 d
      let xs := (List.range 16).map fun e =>
        valueOf (Rec.fmt acc) (match geom with
          | 0 => el (16 * bx + e) by_
          | 1 => el bx (16 * by_ + e)
          | _ => el (4 * bx + e % 4) (4 * by_ + e / 4))
      let (sc, es, fl) := quantise16 xs (elemOf f)
      let n := unitBytes f / 8
      let q := j % subsOf f
      if q = n then (BitVec.ofNat 64 sc, fl)
      else (BitVec.ofNat 64 (es.foldr (fun e a => e + 2 ^ fmtBits f * a) 0 / 2 ^ (64 * q)), fl)
    else
      let per := loomPer f
      let x1 := j / Rec.dim0 d
      let rs := (List.range per).map fun h =>
        let x0 := j % Rec.dim0 d * per + h
        if x0 < Rec.dim0 acc then convert (el x0 x1) (Rec.fmt acc) f (.rm rm.toNat) else (0, (0 : Flags))
      (BitVec.ofNat 64 (rs.foldr (fun r a => r.1 + 16 * a) 0), rs.foldl (fun f r => f ||| r.2) 0)
  | .topk _ sc k _ col key min_ _ =>
    let ch := c.chosen sc k col key min_ (j / k)
    (match ch[j % k]? with | some i => BitVec.ofNat 64 i | none => BitVec.allOnes 64, 0)
  | .rread _ _ _ | .rwrite _ _ _ | .halo _ _ _ => (c.got.get 0 j, 0)
  | .start _ _ | .lbswp | .lbld _ _ => (0, 0)

/-- The geometry of the page a unit is written to, for LADR (R97). -/
def State.pieceGeom (s : State) (c : Cmd) (a : Part1) : Nat :=
  if a.name ≠ AName.translated then 0
  else match s.translate c.ctx .store a.va.toNat with
    | .ok e => Pte.geom e.lo
    | _ => 0

/-! ## The range scoreboard (R136, R137) -/

/-- The smallest interval of local offsets that holds every byte of some units of a record (R136). -/
def touched (r : BRec) (u : Nat) (offs : List Int) : Option (Nat × Nat) :=
  offs.foldl (fun (a : Option (Nat × Nat)) o => match bound r o u with
    | .hit x =>
      let lo := (Rec.base r).toNat + x
      match a with
      | none => some (lo, lo + u - 1)
      | some (l, h) => some (min l lo, max h (lo + u - 1))
    | _ => a) none

/-- Offsets of a record's walk. -/
def walkOffsets (r : BRec) : List Int := (List.range (walkCount r)).map fun w => recOffset r (w % Rec.dim0 r) (w / Rec.dim0 r)

/-- The ranges of local memory a record names: core, first and last offset, and whether it is written (R136). -/
def localRanges (core : Nat) (r : BRec) (u : Nat) (write : Bool) : List (Nat × Nat × Nat × Bool) :=
  match Rec.space r with
  | 1 => (touched r u (walkOffsets r)).toList.map fun (l, h) => (core, l, h, write)
  | 3 => (List.range 8).filterMap fun i =>
      (touched r u ((List.range (Rec.dim1 r)).flatMap fun x1 =>
        ((List.range (Rec.dim0 r)).filter (· / 64 = i)).map fun x0 => accOffset r x0 x1)).map fun (l, h) => (leadOf core + i, l, h, write)
  | _ => []

/-- The ranges a command names (R136, R337 to R339); a landing of RWRITE on the issuer's own core among them. An octet-spread record takes
write entries whatever its use. -/
def State.ranges (s : State) (c : Cmd) : List (Nat × Nat × Nat × Bool) :=
  let u : BRec → Nat := fun r => unitBytes (Rec.fmt r)
  match c.op with
  | .copy _ src dst _ _ _ _ => localRanges c.core src (u src) false ++ localRanges c.core dst (u dst) true
  | .lmm acc a _ _ _ _ _ _ b => localRanges c.core a (if b then 144 else u a) false ++ localRanges c.core acc 4 true
  | .lmmg acc a _ _ _ _ _ => localRanges c.core a (u a) false ++ localRanges c.core acc 4 true
  | .lbld b _ => localRanges c.core b (u b) false
  | .laini acc _ => localRanges c.core acc 4 true
  | .ladr d acc _ => localRanges c.core acc 4 (Rec.space acc = 3) ++ localRanges c.core d (u d) true
  | .topk out sc _ _ _ _ _ _ => localRanges c.core sc (u sc) (Rec.space sc = 3) ++ localRanges c.core out (u out) true
  | .rread l _ _ => localRanges c.core l (u l) true
  | .rwrite src dst rk =>
    localRanges c.core src (u src) false
      ++ (if Rec.space dst = 1 && s.holder c.part rk = .at_ c.core then localRanges c.core dst (u dst) true else [])
  | .halo t h nb => nb.filterMap fun (dir, _) =>
      let (w, n, cs, rs, _, _, _) := haloStrip t h dir
      (touched t (u t) ((List.range (w * n)).map fun q => recOffset t (cs + q % w) (rs + q / w))).map fun (l, h) => (c.core, l, h, false)
  | .start _ _ | .lbswp => []

/-- Whether every core has room for the entries of a command (R137). -/
def State.boardRoom (s : State) (rs : List (Nat × Nat × Nat × Bool)) : Bool :=
  rs.all fun r => (s.core r.1).board.length + (rs.countP fun q => q.1 = r.1) ≤ 16

/-- Enter a command's ranges. -/
def State.boardTake (s : State) (id : Nat) (rs : List (Nat × Nat × Nat × Bool)) : State :=
  rs.foldl (fun s r => s.modCore r.1 fun c => { c with board := c.board ++ [⟨id, r.2.1, r.2.2.1, r.2.2.2⟩] }) s

/-- Free a command's entries. -/
def State.boardFree (s : State) (id : Nat) : State :=
  { s with cores := s.cores.map fun c => (c.1, { c.2 with board := c.2.board.filter fun b => b.cmd ≠ id }) }

/-- Whether an entry of a command overlaps an earlier entry of another (R137). -/
def boardHeld (l : List Board) (id : Nat) : Bool :=
  l.zipIdx.any fun (e, i) => e.cmd = id && (l.take i).any fun f => f.cmd ≠ id && (e.write || f.write) && f.lo ≤ e.hi && e.lo ≤ f.hi

/-! ## Which command may take a step -/

def CmdOp.isLoom : CmdOp → Bool
  | .lmm _ _ _ _ _ _ _ _ _ | .lmmg _ _ _ _ _ _ _ | .lbld _ _ | .lbswp | .laini _ _ | .ladr _ _ _ | .topk _ _ _ _ _ _ _ _ => true
  | _ => false
def CmdOp.isNi : CmdOp → Bool
  | .rread _ _ _ | .rwrite _ _ _ | .halo _ _ _ => true
  | _ => false
def CmdOp.channel : CmdOp → Option Nat
  | .copy ch _ _ _ _ _ _ => some ch
  | _ => none
def CmdOp.isRwrite : CmdOp → Bool
  | .rwrite _ _ _ => true
  | _ => false
/-- Commands that use the active set. -/
def CmdOp.usesActive : CmdOp → Bool
  | .lmm _ _ _ _ _ _ _ _ _ | .lmmg _ _ _ _ _ _ _ => true
  | _ => false

/-- Whether two commands stand in one queue: a channel, a core's Loom queue or a core's NI queue (R133). Log 42 (DEDUCED). -/
def sameQueue (a b : Cmd) : Bool :=
  match a.op.channel, b.op.channel with
  | some x, some y => x = y
  | none, none => a.core = b.core && ((a.op.isLoom && b.op.isLoom) || (a.op.isNi && b.op.isNi))
  | _, _ => false

/-- Commands accepted before one, oldest first. Log 42 (DEDUCED). -/
def State.earlier (s : State) (c : Cmd) : List Cmd := s.cmds.takeWhile fun k => k.id ≠ c.id
/-- The command is the head of its queue. Log 42 (DEDUCED). -/
def State.atHead (s : State) (c : Cmd) : Bool := !((s.earlier c).any (sameQueue c))

/-- The accumulator ranges of a Loom command (R298). -/
def CmdOp.accs (core : Nat) : CmdOp → List (Nat × Nat × Nat × Bool)
  | .lmm acc _ _ _ _ _ _ _ _ | .lmmg acc _ _ _ _ _ _ | .laini acc _ => localRanges core acc 4 true
  | .ladr _ acc _ => localRanges core acc 4 false
  | _ => []

/-- The order of R298 between an earlier command of the octet and a later one. Log 42 (DEDUCED). -/
def loomHolds (e c : Cmd) : Bool :=
  let lbld : CmdOp → Bool := fun o => match o with | .lbld _ _ => true | _ => false
  (c.op.accs c.core).any (fun x => (e.op.accs e.core).any fun y =>
    x.1 = y.1 && (x.2.2.2 || y.2.2.2) && x.2.1 ≤ y.2.2.1 && y.2.1 ≤ x.2.2.1)
  || (lbld c.op && (lbld e.op || e.op = .lbswp))
  || (c.op.usesActive && e.op = .lbswp)
  || (c.op = .lbswp && (e.op.usesActive || lbld e.op || e.op = .lbswp))

/-- The group of write pieces at whose end a command may be stopped: a row of a Loom command, an element of a copy (R319, R386).
Log 73 (DEDUCED). -/
def CmdOp.stopRow (o : CmdOp) (j : Nat) : Nat :=
  match o with
  | .copy _ _ dst _ _ _ _ => j / subsOf (Rec.fmt dst)
  | .lmm _ _ _ _ _ _ _ _ _ | .lmmg _ _ _ _ _ _ _ => j / o.cols.1
  | .lbld b _ => (j - 1) / Rec.dim0 b
  | .laini acc _ => j / Rec.dim0 acc
  | .ladr d _ _ => j / subsOf (Rec.fmt d) / Rec.dim0 d
  | .topk _ _ k _ _ _ _ _ => j / k
  | _ => 0

/-- A group has been written in part. Log 73 (DEDUCED). -/
def Cmd.midRow (c : Cmd) : Bool :=
  c.wrote.any fun (w : Nat × Unit) => (List.range c.op.writeCount).any fun j => c.op.stopRow j = c.op.stopRow w.1 && !c.wrote.has j

/-- A command has taken an engine step. -/
def Cmd.begun (c : Cmd) : Bool := !(c.got.isEmpty && c.wrote.isEmpty)

/-- Whether the save of its partition holds a command (R386, R319): in strict mode a Loom command that has begun goes on; otherwise a
Loom command stops at the end of a row and a copy at the end of an element. Log 73 (DEDUCED). -/
def State.saveHolds (s : State) (c : Cmd) : Bool :=
  (s.part c.part).gang = some 8 && !c.op.isNi && !(c.midRow || ((s.part c.part).dmode && c.op.isLoom && c.begun))

/-- Whether a command may take an engine step now (R133, R137, R298). Log 73 (DEDUCED). -/
def State.mayStep (s : State) (c : Cmd) : Bool :=
  c.fail.isNone && s.atHead c && !s.saveHolds c
  && (s.cores.all fun k => !(boardHeld k.2.board c.id))
  && (!c.op.isLoom || (c.parked.isEmpty && !((s.earlier c).any fun e => octetOf e.core = octetOf c.core && e.op.isLoom && loomHolds e c)))

/-- An accumulator is read once the rows before it are written (R314: one pass after another). Log 42 (DEDUCED). -/
def Cmd.readReady (c : Cmd) (i : Nat) : Bool :=
  if !c.op.usesActive then true
  else
    let ap := c.op.aUnits.1 * c.op.aUnits.2
    let n := c.op.plan.length
    i < n * ap || (List.range ((i - n * ap) / c.op.cols.1 * c.op.cols.1)).all fun j => c.wrote.has j

/-- Whether a write piece has what it needs and is not yet taken. Log 42 (DEDUCED). -/
def Cmd.writeReady (c : Cmd) (j : Nat) : Bool :=
  j < c.op.writeCount && !c.wrote.has j && (c.op.needs j).all (fun i => c.got.has i)
  && (match c.op with | .lbld _ _ => j = 0 || c.wrote.has 0 | _ => true)

/-- The row of a write piece (R338), for its order and its count. -/
def CmdOp.rowOf (o : CmdOp) (j : Nat) : Nat :=
  match o with
  | .rwrite _ dst _ => j / Rec.dim0 dst
  | .halo t h nb => match haloFind t h 0 nb j with | some (k, _) => k | none => 0
  | .lmm _ _ _ _ _ _ _ _ _ | .lmmg _ _ _ _ _ _ _ => (o.plan.getD (j / o.cols.1) (0, [])).1
  | .lbld b _ => (j - 1) / Rec.dim0 b
  | .laini acc _ => j / Rec.dim0 acc
  | .ladr d _ _ => j / subsOf (Rec.fmt d) / Rec.dim0 d
  | .topk _ _ k _ _ _ _ _ => j / k
  | _ => 0

/-- The row of a read piece. -/
def CmdOp.readRow (o : CmdOp) (i : Nat) : Nat :=
  match o with
  | .lmm _ _ _ _ _ _ _ _ _ | .lmmg _ _ _ _ _ _ _ =>
    let ap := o.aUnits.1 * o.aUnits.2
    let n := o.plan.length
    (o.plan.getD (if i < n * ap then i / ap else (i - n * ap) / o.cols.1) (0, [])).1
  | .lbld b _ => i / subsOf (Rec.fmt b) / Rec.dim0 b
  | .ladr _ acc _ => i / Rec.dim0 acc
  | .topk _ sc _ _ _ _ _ _ => i / Rec.dim0 sc
  | .rwrite src _ _ => i / Rec.dim0 src
  | .halo t h nb => match haloFind t h 0 nb i with | some (k, _) => k | none => 0
  | .rread l _ _ => i / Rec.dim0 l
  | _ => 0

/-- The `info` word of a command's record (R377). Log 39 (DEDUCED). -/
def Cmd.info (c : Cmd) (row : Nat) : Word :=
  match c.op with
  | .copy ch _ _ _ _ _ _ => BitVec.ofNat 64 (c.seq % 65536 * 65536 + ch)
  | .start ch _ => BitVec.ofNat 64 ch
  | o => if o.isLoom then BitVec.ofNat 64 (row % 256 * 65536 + c.seq % 65536) else BitVec.ofNat 64 row

/-- The `src` of a command's records (R377). -/
def CmdOp.src (o : CmdOp) : Nat := if o.isLoom then 2 else if o.isNi then 3 else 1

/-! ## The commands of the machine -/

def State.setCmd (s : State) (c : Cmd) : State := { s with cmds := s.cmds.map fun k => if k.id = c.id then c else k }

/-- A command of the executing strand, with what it takes at issue (R162, R307). -/
def State.newCmd (s : State) (op : CmdOp) (cw : Word) : Cmd :=
  let x := s.me
  { id := s.fresh, op := op, by_ := s.cur, core := coreOf s.cur, part := s.partOf s.cur, rank := x.rank, pc := x.pc, level := x.level,
    seals := x.heldKeys, frm := BitVec.ofNat 3 x.rm, wt := x.csr.lwrr.setWidth 4, cw := cw, seq := 0, got := [], wrote := [], seen := [], parked := [],
    flags := 0, fail := none, ord := x.task.ordinal, path := x.task.path, prio := x.task.prio, launches := x.task.launches, split := none }

/-- Stop a command at a failing unit (R84, R318). -/
def Cmd.stop (c : Cmd) (inner : BitVec 8) (addr : Word) (row : Nat) : Cmd := { c with fail := some ⟨inner, addr, c.info row, 0⟩ }

/-! ## Acceptance (R134, R148 to R152, R297) -/

/-- How an acceptance ends. -/
inductive Accepted where
  | ok (s : State)
  | held
  | trap (t : Trap)
  deriving DecidableEq, Repr

/-- The bytes of a copy's destination: homes, or addresses that do not translate, with the size of each unit and whether its page
counts as sealed (R152). -/
def State.copyBytes (s : State) (p core : Nat) (dst : BRec) : List (Bool × Nat × Nat × Bool) :=
  let u := unitBytes (Rec.fmt dst)
  (walkOffsets dst).filterMap fun o =>
    match bound dst o u with
    | .hit x =>
      let va := Rec.base dst + BitVec.ofNat 64 x
      if !inSpace dst va then none
      else match vaRegion va with
        | .alias_ => some (true, coreAddr core va.toNat, u, false)
        | .mesh => some (true, s.homeOf va.toNat, u, false)
        | .bad => none
        | .translated => match s.translate ⟨p, core, 2, []⟩ .load va.toNat with
          | .ok e => some (true, e.pa va.toNat, u, Pte.sealed e.lo)
          | _ => some (false, va.toNat, u, true)
    | _ => none

/-- Overlaps of two copies: whether some byte lies on a page that counts as sealed, and whether some lies on another (R152). Log 40
(DEDUCED). -/
def copyMeets (a b : List (Bool × Nat × Nat × Bool)) : Bool × Bool :=
  a.foldl (fun (r : Bool × Bool) x => b.foldl (fun (r : Bool × Bool) y =>
    if x.1 = y.1 && x.2.1 < y.2.1 + y.2.2.1 && y.2.1 < x.2.1 + x.2.2.1 then (if x.2.2.2 || y.2.2.2 then (true, r.2) else (r.1, true)) else r) r) (false, false)

/-- A record with its effective format named (R150): the cause and address of a failure otherwise. -/
def State.effective (s : State) (c : Ctx) (r : BRec) : Except (Option (BitVec 8 × Word)) BRec :=
  if Rec.fmt r ≠ 31 then .ok r
  else if vaRegion (Rec.base r) ≠ .translated then .error (some (0x08, Rec.base r))
  else match s.basePage c r with
    | .ok _ (some e) => .ok (setField r 184 5 ((Pte.fmt e.lo).setWidth 64))
    | .ok _ none => .error (some (0x08, Rec.base r))
    | .invalid t | .fault t => .error (some (t.cause, t.val))
    | .wait => .error none

/-- Whether two formats have one element size, for a copy without conversion (R150). Log 41 (DEDUCED). -/
def sameSize (a b : Nat) : Bool := (sizeClass a = 5) = (sizeClass b = 5) && unitBytes a = unitBytes b && fmtBits a = fmtBits b
/-- Whether convert takes a format (R107). Log 41 (DEDUCED). -/
def convertible (f : Nat) : Bool := f < 16 || f = 22

/-- Elements of a record as a copy counts them (R150). -/
def elementCount (r : BRec) : Nat := walkCount r * (if sizeClass (Rec.fmt r) = 4 then 2 else 1)

/-- Where the sixteen 8-byte parts of a template are read: none for a part taken from the die's cache, else its home (R150, R151). None
while a page is in transit. Log 21 (DESIGN CHOICE). Log 39 (DEDUCED). -/
def State.templateParts (s : State) (c : Cmd) (hit : Bool) (a : Word) : Option (Except (BitVec 8 × Word) (List (Option Part1))) :=
  (List.range 16).foldr (fun i r =>
    let part : Option (Except (BitVec 8 × Word) (Option Part1)) :=
      if hit && (Config.templateMix c.id).getLsbD i then some (.ok none)
      else match s.engineRoute c.ctx .load (a + BitVec.ofNat 64 (8 * i)) 8 0 with
        | .ok p => some (.ok (some p))
        | .fail x va _ => some (.error (x, va))
        | .wait => none
    match part, r with
    | none, _ => none
    | some (.error e), _ => some (.error e)
    | some (.ok _), none => none
    | some (.ok _), some (.error e) => some (.error e)
    | some (.ok x), some (.ok l) => some (.ok (x :: l))) (some (.ok []))

/-- The template that such parts give, a part of the cache from the cached one. -/
def State.templateValue (s : State) (cached : BitVec 1024) (ps : List (Option Part1)) : BitVec 1024 :=
  ps.zipIdx.foldl (fun w (x, i) =>
    let v := match x with | some a => (s.engineLoad none a).toNat | none => cached.toNat / 2 ^ (64 * i) % 2 ^ 64
    w ||| BitVec.ofNat 1024 (v * 2 ^ (64 * i))) 0

/-- What reading a template's parts at home does beside: one request for each line (R54), and the events of its loads (R175). -/
def State.templateRead (s : State) (c : Cmd) (ps : List (Option Part1)) : State :=
  let ps := ps.filterMap id
  let s := ps.foldl (fun s a => (s.engineReach c a).loadEvent c.part c.pc a) (s.discardParts c.ctx .load ps)
  (ps.foldl (fun (x : State × Cmd) a => (x.1.countLine c.part (x.2.once false a).pte, x.2.saw false a)) (s, c)).1

/-- The checks of R150 on a template: the copy, or the cause and address it is accepted as failed with; none while a page is in
transit. R150 gives the checks no order: that of the model is the reserved fields, the source, the destination, the page of `fmt` 31, then
`rm`, sizes and conversion, and the counts last. Log 89 (DESIGN CHOICE). -/
def State.copyOf (s : State) (c : Cmd) (chan : Nat) (a : Word) (w : BitVec 1024) : Option (Except (BitVec 8 × Word) CmdOp) :=
  let src : BRec := w.extractLsb' 0 256
  let dst : BRec := w.extractLsb' 256 256
  let rm : BitVec 3 := w.extractLsb' 512 3
  let conv := w.getLsbD 515
  if w.extractLsb' 516 60 ≠ 0 || w.extractLsb' 768 256 ≠ 0 then some (.error (0x08, a))
  else if recRefused src false then some (.error (0x08, Rec.base src))
  else if recRefused dst false then some (.error (0x08, Rec.base dst))
  else match s.effective c.ctx src, s.effective c.ctx dst with
  | .error none, _ | _, .error none => none
  | .error (some e), _ | _, .error (some e) => some (.error e)
  | .ok src, .ok dst =>
    if rm = 7 || (!conv && !sameSize (Rec.fmt src) (Rec.fmt dst)) || (conv && !(convertible (Rec.fmt src) && convertible (Rec.fmt dst)))
    then some (.error (0x08, a))
    else if elementCount src ≠ elementCount dst then some (.error (0x07, a))
    else some (.ok (.copy chan src dst conv (if rm = 0 then c.frm else rm) (w.extractLsb' 640 64) (w.extractLsb' 704 64)))

/-- Join a channel under its next sequence number (R138). -/
def State.joinChannel (s : State) (c : Cmd) (chan : Nat) : State :=
  let q := (s.chan chan).next
  let c := { c with seq := q.toNat, fail := c.fail.map fun (f : Failure) => { f with info := BitVec.ofNat 64 (q.toNat * 65536 + chan) } }
  { s with cmds := s.cmds ++ [c] }.modChan chan fun h => { h with next := h.next + 1 }

/-- The destination of a copy. -/
def CmdOp.dstOf : CmdOp → BRec
  | .copy _ _ dst _ _ _ _ => dst
  | _ => 0

/-- Accept a CPYT (R148 to R152). Of the 16 copies a channel's queue holds (R133), the one that runs is one: a choice of the model's. Log 39
(DEDUCED). Log 40 (DEDUCED). Log 90 (DEDUCED). -/
def State.acceptCopy (s : State) (c : Cmd) (chan t : Nat) : Accepted :=
  if (s.cmds.countP fun k => k.op.channel = some chan) ≥ 16 then .held
  else
    let die := chan / 256
    let a := ((s.part c.part).ctbase &&& 0x00FFFFFFFFFF0000) + BitVec.ofNat 64 (128 * t)
    let failed : Word → BRec → BitVec 8 × Word → Cmd := fun cw dst e =>
      { c with op := .copy chan 0 dst false 0 0 0, cw := cw, fail := some ⟨e.1, e.2, 0, 0⟩ }
    let hit := ((s.die die).templates.find? fun t => t.1 = a).map (·.2)
    match s.templateParts c hit.isSome a with
    | none => .held
    | some (.error e) => .ok ((s.discardAt c.ctx .load e.2).joinChannel (failed 0 0 e) chan)
    | some (.ok ps) =>
      let w := s.templateValue (hit.getD 0) ps
      let done : Word := w.extractLsb' 576 64
      match s.checkCw c.core c.part done with
      | some e => .trap e
      | none =>
        let op := s.copyOf c chan a w
        let s := (s.templateRead c ps).modDie die fun d =>
          if d.templates.any fun t => t.1 = a then d else { d with templates := d.templates ++ [(a, w)] }
        match op with
        | none => .held
        | some (.error e) =>
          -- its destination stays known, for the windows that name it (R140)
          let dst := match s.effective c.ctx (w.extractLsb' 256 256) with | .ok r => r | .error _ => w.extractLsb' 256 256
          .ok (s.joinChannel (failed done dst e) chan)
        | some (.ok op) =>
          let c := { c with op := op, cw := done }
          let rs := s.ranges c
          let mine := s.copyBytes c.part c.core op.dstOf
          let meets := (s.cmds.filter fun k => k.part = c.part && k.op.channel ≠ some chan && k.op.channel.isSome).map fun k =>
            copyMeets mine (s.copyBytes k.part k.core k.op.dstOf)
          if !s.boardRoom rs || meets.any (·.1) then .held
          else
            let s := (meets.filter (·.2)).foldl (fun s _ => s.dcause c.part 10 c.pc) s
            .ok ((s.boardTake c.id rs).joinChannel c chan)

/-- The issue-time view after a command is accepted (R296, R311, R312). -/
def Loom.accept (l : Loom) (op : CmdOp) : Loom :=
  match op with
  | .lbld b pad => { l with viewStg := { kblk := BitVec.ofNat 6 (Rec.dim1 b), ncol := BitVec.ofNat 8 (Rec.dim0 b), pad := pad,
                                         bfmt := BitVec.ofNat 5 (Rec.fmt b), sbm := true } }
  | .lbswp => { l with viewAct := l.viewStg, viewStg := l.viewAct }
  | _ => l

/-- Accept a command of a Loom or a network interface (R297, R136). -/
def State.acceptOther (s : State) (c : Cmd) : Accepted :=
  let rs := s.ranges c
  let full := c.op.isLoom && (s.cmds.countP fun k => k.core = c.core && k.op.isLoom) ≥ 16
  if full || !s.boardRoom rs then .held
  else
    let s := s.boardTake c.id rs
    if c.op.isLoom then
      let o := octetOf c.core
      .ok ({ s with cmds := s.cmds ++ [{ c with seq := (s.loom o).seq }] }.modLoom o fun l => { l.accept c.op with seq := l.seq + 1 })
    else
      -- an RREAD request and an RWRITE are messages of the strand, sent and taken here (R393): log 47 (DEDUCED)
      let s := match c.op with
        | .rread _ rk _ | .rwrite _ _ rk =>
          let s := s.countSent c.by_
          match s.rankPlace c.part rk with | some t => s.modStrand t fun x => { x with rcvd := x.rcvd + 1 } | none => s
        | _ => s
      .ok { s with cmds := s.cmds ++ [c] }

def State.acceptCmd (s : State) (c : Cmd) : Accepted :=
  match c.op with
  | .start chan t => s.acceptCopy c chan t
  | _ => s.acceptOther c

/-- Issue a command after the wait of R123: accepted at once, or left for its own step. `before` is what its issue does first, `back` the
state a stall leaves. Log 1 (DEDUCED). -/
def State.submit (s : State) (c : Cmd) (before : State → State) (back : State := s) : Out1 :=
  s.afterRelease (back := back) fun s =>
    let s' := before { s with fresh := s.fresh + 1 }
    if s.late then .next ({ s' with issued := s'.issued ++ [c] }.setMe { s'.me with wait := .accept })
    else match s'.acceptCmd c with
      | .ok s => .next s.retire8
      | .held => back.stall
      | .trap t => s.raise t

/-- Whether a product's view of the active set is still that of its issue (R307). Log 48 (DEDUCED). -/
def State.viewHolds (s : State) (c : Cmd) : Bool :=
  match c.op with
  | .lmm _ _ _ _ _ d _ _ _ | .lmmg _ _ _ _ _ d _ => (s.loom (octetOf c.core)).viewAct = d
  | _ => true

/-- ACCEPT: the issued command of a strand joins its queue, and the strand retires; a product whose view has changed since is
issued and checked again. Log 48 (DEDUCED). -/
def State.acceptStep (s : State) (t : Nat) : Option State :=
  match s.issued.find? fun c => c.by_ = t with
  | none => none
  | some c =>
    let drop : State → State := fun s =>
      { s with issued := s.issued.filter fun k => k.id ≠ c.id }.modStrand t fun x => { x with wait := .none }
    if !s.viewHolds c then some (drop s)
    else match s.acceptCmd c with
      | .ok s => some ((drop s).modStrand t fun x => x.advance 8)
      | .held => none
      | .trap e => some ((drop s).trapIn t e.cause e.val)

def execAccept (t : Nat) (s : State) : Out1 := enabled (s.acceptStep t)

/-! ## Steps (R134, R135) -/

/-- The watermark of a running copy: elements written without a gap from element 0 (R138). -/
def Cmd.watermark (c : Cmd) : Nat :=
  match c.op with
  | .copy _ _ dst _ _ _ _ =>
    let n := ((List.range (walkCount dst)).find? fun w => !((List.range (subsOf (Rec.fmt dst))).all fun q =>
      c.wrote.has (w * subsOf (Rec.fmt dst) + q))).getD (walkCount dst)
    n * (if sizeClass (Rec.fmt dst) = 4 then 2 else 1)
  | _ => 0

/-- Move `cur` and `wm` to a copy that runs (R138). -/
def State.running (s : State) (c : Cmd) : State :=
  match c.op.channel with
  | some ch => s.modChan ch fun h => { h with cur := BitVec.ofNat 16 c.seq, wm := BitVec.ofNat 32 c.watermark }
  | none => s

/-- A product over bitmaps that a later store or failure has made invalid fails at its first engine step (R296). -/
def State.bitmapGone (s : State) (c : Cmd) : Bool :=
  match c.op with
  | .lmm _ _ _ _ _ _ _ _ true =>
    let l := s.loom (octetOf c.core)
    c.got.isEmpty && c.wrote.isEmpty && !(if l.act then l.live1 else l.live0).sbm
  | _ => false

/-- Take read piece i of a command, already resolved. -/
def State.takeRead (s : State) (c : Cmd) (i : Nat) (a : Option Part1) : State :=
  let pc := c.op.readPiece i
  match a with
  | none => (s.setCmd { c with got := c.got.set i pc.zeros }).running c
  | some a =>
    let v := s.engineLoad (pc.key c.part) a
    let s := ((s.engineReach c a).loadEvent c.part c.pc a).countLine c.part (c.once false a).pte
    (s.setCmd ({ c with got := c.got.set i v }.saw false a)).running c

/-- The core whose TLB translates a piece: that of the core a rank's writes land at, else the command's (R338). -/
def State.pieceCore (s : State) (c : Cmd) : Piece → Nat
  | .unit _ _ _ _ _ _ (some rk) | .far rk _ _ => match s.holder c.part rk with | .at_ core => core | _ => c.core
  | _ => c.core

/-- A cached translation that refused a piece, or stood aside for a fresh walk's, is discarded (R77). -/
def State.pieceDiscard (s : State) (c : Cmd) (acc : Acc) (q : Piece) : State :=
  let ctx := { c.ctx with core := s.pieceCore c q }
  match s.pieceRoute c acc q with
  | .ok a => s.discardParts ctx acc [a]
  | .fail x va _ => if x = acc.cause then s.discardAt ctx acc va else s
  | _ => s

/-- ENGINE_READ. -/
def State.readStep (s : State) (id i : Nat) : Option State :=
  match s.cmd? id with
  | none => none
  | some c =>
    if !s.mayStep c || i ≥ c.op.readCount || c.got.has i || c.parked.contains (2 * i) || !c.readReady i then none
    else if s.bitmapGone c then some (s.setCmd (c.stop 0x13 9 (c.op.readRow i)))
    else
      let s' := s.pieceDiscard c .load (c.op.readPiece i)
      match s.pieceRoute c .load (c.op.readPiece i) with
      | .ok a => if s.engineWaits c.part a false then s.engineRouse a else some (s'.takeRead c i (some a))
      | .dropped => some (s.takeRead c i none)
      | .fail x va park => if park then none else some (s'.setCmd (c.stop x va (c.op.readRow i)))
      | .wait => none

/-- Messages of a strand to a rank that were sent before a command (R29, R340). Log 74 (DEDUCED). -/
def State.messagesBefore (s : State) (c : Cmd) (rk : BitVec 16) : Bool :=
  s.net.any fun m => m.for_.getD m.sender = c.by_ && m.rank = some rk && m.id < c.id

/-- The rank whose core a write piece lands at. -/
def CmdOp.landing (o : CmdOp) (j : Nat) : Option (BitVec 16) :=
  match o with
  | .rwrite _ _ rk => some rk
  | .halo t h nb => (haloFind t h 0 nb j).map fun x => x.2.2.1
  | _ => none

/-- The commands whose writes go row by row to a receiver, each row one request that may park (R156): RWRITE and HALO. -/
def CmdOp.rows : CmdOp → Bool
  | .rwrite _ _ _ | .halo _ _ _ => true
  | _ => false

/-- Whether an earlier row of the command stands parked, and whether the piece's own row does (R156, R158). Log 42 (DEDUCED). -/
def Cmd.rowParked (c : Cmd) (j : Nat) : Bool × Bool :=
  let r := c.op.rowOf j
  let rs := (c.parked.filter (· % 2 = 1)).map fun q => c.op.rowOf (q / 2)
  (rs.any (· < r), rs.contains r)

/-- The write pieces of a row. -/
def CmdOp.rowPieces (o : CmdOp) (r : Nat) : List Nat := (List.range o.writeCount).filter fun j => o.rowOf j = r

/-- The write pieces of the rows before a piece's: of RWRITE, or of HALO's strips to the same rank. -/
def CmdOp.rowsBefore (o : CmdOp) (j : Nat) : List Nat :=
  if !o.rows then []
  else (List.range o.writeCount).filter fun i => o.rowOf i < o.rowOf j && o.landing i = o.landing j

/-- Whether the row of a write piece may be started: rows start in ascending order, and none after one that fails (R338, R29), so every
earlier row has been read and has begun, and each unit of theirs is written, stands in a parked row or would not fail now. Log 42
(DEDUCED). -/
def State.rowReady (s : State) (c : Cmd) (j : Nat) : Bool :=
  let before := c.op.rowsBefore j
  let begun : Nat → Bool := fun i => c.wrote.has i || (c.rowParked i).2
  before.all fun i =>
    (c.op.needs i).all (fun k => c.got.has k)
    && (begun i || match s.pieceRoute c .store (c.op.writePiece i) with | .ok _ | .dropped => true | _ => false)
    && before.any fun k => c.op.rowOf k = c.op.rowOf i && begun k
/-- Every row before a write piece's is written. -/
def Cmd.rowsWritten (c : Cmd) (j : Nat) : Bool := (c.op.rowsBefore j).all fun i => c.wrote.has i

/-- What the last write of a row of RWRITE or of a strip of HALO does: the row's decrement, or the direction cell's, which goes to the
core where the strip landed (R338, R339). A strip is a message of the strand, sent and taken then; its decrement is part of it (R393). -/
def State.rowDone (s : State) (c : Cmd) (j : Nat) : State :=
  let r := c.op.rowOf j
  if !((c.op.rowPieces r).all fun k => c.wrote.has k) then s
  else match c.op with
  | .rwrite _ _ rk =>
    let s := match s.holder c.part rk with | .at_ core => s.arrival core | _ => s
    s.completeCw (engineSender c.id) c.core c.part c.cw c.by_ [] none false (ord := some c.id)
  | .halo t h nb =>
    match haloFind t h 0 nb j with
    | some (_, dir, rk, _) =>
      match s.rankPlace c.part rk with
      | some u =>
        let (_, _, _, _, _, _, cell) := haloStrip t h dir
        ((s.countSent c.by_).modStrand u fun x => { x with rcvd := x.rcvd + 1 }).post (engineSender c.id) (some rk) u false
          (.decrement (BitVec.ofNat 12 cell) 1 [] none false) (some c.by_) true
            (ord := some c.id)
      | none => s
    | none => s
  | _ => s

/-- Place write piece j of a command at a resolved home; `none` is a dropped unit. -/
def State.takeWrite (s : State) (c : Cmd) (j : Nat) (a : Option Part1) : State :=
  let geom := match a with | some a => s.pieceGeom c a | none => 0
  let (v, fl) := s.writeValue c j geom
  let c' := { c with wrote := c.wrote.set j (), flags := c.flags ||| fl }
  match a with
  | none => ((s.setCmd c').running c').rowDone c' j
  | some a =>
    let c' := c'.saw true a
    match ((s.engineReach c a).setCmd c').engineStore c' ((c.op.writePiece j).key c.part) (c.once true a) v with
    | .ok s => (s.running c').rowDone c' j
    | .error t => s.setCmd (c.stop t.cause t.val (c.op.rowOf j))

/-- A write step of LBLD, into the set that is staging (R311). -/
def State.lbldWrite (s : State) (c : Cmd) (b : BRec) (pad : Byte) (j : Nat) : State :=
  let o := octetOf c.core
  let base := loomBase o !(s.loom o).act
  let m :=
    if j = 0 then loomPadSet s.mem base pad
    else
      let w := j - 1
      let (es, sc) := c.block (Rec.fmt b) (w * subsOf (Rec.fmt b))
      loomPlace s.mem base (w % Rec.dim0 b) (w / Rec.dim0 b) es sc
  { s with mem := m }.setCmd { c with wrote := c.wrote.set j () }

/-- ENGINE_WRITE. -/
def State.writeStep (s : State) (id j : Nat) : Option State :=
  match s.cmd? id with
  | none => none
  | some c =>
    if !s.mayStep c || !c.writeReady j || c.parked.contains (2 * j + 1) || (c.op.rows && (c.rowParked j).2) then none
    else if s.bitmapGone c then some (s.setCmd (c.stop 0x13 9 (c.op.rowOf j)))
    else match c.op with
    | .lbld b pad => some (s.lbldWrite c b pad j)
    | o =>
      if (match o.landing j with | some rk => s.messagesBefore c rk | none => false) then none
      else
        let s' := s.pieceDiscard c .store (o.writePiece j)
        match s.pieceRoute c .store (o.writePiece j) with
        | .ok a =>
          if !s.rowReady c j || ((a.kind = .so || !o.isRwrite) && !c.rowsWritten j) then none
          else if s.engineWaits c.part a true then s.engineRouse a
          else some (s'.takeWrite c j (some a))
        | .dropped => if s.rowReady c j then some (s.takeWrite c j none) else none
        | .fail x va park => if park || !s.rowReady c j then none else some (s'.setCmd (c.stop x va (o.rowOf j)))
        | .wait => none

def execEngineRead (id i : Nat) (s : State) : Out1 := enabled (s.readStep id i)
def execEngineWrite (id i : Nat) (s : State) : Out1 := enabled (s.writeStep id i)

/-! ## Completion (R134, R147) -/

/-- Every read and write of a command has been taken. -/
def Cmd.taken (c : Cmd) : Bool :=
  (List.range c.op.readCount).all (fun i => c.got.has i) && (List.range c.op.writeCount).all fun j => c.wrote.has j

/-- The descriptors after an LBLD completes: the set it filled holds what it loaded, its bitmaps valid unless it failed; a failure
clears `sbm` of that set in the issue-time view too, in whichever role it stands (R296). -/
def State.lbldDone (s : State) (c : Cmd) (b : BRec) (pad : Byte) : State :=
  let o := octetOf c.core
  let d : LDesc := { kblk := BitVec.ofNat 6 (Rec.dim1 b), ncol := BitVec.ofNat 8 (Rec.dim0 b), pad := pad, bfmt := BitVec.ofNat 5 (Rec.fmt b),
                     sbm := c.fail.isNone }
  let swaps := (s.cmds.countP fun k => octetOf k.core = o && k.op = .lbswp)
  s.modLoom o fun l =>
    let l := if l.act then { l with live0 := d } else { l with live1 := d }
    if c.fail.isNone then l
    else if swaps % 2 = 1 then { l with viewAct := { l.viewAct with sbm := false } }
    else { l with viewStg := { l.viewStg with sbm := false } }

/-- A counter of a cluster's search arrays: its address (R355). -/
def State.counterAddr (s : State) (cl g col : Nat) : Nat :=
  poolAddr cl ((((s.cluster cl).sacfg.extractLsb' 0 8).toNat + 2) * 0x10000 + (g * 512 + col) * 16)

/-- Every chosen (column, score) of a search (R358). -/
def Cmd.selections (c : Cmd) (sc : BRec) (k : Nat) (col key min_ : Bool) : List (Nat × Nat) :=
  (List.range (topkShape sc col).1).flatMap fun L => (c.chosen sc k col key min_ L).map fun i =>
    if col then (L, c.val (i * Rec.dim0 sc + L)) else (i, c.val (L * Rec.dim0 sc + i))

/-- The counter step of a search (R358). -/
def State.countSelections (s : State) (cl g f : Nat) (l : List (Nat × Nat)) : State :=
  { s with mem := l.foldl (fun m (x : Nat × Nat) =>
      let a := s.counterAddr cl g x.1
      let m := Memory.writeN m a 4 ((Memory.readN m a 4 + 1) % 2 ^ 32)
      Memory.writeN m (a + 8) 8 ((Memory.readN m (a + 8) 8 + (searchSum f x.2).1) % 2 ^ 64)) s.mem }

/-- The tasks a search spawns (R358). -/
def State.searchSpawn (s : State) (c : Cmd) (g : Nat) (cols : List Nat) (blk : Word × Word × Word) : State :=
  let picked := (List.range 512).filter fun x => cols.contains x
  picked.foldl (fun s x =>
    let path := m64s c.path [c.ord + BitVec.ofNat 64 x + 1]
    let code := blk.1
    let r : TRec := { TRec.new (code &&& 0x00FFFFFFFFFFFFFC) blk.2.1 (code.extractLsb' 62 2) (code.extractLsb' 0 2) (blk.2.2.setWidth 30) c.core path
                        c.launches with
                      a0 := BitVec.ofNat 64 x, a1 := BitVec.ofNat 64 (cols.countP (· = x)), a2 := BitVec.ofNat 64 g,
                      a3 := BitVec.ofNat 64 picked.length }
    let (s, r) := s.stamp c.part r
    s.post (engineSender c.id) none (s.forkCore c.part c.core path * 16) false (.record r)) s

/-- What completion does beside reporting. -/
def State.opDone (s : State) (c : Cmd) : State :=
  match c.op with
  | .copy ch _ _ _ _ _ _ => s.modChan ch fun h => { h with cur := BitVec.ofNat 16 c.seq, wm := 0xFFFFFFFF }
  | .lbld b pad => s.lbldDone c b pad
  | .topk _ sc k g col key min_ blk =>
    if c.fail.isSome then s
    else
      let l := c.selections sc k col key min_
      let s := s.countSelections (clusterOf c.core) g (Rec.fmt sc) l
      match blk with | some b => s.searchSpawn c g (l.map (·.1)) b | none => s
  | _ => s

/-- Flags a completion merges: those of the steps, and of the counter step of a search. -/
def Cmd.allFlags (c : Cmd) : Flags :=
  match c.op with
  | .topk _ sc k _ col key min_ _ =>
    if c.fail.isSome then c.flags
    else (c.selections sc k col key min_).foldl (fun f x => f ||| (searchSum (Rec.fmt sc) x.2).2) c.flags
  | _ => c.flags

/-- The record of a failed command (R377, R383). Log 39 (DEDUCED). -/
def Cmd.record (c : Cmd) (f : Failure) : FaultRec :=
  { celled := false, parked := false, src := if f.code = 0 then c.op.src else 8, inner := f.inner,
    cause := if f.code = 0 then 0x14 else f.code, pc := c.pc, addr := f.addr, part := c.part, rank := c.rank, cw := c.cw, info := f.info }

/-- Free a command and report it (R134, R147). -/
def State.finish (s : State) (c : Cmd) : State :=
  let s := s.boardFree c.id
  let s := { s with cmds := s.cmds.filter fun k => k.id ≠ c.id, lands := s.lands.filter fun l => l.1 ≠ c.id }
  let s := s.modStrand c.by_ fun x => x.merge c.allFlags
  let s := s.opDone c
  let s := match c.fail with
    | some f => s.reportFailed (c.record f) (engineSender c.id) c.core c.by_
    | none => match c.op with
      | .rwrite _ _ _ => s
      | _ => s.completeCw (engineSender c.id) c.core c.part c.cw c.by_ [] none false
  if c.launches.isEmpty then s else s.reap c.part

/-- COMPLETE. -/
def State.completeStep (s : State) (id : Nat) : Option State :=
  match s.cmd? id with
  | none => none
  | some c =>
    if !s.atHead c || !c.parked.isEmpty || c.op = .lbswp || !(c.fail.isSome || (c.taken && s.mayStep c)) then none else some (s.finish c)

def execComplete (id : Nat) (s : State) : Out1 := enabled (s.completeStep id)

/-- LBSWP_EXCHANGE (R298, R312). -/
def State.exchangeStep (s : State) (id : Nat) : Option State :=
  match s.cmd? id with
  | none => none
  | some c =>
    if c.op ≠ .lbswp || !s.mayStep c then none
    else some ((s.modLoom (octetOf c.core) fun l => { l with act := !l.act }).finish c)

def execLbswpExchange (id : Nat) (s : State) : Out1 := enabled (s.exchangeStep id)

/-! ## The end of an Assay launch (R370) -/

/-- The record of an Assay launch (R377). -/
def Assay.record (a : Assay) (p : Nat) (inner : BitVec 8) (addr cw : Word) : FaultRec :=
  { celled := false, parked := false, src := 7, inner := inner, cause := 0x14, pc := a.pc, addr := addr, part := p, rank := a.rank, cw := cw, info := 0 }

/-- What the publication of a tile reports: the decrement of the completion cell, or its failed seal check (R147). -/
def State.tileReport (s : State) (p : Nat) (a : Assay) (bad : Option Word) : State :=
  match bad with
  | none => s.completeCw (engineSender a.id) a.core p a.cw a.by_ [] none false
  | some va => s.reportFailed (a.record p 0x06 va a.cw) (engineSender a.id) a.core a.by_

/-- Strands parked in GSTAT on a descriptor that no launch in flight has issue again (R372). -/
def State.wakeGstat (s : State) (p : Nat) (desc : Word) : State :=
  if (s.part p).assays.any fun a => a.desc = desc then s
  else (s.strandsOf p).foldl (fun s t => if (s.strand t).wait = .launch desc then s.endWait t id else s) s

/-- The last tile's report, then the end of the launch: its handles are let go. -/
def State.assayEnd (s : State) (p : Nat) (a : Assay) (bad : Option Word) : State :=
  let s := s.tileReport p a bad
  let s := s.modPart p fun x => { (((x.unref a.sur).unref a.chk).unref a.exa) with assays := x.assays.filter fun b => b.id ≠ a.id }
  (s.wakeGstat p a.desc).reap p

/-- The status word: bit t set when tile t took the exact path (R368). -/
def Assay.status (a : Assay) : Word :=
  BitVec.ofNat 64 (a.tiles.zipIdx.foldl (fun n (y, i) => if y.exact then n + 2 ^ i else n) 0)

/-- Write the status word as an engine write, before the last tile's report (R370). None while it cannot be tried. Log 38 (DEDUCED). -/
def State.assayStatus (s : State) (p : Nat) (a : Assay) (tile : Nat) (bad : Option Word) (again : Bool) : Option State :=
  let va := a.desc + 0x18
  let ctx : Ctx := ⟨p, a.core, a.level, a.seals⟩
  let r := s.engineRoute ctx .store va 8 0
  let s := s.discardAt ctx .store va
  match r with
  | .wait => none
  | .ok x =>
    if s.engineWaits p x true then s.engineRouse x
    else if special x then
      match s.specialStore x a.status a.level with
      | .ok s => some (s.assayEnd p a bad)
      | .error e => some ((s.report (a.record p e.cause e.val 0)).assayEnd p a bad)
    else some ((s.outsidePut p x a.status).assayEnd p a bad)
  | .fail c v park =>
    if !park then some ((s.report (a.record p c v 0)).assayEnd p a bad)
    else if again || !s.parkRoom p va.toNat then none
    else
      let s := s.modPart p fun x => { x with parkq := x.parkq ++ [⟨.status a.id tile va bad, false⟩] }
      some (s.parkRecord p a.rank a.pc va a.cw 7 0 0x05)

/-! ## Parking and replay (R156 to R158) -/

/-- PARK: piece number q, a read as 2 × i and a write as 2 × i + 1. A write of RWRITE or HALO parks its row, all of it that is not
written yet: once, at the first unit found so (R156). -/
def State.parkStep (s : State) (id q : Nat) : Option State :=
  match s.cmd? id with
  | none => none
  | some c =>
    let isW := q % 2 = 1
    let i := q / 2
    let ready := if isW then c.writeReady i else i < c.op.readCount && !c.got.has i && c.readReady i
    if !s.mayStep c || !ready || c.parked.contains q || s.bitmapGone c then none
    else
      let row := if isW then c.op.rowOf i else c.op.readRow i
      let go : Word → Option State := fun va =>
        if !s.parkRoom c.part va.toNat then none
        else
          let s := (s.pieceDiscard c (if isW then .store else .load) (if isW then c.op.writePiece i else c.op.readPiece i)).setCmd
            { c with parked := c.parked ++ [q] }
          let s := s.modPart c.part fun x =>
            { x with parkq := x.parkq ++ [⟨.piece id q va, false⟩] }
          some (s.parkRecord c.part c.rank c.pc va c.cw c.op.src (c.info row) (if isW then 0x05 else 0x04))
      match s.pieceRoute c (if isW then .store else .load) (if isW then c.op.writePiece i else c.op.readPiece i) with
      | .fail _ va true => if isW && c.op.rows && ((c.rowParked i).2 || !s.rowReady c i) then none else go va
      | .ok a => if isW && a.kind = .so && (c.rowParked i).1 && !(c.rowParked i).2 && s.rowReady c i then go a.va else none
      | _ => none

def execPark (id i : Nat) (s : State) : Out1 := enabled (s.parkStep id i)

/-- The address of a parked request. -/
def Parked.va : Parked → Word
  | .piece _ _ va => va
  | .atomic _ a _ _ _ => a.va
  | .status _ _ va _ => va
  | .pool _ va => va

/-- Take entry n out of a partition's fault queues. -/
def State.unpark (s : State) (p n : Nat) : State := s.modPart p fun x => { x with parkq := x.parkq.eraseIdx n }
/-- Entry n has been replayed once and stays. -/
def State.replayed (s : State) (p n : Nat) : State :=
  s.modPart p fun x => { x with parkq := x.parkq.zipIdx.map fun (e, i) => if i = n then { e with todo := false } else e }

/-- Whether a parked piece of an earlier row of a command is yet to be replayed. -/
def State.rowToReplay (s : State) (p : Nat) (c : Cmd) (j : Nat) : Bool :=
  (s.part p).parkq.any fun e => e.todo && match e.req with
    | .piece id q _ => id = c.id && q % 2 = 1 && c.op.rowOf (q / 2) < c.op.rowOf j
    | _ => false

/-- Replay a piece of a command that is no row's. -/
def State.replayUnit (s : State) (p n q : Nat) (c : Cmd) : Option State :=
  let isW := q % 2 = 1
  let i := q / 2
  let c' := { c with parked := c.parked.filter (· ≠ q) }
  let acc : Acc := if isW then .store else .load
  let piece := if isW then c.op.writePiece i else c.op.readPiece i
  let s' := s.pieceDiscard c acc piece
  match s.pieceRoute c acc piece with
  | .wait => none
  | .ok a =>
    if s.engineWaits p a isW then s.engineRouse a
    else
      let s := (s'.unpark p n).setCmd c'
      some (if isW then s.takeWrite c' i (some a) else s.takeRead c' i (some a))
  | .dropped =>
    let s := (s.unpark p n).setCmd c'
    some (if isW then s.takeWrite c' i none else s.takeRead c' i none)
  | .fail x va park =>
    some (if park then s'.replayed p n else ((s'.unpark p n).setCmd (c'.stop x va (if isW then c.op.rowOf i else c.op.readRow i))))

/-- Write pieces of a row with the homes they were routed to; those after one that stops the command stay unwritten. -/
def State.takeRow (s : State) (id : Nat) (l : List (Nat × Option Part1)) : State :=
  let failed : State → Bool := fun s => (s.cmd? id).any fun c => c.fail.isSome
  l.foldl (fun s' (x : Nat × Option Part1) => match s'.cmd? id with
    | some c => if failed s' && !failed s then s' else s'.takeWrite c x.1 x.2
    | none => s') s

/-- Replay a parked row: all its units that have been read and not written, together, or none of them (R156, R157). A row on an SO page
is replayed after the rows before it, whatever their homes: it waits while one of them is yet to be written or replayed, and stays parked
behind one that has parked again (R158). A row after the one that stopped the command is not written (R338). Log 42 (DEDUCED). -/
def State.replayRow (s : State) (p n q : Nat) (c : Cmd) : Option State :=
  let j := q / 2
  let r := c.op.rowOf j
  let c' := { c with parked := c.parked.filter (· ≠ q) }
  let todo := (c.op.rowPieces r).filter c.writeReady
  let at_ := todo.map fun i => (i, s.pieceRoute c .store (c.op.writePiece i))
  let s' := todo.foldl (fun s' i => s'.pieceDiscard c .store (c.op.writePiece i)) s
  let parts : List (Nat × Option Part1) := at_.filterMap fun x => match x.2 with
    | .ok a => some (x.1, some a)
    | .dropped => some (x.1, none)
    | _ => none
  let held := parts.filterMap fun x => x.2.filter fun a => s.engineWaits p a true
  let so := parts.any fun x => x.2.any fun a => a.kind = .so
  let waiting := (c.op.rowsBefore j).any fun i => !c.wrote.has i && !(c.rowParked i).2
  if c.fail.any (fun f => decide (f.info.toNat < r)) then some ((s.unpark p n).setCmd c')
  else if at_.any fun x => x.2 = .wait then none
  else if at_.any (fun x => match x.2 with | .fail _ _ park => park | _ => false) then some (s'.replayed p n)
  else match at_.findSome? fun x => match x.2 with | .fail e va _ => some (e, va) | _ => none with
  | some (e, va) => some ((s'.unpark p n).setCmd (if c.fail.isSome then c' else c'.stop e va r))
  | none =>
    if so && ((c'.rowParked j).1 || waiting && c.fail.isNone) then
      if s.rowToReplay p c j || !(c'.rowParked j).1 then none else some (s'.replayed p n)
    else match held with
    | a :: _ => s.engineRouse a
    | [] => some (((s'.unpark p n).setCmd c').takeRow c.id parts)

/-- Replay a piece of a command, with the row it parked for. -/
def State.replayPiece (s : State) (p n id q : Nat) : Option State :=
  match s.cmd? id with
  | none => some (s.unpark p n)
  | some c => if q % 2 = 1 && c.op.rows then s.replayRow p n q c else s.replayUnit p n q c

/-- The wait for a parked atomic ends: the strand goes on, or issues behind the atomic once it is released (R157, R203). -/
def State.endReplay (s : State) (t : Nat) (f : Strand → Strand) : State :=
  let x := s.strand t
  if x.wait ≠ .atomic then s
  else if x.st = .parked || (x.st = .moving && x.rest = .parked) then s.endWait t f
  else s.setStrand t { f x with wait := .none }

/-- The value a parked atomic brings, and the strand that waits for it goes on (R157); its core takes the arrival. A halted strand, when it
is released, issues behind the atomic (R203). -/
def State.atomicBack (s : State) (t : Nat) (id : Nat) (r : AtomReq) (old : Nat) : State :=
  let s := s.modStrand t fun x => { x with pend := x.pend.filter fun q => q.id ≠ id }.atomReturn r old
  if r.d = 0 then s else s.endReplay t fun x => x

/-- A parked atomic that now fails otherwise (R156, R378): a precise trap for a strand that waits for its value, which a halted one takes as
it issues the atomic again, else a record. Log 46 (DEDUCED). -/
def State.atomicFails (s : State) (p t id : Nat) (r : AtomReq) (e : Trap) : State :=
  let s := s.modStrand t fun x => { x with pend := x.pend.filter fun q => q.id ≠ id }
  if r.d = 0 then
    s.report { celled := false, parked := false, src := 8, inner := e.cause, cause := 0x14, pc := r.pc, addr := e.val, part := p,
               rank := (s.strand t).rank, cw := 0, info := 0 }
  else
    let s := s.endReplay t fun x => { x with pc := r.pc, fbuf := [] }
    if (s.strand t).st = .halted then s else s.trapIn t e.cause e.val

/-- Replay an atomic: translated afresh, checked against the seals and level of its issue (R157, R162), once nothing earlier of its strand
holds its step. Log 46 (DEDUCED). -/
def State.replayAtomic (s : State) (p n t : Nat) (a : Part1) (r : AtomReq) (seals : List (BitVec 32)) (lvl : BitVec 2) : Option State :=
  let x := s.strand t
  match x.pend.findIdx? fun q => q.parked && q.atom = some r && q.parts = [a] with
  | none => some (s.unpark p n)
  | some i =>
    match x.pend[i]? with
    | none => none
    | some q =>
      let ctx : Ctx := ⟨p, coreOf t, lvl, seals⟩
      let r' := s.route ctx .atomic a.va a.size 0
      let s := s.discardAt ctx .atomic a.va
      match r' with
      | .wait => none
      | .invalid _ => some (s.replayed p n)
      | .fault e => some ((s.unpark p n).atomicFails p t q.id r e)
      | .ok b _ =>
        if s.pendWaits t i q b false || s.pendWaits t i q b true || s.atomHeld t b then none
        else
          let (s, old) := ((s.unpark p n).loadEvent p r.pc b).atomStep p (coreOf t) (s.uncopied q.win b) r
          some (s.atomicBack t q.id r old)

/-- Replay the pool-base word of a launch (R46, R157): written, the launch goes on; failing otherwise, it is refused. -/
def State.replayPool (s : State) (p n : Nat) (l : Launch) : Option State :=
  match (packetCopies l.packet)[l.next]? with
  | none => some (s.unpark p n)
  | some (c, _, f) =>
    let l' := { l with stuck := false }
    let r := s.poolRoute p l.packet c f
    let s := s.discardAt (poolCtx p l.packet c) .store f
    match r with
    | .wait => none
    | .fail e va park => some (if park then s.replayed p n else (s.unpark p n).refuseLaunch p l' e va)
    | .ok a =>
      if s.engineWaits p a true then s.engineRouse a
      else match (s.unpark p n).poolWord p l.packet a (poolBase (l.runs.getD []) c) with
        | .ok s => some (s.setLaunch p { l' with next := l.next + 1 })
        | .error e => some ((s.unpark p n).refuseLaunch p l' e.cause e.val)

/-- REPLAY: entry n of a partition's fault queues; each home replays its own in the order they parked. -/
def State.replayStep (s : State) (p n : Nat) : Option State :=
  match (s.part p).parkq[n]? with
  | none => none
  | some e =>
    let home : ParkEntry → Nat := fun e => s.walkHome p e.req.va.toNat
    if !e.todo || (s.part p).saved.isSome || ((s.part p).parkq.take n).any (fun f => f.todo && home f = home e) then none
    else match e.req with
    | .piece id q _ => s.replayPiece p n id q
    | .atomic t a r seals lvl => s.replayAtomic p n t a r seals lvl
    | .status l tile va bad =>
      match (s.part p).assays.find? fun a => a.id = l with
      | none => some (s.unpark p n)
      | some a => match s.engineRoute ⟨p, a.core, a.level, a.seals⟩ .store va 8 0 with
        | .wait => none
        | .ok x => if s.engineWaits p x true then s.engineRouse x else (s.unpark p n).assayStatus p a tile bad true
        | .fail _ _ park =>
          if park then some ((s.discardAt ⟨p, a.core, a.level, a.seals⟩ .store va).replayed p n) else (s.unpark p n).assayStatus p a tile bad true
    | .pool l _ =>
      match (s.part p).launches.find? fun x => x.id = l with
      | none => some (s.unpark p n)
      | some l => s.replayPool p n l

def execReplay (p : BitVec 3) (n : Nat) (s : State) : Out1 := enabled (s.replayStep p.toNat n)

/-! ## CPYT, WMRD and TMPLINV (R148, R151, R343, R344) -/

/-- The channel an aperture word names, if its engine is the partition's (R148). -/
def State.aperture (s : State) (p : Nat) (w : Word) : Option Nat :=
  if w.extractLsb' 11 53 ≠ 0 || !inMask (s.mask p) ((w.extractLsb' 6 5).toNat / 4) then none
  else some (w.extractLsb' 0 11).toNat

def execCpyt (a t : BitVec 5) (_h : BitVec 2) (s : State) : Out1 :=
  let w := s.rs a
  let i := s.rs t
  match s.aperture (s.partOf s.cur) w with
  | none => s.trap 0x05 w
  | some ch => if i.toNat ≥ 4096 then s.trap 0x05 i else s.submit (s.newCmd (.start ch i.toNat) 0) id

/-- The state word of a channel (R138). -/
def Chan.word (c : Chan) : Word := (c.next.setWidth 64 <<< 48) ||| (c.cur.setWidth 64 <<< 32) ||| c.wm.setWidth 64

def execWmrd (d a : BitVec 5) (_h : BitVec 2) (s : State) : Out1 :=
  let w := s.rs a
  match s.aperture (s.partOf s.cur) w with
  | none => s.trap 0x05 w
  | some ch => .next ((s.event 4).put8 d (s.chan ch).word)

def execTmplinv (t : BitVec 5) (_h : BitVec 2) (al : BitVec 1) (s : State) : Out1 :=
  let i := s.rs t
  if al = 0 && i.toNat ≥ 4096 then s.trap 0x05 i
  else s.afterRelease fun s =>
    let p := s.partOf s.cur
    let a := ((s.part p).ctbase &&& 0x00FFFFFFFFFF0000) + i * 128
    let s := (maskDies (s.mask p)).foldl (fun s d => s.modDie d fun x =>
      { x with templates := if al = 1 then [] else x.templates.filter fun t => t.1 ≠ a }) s
    .next s.retire8

end Sys2Proof.Machine
end

