-- ==== Sys2Proof/Machine/Shake.lean ====
section
/-! DEFINITION. SHAKE256 of FIPS 202, which DIGEST, replica reports and measurements use (R345, R399, R418). -/

namespace Sys2Proof.Machine

/-- Rotation offsets by x + 5y. -/
def keccakRot : List Nat :=
  [0, 1, 62, 28, 27, 36, 44, 6, 55, 20, 3, 10, 43, 25, 39, 41, 45, 15, 21, 8, 18, 2, 61, 56, 14]

/-- Round constants. -/
def keccakRc : List Word :=
  [0x0000000000000001, 0x0000000000008082, 0x800000000000808A, 0x8000000080008000, 0x000000000000808B, 0x0000000080000001,
   0x8000000080008081, 0x8000000000008009, 0x000000000000008A, 0x0000000000000088, 0x0000000080008009, 0x000000008000000A] ++
  [0x000000008000808B, 0x800000000000008B, 0x8000000000008089, 0x8000000000008003, 0x8000000000008002, 0x8000000000000080,
   0x000000000000800A, 0x800000008000000A, 0x8000000080008081, 0x8000000000008080, 0x0000000080000001, 0x8000000080008008]

/-- One round on 25 lanes. -/
def keccakRound (a : List Word) (rc : Word) : List Word :=
  let at_ := fun (l : List Word) i => l.getD i 0
  let c := (List.range 5).map fun x => at_ a x ^^^ at_ a (x + 5) ^^^ at_ a (x + 10) ^^^ at_ a (x + 15) ^^^ at_ a (x + 20)
  let d := (List.range 5).map fun x => at_ c ((x + 4) % 5) ^^^ (at_ c ((x + 1) % 5)).rotateLeft 1
  let t := (List.range 25).map fun i => (at_ a i ^^^ at_ d (i % 5)).rotateLeft (keccakRot.getD i 0)
  -- lane (x, y) of b is lane (x', y') of t with y = 2x' + 3y' and x = y'
  let b := (List.range 25).map fun i => let x := i % 5; let y := i / 5; at_ t ((x + 3 * y) % 5 + 5 * x)
  (List.range 25).map fun i =>
    let x := i % 5
    let y := i / 5
    let v := at_ b i ^^^ (~~~(at_ b ((x + 1) % 5 + 5 * y)) &&& at_ b ((x + 2) % 5 + 5 * y))
    if i = 0 then v ^^^ rc else v

def keccak (a : List Word) : List Word := keccakRc.foldl keccakRound a

/-- Eight bytes as a lane. -/
def laneOfBytes (l : List Byte) : Word := BitVec.ofNat 64 (l.foldr (fun b n => b.toNat + 256 * n) 0)

/-- Absorb one block of 136 bytes. -/
def absorb (a : List Word) (blk : List Byte) : List Word :=
  keccak ((List.range 25).map fun i => a.getD i 0 ^^^ if i < 17 then laneOfBytes ((blk.drop (8 * i)).take 8) else 0)

/-- Absorb whole blocks; the fuel is their number. -/
def absorbAll : Nat → List Word → List Byte → List Word
  | 0, a, _ => a
  | n + 1, a, l => absorbAll n (absorb a (l.take 136)) (l.drop 136)

/-- The message with its padding. -/
def shakePad (l : List Byte) : List Byte :=
  let z := 135 - l.length % 136
  if z = 0 then l ++ [0x9F] else l ++ [0x1F] ++ List.replicate (z - 1) 0 ++ [0x80]

/-- n bytes of a number, the lowest first. -/
def bytesOf : Nat → Nat → List Byte
  | 0, _ => []
  | n + 1, x => BitVec.ofNat 8 x :: bytesOf n (x / 256)

/-- The first lanes of 8 bytes that SHAKE256 gives for a message, at most seventeen. -/
def shakeLanes (n : Nat) (l : List Byte) : List Byte :=
  let p := shakePad l
  let a := absorbAll (p.length / 136) (List.replicate 25 0) p
  (a.take n).flatMap fun w => bytesOf 8 w.toNat
/-- The first 32 bytes of SHAKE256 of a message. -/
def shake256 (l : List Byte) : List Byte := shakeLanes 4 l
/-- SHAKE256 of a message with 64 bytes of output (R418). -/
def shake512 (l : List Byte) : List Byte := shakeLanes 8 l

end Sys2Proof.Machine
end

