-- ==== Sys2Proof/Machine/Message.lean ====
section
/-! DEFINITION. The MSG major (R334 to R340), shadows as SHDW, PUBL and DISC open and end them (R141 to R145), and DIGEST (R345,
R399). -/

namespace Sys2Proof.Machine

/-! ## SEND and SENDM (R335, R336) -/

/-- The checks of a message header (R335). Log 10 (DEDUCED). -/
def State.headerBad (s : State) (hdr : Word) (n : Nat) : Option Trap :=
  if hdr.extractLsb' 32 32 ≠ 0 || hdr.extractLsb' 0 8 ≠ 0 then some ⟨0x0B, s.ir⟩
  else if (hdr.extractLsb' 8 4).toNat ≠ n || n > s.me.q[7].length then some ⟨0x0C, 0⟩
  else none

/-- Send one message to each rank of a list, in order, with the n oldest words of q7. Log 30 (DEDUCED). -/
def State.sendAll (s : State) (rks : List (BitVec 16)) (hdr : Word) (n : Nat) : Out1 :=
  match s.headerBad hdr n with
  | some e => s.raise e
  | none => s.afterRelease fun s =>
      let t := s.cur
      let (ws, x) := s.me.take7 n
      let s := (s.setMe x).retire8
      .next (rks.foldl (fun s rk => s.sendRank t rk (.decrement (hdr.extractLsb' 20 12) (hdr.extractLsb' 12 8) ws none false)) s)

def execSend (d hd : BitVec 5) (_h : BitVec 2) (n : BitVec 4) (s : State) : Out1 :=
  let dw := s.rs d
  match s.resolve (coreOf s.cur) (s.partOf s.cur) dw with
  | none => s.trap 0x05 dw
  | some (rk, _) => s.sendAll [rk] (s.rs hd) n.toNat

/-- The ranks of the copies of a SENDM from copy i on, or the first word that fails (R336). A copy number that carries out of the
index field gives a word that fails (log 30). -/
def State.sendRanks (s : State) (dw : Word) : Nat → Nat → Except Word (List (BitVec 16))
  | 0, _ => .ok []
  | m + 1, i =>
    let lo := (dw.extractLsb' 0 16).toNat + i
    let w := dw + BitVec.ofNat 64 i
    if lo > 0xFFFF then .error w
    else match s.resolve (coreOf s.cur) (s.partOf s.cur) w with
      | none => .error w
      | some (rk, _) => (s.sendRanks dw m (i + 1)).map (rk :: ·)

/-- Log 30 (DEDUCED). -/
def execSendm (d hd m : BitVec 5) (_h : BitVec 2) (n : BitVec 4) (s : State) : Out1 :=
  let cnt := s.rs m
  if cnt.toNat > 4096 then s.trap 0x05 cnt
  else match s.sendRanks (s.rs d) cnt.toNat 0 with
    | .error w => s.trap 0x05 w
    | .ok rks => s.sendAll rks (s.rs hd) n.toNat

/-! ## RREAD, RWRITE and HALO (R337 to R339) -/

/-- Whether a record's format is none of the plain ones. -/
def notPlain (r : BRec) : Bool := Rec.fmt r = 31 || sizeClass (Rec.fmt r) = 5

/-- What issuing a network command does for each rank it goes to (R28). Log 31 (DEDUCED). -/
def State.toRank (s : State) (rk : BitVec 16) : State := s.niFill (coreOf s.cur) (s.partOf s.cur) rk

/-- Log 31 (DEDUCED). -/
def execRread (d : BitVec 5) (rl : BitVec 4) (sr c : BitVec 5) (_h : BitVec 2) (s : State) : Out1 :=
  let L := s.rb rl
  let dw := s.rs d
  let src := s.rs sr
  let cw := s.rs c
  let last := src.toNat + walkCount L * unitBytes (Rec.fmt L)
  if recRefused L false || Rec.space L ≠ 1 || notPlain L then s.trap 0x08 (Rec.base L)
  else if !(last ≤ 0x20000 || (0x30000 ≤ src.toNat && last ≤ 0x40000)) then s.trap 0x05 src
  else match s.resolve (coreOf s.cur) (s.partOf s.cur) dw with
  | none => s.trap 0x05 dw
  | some (rk, _) =>
    match s.checkCw (coreOf s.cur) (s.partOf s.cur) cw with
    | some e => s.raise e
    | none => s.submit (s.newCmd (.rread L rk src.toNat) cw) fun s => s.toRank rk

/-- A record of `fmt` 31 takes the format of the page that holds its `base`, at issue and for the whole command, as R150 says of a copy.
Log 31 (DEDUCED). Log 96 (DEDUCED). -/
def execRwrite (d : BitVec 5) (rs rt : BitVec 4) (c : BitVec 5) (_h : BitVec 2) (s : State) : Out1 :=
  let S := s.rb rs
  let T := s.rb rt
  let dw := s.rs d
  let cw := s.rs c
  let x := s.ctx s.cur
  if recRefused S false then s.trap 0x08 (Rec.base S)
  else if recRefused T false then s.trap 0x08 (Rec.base T)
  else match s.effective x S, s.effective x T with
  | .error none, _ | _, .error none => s.stall
  | .error (some e), _ | _, .error (some e) => s.trap e.1 e.2
  | .ok src, .ok dst =>
    if sizeClass (Rec.fmt src) = 5 || sizeClass (Rec.fmt dst) = 5 || !sameSize (Rec.fmt src) (Rec.fmt dst) then s.trap 0x08 (Rec.base S)
    else if walkCount src ≠ walkCount dst then s.trapIr 0x07
    else match s.resolve (coreOf s.cur) (s.partOf s.cur) dw with
    | none => s.trap 0x05 dw
    | some (rk, _) =>
      match s.checkCw (coreOf s.cur) (s.partOf s.cur) cw with
      | some e => s.raise e
      | none => s.submit (s.newCmd (.rwrite src dst rk) cw) fun s => s.toRank rk

/-- The neighbours a block names, in the order N, E, S, W, or the first word that fails (R339). Log 31 (DEDUCED). -/
def State.neighbours (s : State) : List (Nat × Word) → Except Word (List (Nat × BitVec 16))
  | [] => .ok []
  | (dir, w) :: l =>
    if w = 0 then s.neighbours l
    else match s.resolve (coreOf s.cur) (s.partOf s.cur) w with
      | none => .error w
      | some (rk, _) => (s.neighbours l).map ((dir, rk) :: ·)

/-- Log 31 (DEDUCED). -/
def execHalo (rt : BitVec 4) (nb : BitVec 5) (_h : BitVec 2) (hw : BitVec 4) (s : State) : Out1 :=
  let T := s.rb rt
  let h := hw.toNat
  if recRefused T false || Rec.space T ≠ 1 || notPlain T then s.trap 0x08 (Rec.base T)
  else if Rec.dim0 T < 3 * h || Rec.dim1 T < 3 * h then s.trapIr 0x07
  else match s.recParts .load (s.rs nb) with
  | .trap t => s.raiseAccess .load t
  | .wait => s.stall
  | .ok ps => match s.loadNow ps with
    | none => s.stall
    | some (s', vs) =>
      match s'.neighbours ((List.range 4).map fun i => (i, BitVec.ofNat 64 (vs.getD i 0))) with
      | .error w => s'.trap 0x05 w
      | .ok nb => s'.submit (s'.newCmd (.halo T h nb) 0) (fun s => nb.foldl (fun s n => s.toRank n.2) s) s

/-! ## Shadows (R141 to R145) -/

/-- Bytes of the shadow region that a shadow of an extent reserves (R141). -/
def shadowNeed (extent : Nat) : Nat := 128 * ((extent + 63) / 64 + 1)
def Part.shadowRegion (x : Part) : Nat := (x.shreg.extractLsb' 48 16).toNat * 2 ^ 24
def Part.shadowUsed (x : Part) : Nat := x.shadows.foldl (fun a h => a + shadowNeed h.key.extent.toNat) 0
/-- A slot and the reservation are free (R142). -/
def Part.shadowFits (x : Part) (k : ShKey) : Bool :=
  x.shadows.length < 64 && x.shadowUsed + shadowNeed k.extent.toNat ≤ x.shadowRegion

/-- The addresses at which the range of a record meets a new 64 KiB page, its `base` first. -/
def pagesOf (base extent : Nat) : List Nat :=
  if extent = 0 then [] else base :: (List.range ((base + extent - 1) / 2 ^ 16 - base / 2 ^ 16)).map fun i => (base / 2 ^ 16 + i + 1) * 2 ^ 16

/-- What the range check of SHDW finds at the pages of a list (R142). -/
def State.shadowPages (s : State) (c : Ctx) : List Nat → Checked Bool
  | [] => .ok false
  | a :: as =>
    let va := BitVec.ofNat 64 a
    if vaRegion va ≠ .translated then s.shadowPages c as
    else match s.translate c .load a with
      | .wait => .wait
      | .invalid | .fault => .trap ⟨0x04, va⟩
      | .ok e => match s.shadowPages c as with
        | .ok b => .ok (b || Pte.ord e.lo = 2)
        | r => r

/-- Whether a range touches an untranslated region that no shadow may lie in. Log 32 (DEDUCED). -/
def State.shadowRegionBad (s : State) (c : Ctx) (base extent : Nat) : Bool :=
  extent ≠ 0 &&
  ((base < 0x30000 && base + extent > 0x20000) || base + extent > 2 ^ 56
   || (pagesOf base extent).any fun a => meshBase ≤ a &&
        (!inMask (s.mask c.p) ((a - meshBase) / 2 ^ 34) || match meshRegion a with | .local_ _ _ | .pool _ _ => false | _ => true))

/-- Two shadows share a byte. Log 32 (DEDUCED). -/
def ShKey.overlaps (a b : ShKey) : Bool :=
  a.base.toNat < b.base.toNat + b.extent.toNat && b.base.toNat < a.base.toNat + a.extent.toNat

def Shadow.new (k : ShKey) : Shadow := { key := k, closed := false, bytes := [], vas := [], closer := none, before := [] }
def State.openShadow (s : State) (p : Nat) (k : ShKey) : State := s.modPart p fun x => { x with shadows := x.shadows ++ [.new k] }

/-- Log 32 (DEDUCED). -/
def execShdw (r : BitVec 4) (_h : BitVec 2) (s : State) : Out1 :=
  let R := s.rb r
  let c := s.ctx s.cur
  let k := shKeyOf c.p R
  let x := s.part c.p
  match rangeRefused R with
  | some e => s.raise e
  | none => match s.shadowPages c (pagesOf (Rec.base R).toNat (Rec.extent R)) with
  | .trap t => s.raiseAccess .load t
  | .wait => s.stall
  | .ok uo =>
    if uo || s.shadowRegionBad c (Rec.base R).toNat (Rec.extent R) || x.shadowRegion = 0 then s.trap 0x08 (Rec.base R)
    else if x.shadows.any (fun h => h.key.overlaps k || h.key = k) || shadowNeed (Rec.extent R) > x.shadowRegion then s.trapIr 0x07
    else s.afterRelease fun s =>
      if x.shadowFits k then .next (s.openShadow c.p k).retire8
      else .next (s.setMe { s.me with st := .parked, wait := .shadow k })

/-- SHADOW_OPEN: a strand that waits in SHDW goes on; where its range has come to overlap another shadow it issues again. Log 32 (DEDUCED).
-/
def State.shadowOpenStep (s : State) (t : Nat) : Option State :=
  let x := s.strand t
  let p := s.partOf t
  match x.wait with
  | .shadow k =>
    if !(x.st = .parked || (x.st = .moving && x.rest = .parked)) || s.coreHalted (coreOf t) || !(s.part p).shadowFits k then none
    else if (s.part p).shadows.any fun h => h.key.overlaps k || h.key = k then some (s.endWait t id)
    else some ((s.openShadow p k).endWait t fun x => x.advance 8)
  | _ => none

def execShadowOpen (t : Nat) (s : State) : Out1 := enabled (s.shadowOpenStep t)

/-- The records a command writes through. -/
def CmdOp.written : CmdOp → List BRec
  | .copy _ _ dst _ _ _ _ => [dst]
  | .lmm c _ _ _ _ _ _ _ _ | .lmmg c _ _ _ _ _ _ | .laini c _ => [c]
  | .ladr d _ _ => [d]
  | .topk o _ _ _ _ _ _ _ => [o]
  | .rread l _ _ => [l]
  | .rwrite _ dst _ => [dst]
  | .halo t _ _ => [t]
  | .start _ _ | .lbld _ _ | .lbswp => []

/-- Close a shadow to new writes; the first close names its closer and the commands accepted before it (R143, R144). -/
def State.closeShadow (s : State) (p : Nat) (k : ShKey) (t : Option Nat) : State :=
  let ids := (s.cmds.filter fun c => c.part = p && c.op.written.any fun r => shKeyOf p r = k).map (·.id)
  s.modPart p fun x => { x with shadows := x.shadows.map fun h =>
    if h.key = k && !h.closed then { h with closed := true, closer := t, before := ids } else h }

def State.freeShadow (s : State) (p : Nat) (k : ShKey) : State :=
  s.modPart p fun x => { x with shadows := x.shadows.filter fun h => h.key ≠ k }

/-- The lines a publication writes, each with the address of a byte of it. -/
def Shadow.lineVas (h : Shadow) : SMap Word := h.vas.foldl (fun m (b : Nat × Word) => if m.has (lineAt b.1) then m else m.set (lineAt b.1) b.2) []

/-- The entry whose counter a request for the line of an address raises (R54). -/
def State.counterOf (s : State) (p : Nat) (va : Word) : Option Nat :=
  if vaRegion va ≠ .translated then none
  else match s.walk p va.toNat with
    | .ok e => if e.large then none else some e.pte
    | _ => none

/-- Place every written byte of a shadow at its home, one request for each line (R54), and free it (R144). -/
def State.publishBytes (s : State) (p : Nat) (h : Shadow) : State :=
  let u := { s with
    mem := h.bytes.foldl (fun m (b : Nat × Byte) => Memory.write m b.1 b.2) s.mem,
    lands := h.bytes.foldl (fun l (b : Nat × Byte) => cutLand none b.1 1 l) s.lands }
  (h.lineVas.foldl (fun u (l : Nat × Word) => u.countLine p (s.counterOf p l.2)) u).freeShadow p h.key

/-- Whether a swap holds a byte of a publication at its home (R60). -/
def State.publishHeld (s : State) (p : Nat) (h : Shadow) : Bool := h.bytes.any fun b => s.swapBytes p b.1 1

/-- The lowest address of a written byte of a page that is sealed now, by a key that is not held (R144). -/
def State.lacks (s : State) (p core : Nat) (h : Shadow) (held : List (BitVec 32)) : Option Word :=
  (h.vas.filter fun x => vaRegion x.2 = .translated && match s.sealAt p core x.2 with | some k => !held.contains k | none => false).foldl
    (fun (a : Option Word) x => match a with | some w => some (if x.2 < w then x.2 else w) | none => some x.2) none

/-- The waits of PUBL and DISC are over: as for an `strl.dev`, and the commands accepted before the close are done. -/
def State.shadowSettled (s : State) (t : Nat) (h : Shadow) (publish : Bool) : Bool :=
  (s.strand t).released && !s.backHeld (coreOf t) && !(publish && s.publishHeld (s.partOf t) h) && h.before.all fun i => s.cmds.all (·.id ≠ i)

/-- The end of PUBL or DISC for a strand, whose waits are over: publish or discard, or the seal trap. -/
def State.endShadow (s : State) (t : Nat) (h : Shadow) (publish : Bool) : State :=
  let p := s.partOf t
  let s := s.writeBackAll (coreOf t)
  let s := s.modStrand t fun x => { x with wait := .none }
  match (if publish then s.lacks p (coreOf t) h (s.strand t).heldKeys else none) with
  | some va => s.trapIn t 0x06 va
  | none => (if publish then s.publishBytes p h else s.freeShadow p h.key).modStrand t fun x => x.advance 8

/-- PUBL and DISC: the close, and the end at once where nothing is left to wait for. -/
def State.closing (s : State) (r : BitVec 4) (publish : Bool) : Out1 :=
  let R := s.rb r
  let p := s.partOf s.cur
  let k := shKeyOf p R
  match rangeRefused R with
  | some e => s.raise e
  | none =>
  if (s.shadowOf p k).isNone then s.trapIr 0x07
  else
    let s := s.closeShadow p k (some s.cur)
    match s.shadowOf p k with
    | none => s.stall
    | some h =>
      if s.shadowSettled s.cur h publish && !s.late then .next (s.endShadow s.cur h publish)
      else .next (s.setMe { s.me with wait := if publish then .publ k else .disc k })

def execPubl (r : BitVec 4) (_h : BitVec 2) (s : State) : Out1 := s.closing r true
def execDisc (r : BitVec 4) (_h : BitVec 2) (s : State) : Out1 := s.closing r false

/-- PUBLISH_STEP and DISCARD_STEP; a strand whose shadow another strand has ended issues again, and traps there (R145). Log 32 (DEDUCED). -/
def State.shadowStep (s : State) (t : Nat) (publish : Bool) : Option State :=
  let k := match (s.strand t).wait with | .publ k => if publish then some k else none | .disc k => if publish then none else some k | _ => none
  match k with
  | none => none
  | some k =>
    if s.coreHalted (coreOf t) then none
    else match s.shadowOf (s.partOf t) k with
    | none => some (s.modStrand t fun x => { x with wait := .none })
    | some h => if s.shadowSettled t h publish then some (s.endShadow t h publish) else none

def execPublishStep (t : Nat) (s : State) : Out1 := enabled (s.shadowStep t true)
def execDiscardStep (t : Nat) (s : State) : Out1 := enabled (s.shadowStep t false)

/-! ## DIGEST (R345) and replica slots (R399) -/

/-- The bytes of units in walk order, a block's scale byte behind it; dropped units read as R84 says. -/
def unitBytesOf (zc u : Nat) (cls : Nat) : List Unit1 → List Nat → List Byte
  | [], _ => []
  | none :: l, vs => List.replicate u (BitVec.ofNat 8 zc) ++ (if cls = 5 then [127] else []) ++ unitBytesOf zc u cls l vs
  | some (ps, _) :: l, vs =>
    ((ps.zip vs).flatMap fun (a, v) => bytesOf a.size v) ++ unitBytesOf zc u cls l (vs.drop ps.length)

/-- The replica slot that four parts cover, while replica checking is on (R398, R399). Log 33 (DEDUCED). -/
def State.slotOf (s : State) (p : Nat) (ps : List Part1) : Option Nat :=
  let f := (s.cluster (s.lead p)).rpcfg
  let base := (f.extractLsb' 16 40).toNat * 0x10000
  match ps with
  | [a, b, c, d] =>
    let o := a.va.toNat - base
    if f.getLsbD 0 && a.name = AName.mesh && base ≤ a.va.toNat && o < 0x10000 && o % 32 = 0 && a.thru.isNone
       && b.va = a.va + 8 && c.va = a.va + 16 && d.va = a.va + 24 then some (o / 32) else none
  | _ => none

/-- The digest record's units are checked as loads, which come first, then as stores, and both before the source. Log 33 (DEDUCED). -/
def execDigest (rd rs : BitVec 4) (_h : BitVec 2) (s : State) : Out1 :=
  let D := s.rb rd
  let S := s.rb rs
  let c := s.ctx s.cur
  if recRefused D false || (Rec.fmt D ≠ 31 && sizeClass (Rec.fmt D) ≠ 3) then s.trap 0x08 (Rec.base D)
  else
  let at_ : List Int := (List.range 4).map fun (i : Nat) => (8 * i : Int)
  match s.checkUnits c D 8 3 .load at_ with
  | .trap t => s.raiseAccess .load t
  | .wait => s.stall
  | .ok _ => match s.checkUnits c D 8 3 .store at_ with
  | .trap t => s.raiseAccess .store t
  | .wait => s.stall
  | .ok ds =>
    if recRefused S false then s.trap 0x08 (Rec.base S)
    else match s.effective c S with
    | .error none => s.stall
    | .error (some e) => s.trap e.1 e.2
    | .ok E =>
      let u := unitBytes (Rec.fmt E)
      let cls := sizeClass (Rec.fmt E)
      let len := walkCount S * u
      if len > 2 ^ 24 then s.trap 0x07 (BitVec.ofNat 64 len)
      else match s.checkUnits c S u cls .load (walkOffsets S) with
      | .trap t => s.raiseAccess .load t
      | .wait => s.stall
      | .ok us =>
        let old := placeUnits (s.thruOf c.p D false) 64 ds
        let out := placeUnits (s.thruOf c.p D true) 64 ds
        let slot := s.slotOf c.p out
        let busy := match slot with | some n => (s.part c.p).slots.has n | none => false
        if busy || s.storeStalls out then s.stall
        else match s.loadNow (old ++ placeUnits (s.thruOf c.p S false) 0 us) with
        | none => s.stall
        | some (s, vs) =>
          let prev := unitBytesOf (zeroCode (s.zeroFmt c D)) 8 3 ds vs
          let data := unitBytesOf (zeroCode (Rec.fmt E)) u cls us (vs.drop old.length)
          let h := (shake256 (prev ++ bytesOf 8 len ++ data)).foldr (fun b n => b.toNat + 256 * n) 0
          let s := match slot with
            | some n => s.modPart c.p fun x => { x with slots := x.slots.set n (BitVec.ofNat 256 h) }
            | none => s
          s.store out (BitVec.ofNat 576 h) none [] 8

/-- What the comparison of a slot finds (R399, R400): both partners' digests, when both have submitted it. -/
def State.replicaPair (s : State) (p slot : Nat) : Option (Nat × BitVec 256 × BitVec 256) :=
  let f := (s.cluster (s.lead p)).rpcfg
  let q := (f.extractLsb' 4 3).toNat
  let g := (s.cluster (s.lead q)).rpcfg
  let a := (s.part p).slots
  let b := (s.part q).slots
  if p ≠ q && f.getLsbD 0 && g.getLsbD 0 && (g.extractLsb' 4 3).toNat = p && s.mask p ≠ 0 && s.mask q ≠ 0 && a.has slot && b.has slot then
    some (q, a.get 0 slot, b.get 0 slot)
  else none

/-- Enter a replica report in the first of the eight entries that is not valid, or count it lost (R406). Log 59 (DESIGN CHOICE). -/
def Io.report (x : Io) (r : Report) : Io :=
  match x.reports.findIdx? fun y => !y.valid with
  | some i => { x with reports := x.reports.set i r }
  | none => if x.reports.length < 8 then { x with reports := x.reports ++ [r] } else { x with lostReports := x.lostReports + 1 }

/-- REPLICA_COMPARE (R399, R400). Log 56 (DEDUCED). -/
def State.replicaStep (s : State) (p slot : Nat) : Option State :=
  match s.replicaPair p slot with
  | none => none
  | some (q, a, b) =>
    let s := (s.modPart p fun x => { x with slots := x.slots.del slot }).modPart q fun x => { x with slots := x.slots.del slot }
    if a = b then some s
    else
      let s := ((s.gangStop p 7).gangStop q 7).modPart p fun x => { x with tdi := .error }
      let s := s.modPart q fun x => { x with tdi := .error }
      let r : Report := { a := BitVec.ofNat 3 p, b := BitVec.ofNat 3 q, slot := BitVec.ofNat 11 slot, da := a, db := b, valid := true }
      some { s with io := s.io.report r }

def execReplicaCompare (p : BitVec 3) (slot : BitVec 11) (s : State) : Out1 := enabled (s.replicaStep p.toNat slot.toNat)

end Sys2Proof.Machine
end

