-- ==== Sys2Proof/Machine/Forge.lean ====
section
/-! DEFINITION. The Forge (R346 to R354, R401, R402): the trace, residual storage, and the FORGE major. -/

namespace Sys2Proof.Machine

/-! ## What the trace folds and what it drops (R348) -/

/-- An ALU or immediate instruction as the Forge sees it: its sources, its destination, its meaning, and for DIV, DIVN, REM and REMN
the divisor. -/
structure Foldable where
  srcs : List (BitVec 5)
  d : BitVec 5
  run : State → Out1
  divisor : Option (BitVec 5)

/-- The ALU and immediate majors (R243 to R245). -/
def foldable : Instr → Option Foldable
  | .add d a b h => some ⟨[a, b], d, execAdd d a b h, none⟩
  | .sub d a b h => some ⟨[a, b], d, execSub d a b h, none⟩
  | .and d a b h => some ⟨[a, b], d, execAnd d a b h, none⟩
  | .or d a b h => some ⟨[a, b], d, execOr d a b h, none⟩
  | .xor d a b h => some ⟨[a, b], d, execXor d a b h, none⟩
  | .andn d a b h => some ⟨[a, b], d, execAndn d a b h, none⟩
  | .shl d a b h => some ⟨[a, b], d, execShl d a b h, none⟩
  | .shr d a b h => some ⟨[a, b], d, execShr d a b h, none⟩
  | .sha d a b h => some ⟨[a, b], d, execSha d a b h, none⟩
  | .rotl d a b h => some ⟨[a, b], d, execRotl d a b h, none⟩
  | .min d a b h => some ⟨[a, b], d, execMin d a b h, none⟩
  | .max d a b h => some ⟨[a, b], d, execMax d a b h, none⟩
  | .minn d a b h => some ⟨[a, b], d, execMinn d a b h, none⟩
  | .maxn d a b h => some ⟨[a, b], d, execMaxn d a b h, none⟩
  | .slt d a b h => some ⟨[a, b], d, execSlt d a b h, none⟩
  | .sltn d a b h => some ⟨[a, b], d, execSltn d a b h, none⟩
  | .seq d a b h => some ⟨[a, b], d, execSeq d a b h, none⟩
  | .clz d a h => some ⟨[a], d, execClz d a h, none⟩
  | .ctz d a h => some ⟨[a], d, execCtz d a h, none⟩
  | .popc d a h => some ⟨[a], d, execPopc d a h, none⟩
  | .sext d a h w => some ⟨[a], d, execSext d a h w, none⟩
  | .zext d a h w => some ⟨[a], d, execZext d a h w, none⟩
  | .lea d a b h k => some ⟨[a, b], d, execLea d a b h k, none⟩
  | .mul d a b h => some ⟨[a, b], d, execMul d a b h, none⟩
  | .mulh d a b h => some ⟨[a, b], d, execMulh d a b h, none⟩
  | .mulhn d a b h => some ⟨[a, b], d, execMulhn d a b h, none⟩
  | .div d a b h => some ⟨[a, b], d, execDiv d a b h, some b⟩
  | .divn d a b h => some ⟨[a, b], d, execDivn d a b h, some b⟩
  | .rem d a b h => some ⟨[a, b], d, execRem d a b h, some b⟩
  | .remn d a b h => some ⟨[a, b], d, execRemn d a b h, some b⟩
  | .cmov d a b h => some ⟨[a, b, d], d, execCmov d a b h, none⟩
  | .addi d a i => some ⟨[a], d, execAddi d a i, none⟩
  | .andi d a i => some ⟨[a], d, execAndi d a i, none⟩
  | .ori d a i => some ⟨[a], d, execOri d a i, none⟩
  | .xori d a i => some ⟨[a], d, execXori d a i, none⟩
  | .slti d a i => some ⟨[a], d, execSlti d a i, none⟩
  | .shi d a k c => some ⟨[a], d, execShi d a k c, none⟩
  | .lih d i => some ⟨[], d, execLih d i, none⟩
  | .lix d a i => some ⟨[a], d, execLix d a i, none⟩
  | _ => none

/-- A conditional branch: its operands, displacement and condition (R246). -/
def branchOf : Instr → Option (BitVec 5 × BitVec 5 × BitVec 16 × (Word → Word → Bool))
  | .beq a b i => some (a, b, i, fun x y => x = y)
  | .bne a b i => some (a, b, i, fun x y => x ≠ y)
  | .blt a b i => some (a, b, i, fun x y => x.slt y)
  | .bge a b i => some (a, b, i, fun x y => !x.slt y)
  | .bltn a b i => some (a, b, i, fun x y => x.ult y)
  | .bgen a b i => some (a, b, i, fun x y => !x.ult y)
  | _ => none

/-- The s registers that an instruction other than those writes. -/
def sDests : Instr → List (BitVec 5)
  | .lds d _ _ _ | .ldaq d _ _ _ _ | .sld d _ _ _ _ _ => [d]
  | .aadd d _ _ _ _ _ | .aand d _ _ _ _ _ | .aor d _ _ _ _ _ | .axor d _ _ _ _ _ | .amin d _ _ _ _ _ | .amax d _ _ _ _ _
  | .aminn d _ _ _ _ _ | .amaxn d _ _ _ _ _ | .axchg d _ _ _ _ _ | .afadd d _ _ _ _ | .afaddh d _ _ _ _ _ | .afmax d _ _ _ _ _
  | .acas d _ _ _ _ _ => [d]
  | .brgetf d _ _ _ | .qrd d _ _ | .qcnt d _ _ => [d]
  | .qtry d a _ _ => [d, a]
  | .vext d _ _ _ | .vredadd d _ _ _ | .vredmax d _ _ _ | .vredmin d _ _ _ | .vfredadd d _ _ _ | .vfredmax d _ _ _ => [d]
  | .vcomp _ _ b _ _ => [b]
  | .kget d _ | .kpopc d _ | .kfirst d _ => [d]
  | .jcrd d _ _ _ | .sealq d _ _ | .self d _ _ | .migr d _ _ => [d]
  | .csrrd d _ | .csrwr d _ _ | .csrset d _ _ | .csrclr d _ _ => [d]
  | .part d _ _ _ | .preemptSave d _ _ | .preemptRest d _ _ => [d]
  | .lstat d _ | .rcrd d _ _ _ | .wmrd d _ _ | .spec d _ _ _ | .hstat d _ _ | .gstat d _ _ => [d]
  | .add d _ _ _ | .sub d _ _ _ | .and d _ _ _ | .or d _ _ _ | .xor d _ _ _ | .andn d _ _ _ | .shl d _ _ _ | .shr d _ _ _ | .sha d _ _ _
  | .rotl d _ _ _ | .min d _ _ _ | .max d _ _ _ | .minn d _ _ _ | .maxn d _ _ _ | .slt d _ _ _ | .sltn d _ _ _ | .seq d _ _ _
  | .clz d _ _ | .ctz d _ _ | .popc d _ _ | .sext d _ _ _ | .zext d _ _ _ | .lea d _ _ _ _ | .mul d _ _ _ | .mulh d _ _ _ | .mulhn d _ _ _
  | .div d _ _ _ | .divn d _ _ _ | .rem d _ _ _ | .remn d _ _ _ | .cmov d _ _ _ | .addi d _ _ | .andi d _ _ | .ori d _ _ | .xori d _ _
  | .slti d _ _ | .shi d _ _ _ | .lih d _ | .lix d _ _ => [d]
  | _ => []

/-- Known values of s registers. -/
abbrev Known := Vector (Option Word) 32

def Known.get (k : Known) (r : BitVec 5) : Option Word := if r = 0 then some 0 else Vector.get k r.toFin
def Known.put (k : Known) (r : BitVec 5) (v : Option Word) : Known := if r = 0 then k else Vector.set k r.toNat v r.isLt

/-- The value an ALU or immediate instruction gives its destination for known sources: its own meaning at a strand that holds
them. -/
def Foldable.value (f : Foldable) (k : Known) : Word :=
  let s := State.reset.setStrand 0 { Strand.reset with s := k.map fun v => v.getD 0 }
  match f.run s with
  | .next s' => (s'.strand 0).rs f.d
  | _ => 0

/-- A word of the ADDI, ORI, LIX or J major. -/
def wAddi (d : Nat) (v : Nat) : IWord := BitVec.ofNat 32 (0x02 * 2 ^ 26 + d * 2 ^ 21 + v % 65536)
def wOri (d : Nat) (c : Nat) : IWord := BitVec.ofNat 32 (0x04 * 2 ^ 26 + d * 2 ^ 21 + c)
def wLix (d : Nat) (c : Nat) : IWord := BitVec.ofNat 32 (0x09 * 2 ^ 26 + d * 2 ^ 21 + d * 2 ^ 16 + c)

/-- materialise of R348. Log 34 (DEDUCED). -/
def materialise (d : Nat) (v : Word) : List IWord :=
  if -0x8000 ≤ v.toInt ∧ v.toInt < 0x8000 then [wAddi d v.toNat]
  else
    let chunk : Nat → Nat := fun i => v.toNat / 2 ^ (16 * i) % 65536
    let top := ([3, 2, 1].find? fun i => chunk i ≠ 0).getD 0
    wOri d (chunk top) :: ((List.range top).reverse.map fun i => wLix d (chunk i))

/-- How a trace ends: the residual's words without a final jump, how many instructions they are, where that jump goes, and the two
flags; a fault of a source fetch; or not yet. -/
inductive Traced where
  | ok (out : List IWord) (len : Nat) (stop : Option Word) (bound kept : Bool)
  | fault (t : Trap)
  | wait
  deriving DecidableEq, Repr

/-- The lines a trace has requested, newest first, with the entries they count at. -/
abbrev Asked : Type := List (Nat × Option Nat)

/-- The requests of a trace with that for a word it reads: a new one unless the last was for the same line (R54). -/
def askFor (pc : Word) (pte : Option Nat) (asked : Asked) : Asked :=
  let l := pc.toNat / 64
  match asked with
  | x :: _ => if x.1 = l then asked else (l, pte) :: asked
  | [] => [(l, pte)]

/-- The loop of R348. The fuel is the number of steps left; `out` holds the words emitted, newest first, `asked` the lines requested from
their homes so far, newest first, with their entries: one request for words of a line read in sequence (R54). Log 34 (DEDUCED). -/
def State.traceLoop (s : State) (t : Nat) (code : Word) (size insns : Nat) :
    Nat → Word → Known → List IWord → Nat → Bool → Asked → Traced × Asked
  | fuel, pc, k, out, len, kept, asked =>
    let fin : Traced → Traced × Asked := fun r => (r, asked)
    let inside : Word → Bool := fun a => code.toNat ≤ a.toNat && a.toNat < code.toNat + size
    if !inside pc then fin (.ok out.reverse len (some pc) false kept)
    else match fuel with
    | 0 => fin (.ok out.reverse len (some pc) true kept)
    | fuel + 1 =>
      match s.fetchWord t pc with
      | .wait => fin .wait
      | .trap e => fin (.fault e)
      | .word w e =>
        let asked := askFor pc e asked
        let fin : Traced → Traced × Asked := fun r => (r, asked)
        match if isLong w then s.fetchWord t (pc + 4) else .word 0 none with
        | .wait => fin .wait
        | .trap e => fin (.fault e)
        | .word x e =>
          let asked := if isLong w then askFor (pc + 4) e asked else asked
          let fin : Traced → Traced × Asked := fun r => (r, asked)
          let raw := if isLong w then [w, x] else [w]
          let next := pc + BitVec.ofNat 64 (4 * raw.length)
          let fits : Nat → Bool := fun n => len + n + 1 ≤ insns
          let emit : List IWord → Nat → Known → Traced × Asked := fun ws n k =>
            if fits n then s.traceLoop t code size insns fuel next k (ws.reverse ++ out) (len + n) kept asked
            else fin (.ok out.reverse len (some pc) true kept)
          match decode w x with
          | .error _ => emit raw 1 k
          | .ok i =>
            match foldable i with
            | some f =>
              if f.srcs.all fun r => (Known.get k r).isSome then
                if f.divisor.any fun b => Known.get k b = some 0 then
                  if fits 1 then s.traceLoop t code size insns fuel next (Known.put k f.d none) (raw.reverse ++ out) (len + 1) true asked
                  else fin (.ok out.reverse len (some pc) true kept)
                else if f.d = 0 then emit [] 0 k
                else
                  let v := f.value k
                  let ws := materialise f.d.toNat v
                  emit ws ws.length (Known.put k f.d (some v))
              else emit raw 1 (Known.put k f.d none)
            | none =>
              match branchOf i with
              | some (a, b, d, c) =>
                match Known.get k a, Known.get k b with
                | some x, some y =>
                  let target := pc + (d.signExtend 64 <<< 2)
                  if !c x y then s.traceLoop t code size insns fuel next k out len kept asked
                  else if inside target then s.traceLoop t code size insns fuel target k out len kept asked
                  else fin (.ok out.reverse len (some pc) false kept)
                | _, _ => fin (.ok out.reverse len (some pc) false kept)
              | none =>
                let go : Known := (sDests i).foldl (fun k r => Known.put k r none) k
                match i with
                | .j d =>
                  let target := pc + (d.signExtend 64 <<< 2)
                  if inside target then s.traceLoop t code size insns fuel target k out len kept asked
                  else fin (.ok out.reverse len (some pc) false kept)
                | .jl _ | .hcall _ _ => fin (.ok out.reverse len (some pc) false kept)
                | .jlr _ _ _ | .eret | .done _ _ =>
                  if fits 1 then fin (.ok (raw.reverse ++ out).reverse (len + 1) none false kept)
                  else fin (.ok out.reverse len (some pc) true kept)
                | _ => emit raw 1 go

/-- The arguments materialised at the head of a residual, as many as fit (R348). -/
def traceArgs (insns : Nat) : List (Nat × Word) → List IWord → Nat → List IWord × Nat × Bool
  | [], out, len => (out, len, true)
  | (r, v) :: l, out, len =>
    let ws := materialise r v
    if len + ws.length + 1 ≤ insns then traceArgs insns l (ws.reverse ++ out) (len + ws.length) else (out, len, false)

/-- forge of R348 for a request, with the lines it requests. Log 34 (DEDUCED). -/
def State.forgeRun (s : State) (r : ForgeReq) : Traced × Asked :=
  match traceArgs r.insns r.args [] 0 with
  | (out, len, false) => (.ok out.reverse len (some r.code) true false, [])
  | (out, len, true) =>
    let k : Known := r.args.foldl (fun (k : Known) a => Known.put k (BitVec.ofNat 5 a.1) (some a.2)) (Vector.replicate 32 none)
    s.traceLoop r.strand r.code r.size r.insns r.steps r.code k out len false []
/-- forge of R348 for a request. -/
def State.forge (s : State) (r : ForgeReq) : Traced := (s.forgeRun r).1
/-- The line requests of a trace count at their pages (R54). -/
def State.forgeCount (s : State) (r : ForgeReq) : State :=
  (s.forgeRun r).2.foldl (fun s x => s.countLine (s.partOf r.strand) x.2) s

/-! ## Residual storage (R346) -/

def Part.window (x : Part) : Nat × Nat := ((x.fcreg.extractLsb' 24 32).toNat * 2 ^ 24, (x.fcreg.extractLsb' 60 4).toNat * 2 ^ 24)
/-- Storage comes in units of 64 bytes. -/
def blocks64 (n : Nat) : Nat := (n + 63) / 64 * 64

/-- The lowest-addressed free run of the window that holds n bytes. -/
def Part.freeRun (x : Part) (n : Nat) : Option Nat :=
  let (base, size) := x.window
  let used := (x.handles.filter fun h => h.2.held).map fun h => (h.2.base.toNat, h.2.base.toNat + blocks64 h.2.bytes)
  let free : Nat → Bool := fun a => base ≤ a && a + blocks64 n ≤ base + size && used.all fun u => u.2 ≤ a || a + blocks64 n ≤ u.1
  ((base :: used.map (·.2)).filter free).foldl (fun (m : Option Nat) a => match m with | some b => some (min a b) | none => some a) none

/-- How writing a residual ends. -/
inductive Written where
  | ok (s : State)
  | fault (va : Word)
  | wait
  deriving DecidableEq, Repr

/-- Write residual words through the window's translation with master privilege, `w` and `seal` ignored (R346), one request for each
line (R54); storage begins a line. -/
def State.writeResidual (s : State) (p core : Nat) (va : Word) : List IWord → Written
  | [] => .ok s
  | w :: ws =>
    let e : Xlate := match s.cached p core va.toNat with | some e => .ok e | none => s.walk p va.toNat
    match e with
    | .wait => .wait
    | .invalid | .fault => .fault va
    | .ok e =>
      let s' := (({ s with mem := Memory.writeN s.mem (e.pa va.toNat) 4 w.toNat }).unland none (e.pa va.toNat) 4).countLine p
        (if e.large || va.toNat % 64 ≠ 0 then none else some e.pte)
      s'.writeResidual p core (va + 4) ws

/-! ## SPEC (R347, R353) -/

/-- A handle word names a valid handle (R350, R352). -/
def State.validHandle (s : State) (w : Word) : Option Handle :=
  if w.extractLsb' 12 52 ≠ 0 then none
  else
    let h := s.myPart.handle (w.extractLsb' 0 12)
    if h.ref = 0 then none else some h

/-- The check of a function descriptor's words (R347). -/
def Part.badDescriptor (x : Part) (code size map z : Word) : Bool :=
  let (base, len) := x.window
  let lo := code.toNat
  let hi := code.toNat + size.toNat - 1
  code.toNat % 4 ≠ 0 || size.toNat % 4 ≠ 0 || size.toNat < 4 || size.toNat > 262144 || map.extractLsb' 0 4 ≠ 0 || z ≠ 0
  || lo / 2 ^ 27 ≠ hi / 2 ^ 27 || (len ≠ 0 && base / 2 ^ 27 ≠ lo / 2 ^ 27)

/-- The early-bound s registers of a map (R195). -/
def earlyRegs (map : Word) : List Nat := (List.range 32).filter fun i => 4 ≤ i && map.getLsbD i

/-- Read the arguments and queue the request (R347, R353); `back` is the state a stall leaves. -/
def State.specArgs (s : State) (d : BitVec 5) (index : BitVec 12) (code : Word) (size : Nat) (map : Word) (src : Option (BitVec 12))
    (A : BRec) (back : State) : Out1 :=
  let t := s.cur
  let c := s.ctx t
  let regs := earlyRegs map
  if recRefused A false || (Rec.fmt A ≠ 31 && sizeClass (Rec.fmt A) ≠ 3) then s.trap 0x08 (Rec.base A)
  else match s.checkUnits c A 8 3 .load (regs.map fun (i : Nat) => (8 * i : Int)) with
  | .trap e => s.raiseAccess .load e
  | .wait => back.stall
  | .ok us =>
    match s.loadNow (placeUnits (s.thruOf c.p A false) 0 us) with
    | none => back.stall
    | some (s, vs) =>
      let zero64 := fillBytes (zeroCode (s.zeroFmt c A)) 8
      let vals := us.foldl (fun (a : List Nat × List Nat) u => match u with
        | some (_, _) => (a.1 ++ [a.2.headD 0], a.2.drop 1)
        | none => (a.1 ++ [zero64], a.2)) ([], vs)
      let fb := s.me.csr.fbudget
      let r : ForgeReq :=
        { strand := t, part := c.p, index := index, code := code, size := size, map := map, src := src,
          args := regs.zip (vals.1.map (BitVec.ofNat 64)), steps := (fb.extractLsb' 32 21).toNat, insns := (fb.extractLsb' 0 17).toNat, d := d }
      let s := s.modDie (dieOfCore (coreOf t)) fun x => { x with forge := (x.forge.filter fun q => q.strand ≠ t) ++ [r] }
      .next (s.setMe { s.me with wait := .forge })

def execSpec (d sr : BitVec 5) (ra : BitVec 4) (_h : BitVec 2) (s : State) : Out1 :=
  let dv := s.rs d
  let sw := s.rs sr
  let A := s.rb ra
  let index := dv.extractLsb' 0 12
  if !s.me.soReady then s.stall
  else if dv.extractLsb' 12 52 ≠ 0 then s.trap 0x0D dv
  else if sw.getLsbD 63 then
    if sw.extractLsb' 12 51 ≠ 0 then s.trap 0x0D sw
    else match s.validHandle (sw.extractLsb' 0 12 |>.setWidth 64) with
    | none => s.trap 0x0D sw
    | some h => s.specArgs d index h.base h.bytes h.map (some (sw.extractLsb' 0 12)) A s
  else match s.recParts .load sw with
  | .trap e => s.raiseAccess .load e
  | .wait => s.stall
  | .ok ps =>
    match s.loadNow ps with
    | none => s.stall
    | some (s', vs) =>
      let word : Nat → Word := fun i => BitVec.ofNat 64 (vs.getD i 0)
      if s'.myPart.badDescriptor (word 0) (word 1) (word 2) (word 3) then s'.trap 0x0D sw
      else s'.specArgs d index (word 0) (word 1).toNat (word 2) none A s

/-- The final step of a SPEC (R353): the status it writes, with what it changes; or the fault of a residual write. Log 35 (DEDUCED). -/
def State.specFinal (s : State) (r : ForgeReq) (out : List IWord) (len : Nat) (stop : Option Word) (bound kept : Bool) :
    Except (Option Word) (State × Word) :=
  let x := s.part r.part
  if (x.handle r.index).held then .ok (s, 1)
  else
    let bytes := 4 * (out.length + if stop.isSome then 1 else 0)
    match if x.window.2 = 0 then none else x.freeRun bytes with
    | none => .ok (s, 2)
    | some base =>
      let ws := match stop with
        | some a => out ++ [BitVec.ofNat 32 (0x10 * 2 ^ 26 + ((a.toNat + 2 ^ 64 - (base + 4 * out.length)) % 2 ^ 64 / 4) % 2 ^ 26)]
        | none => out
      match s.writeResidual r.part (coreOf r.strand) (BitVec.ofNat 64 base) ws with
      | .wait => .error none
      | .fault va => .error (some va)
      | .ok s =>
        let src := r.src.bind fun g => if (x.handle g).held then some g else none
        let h : Handle :=
          { ref := 1, res := 0, held := true, bound := bound, kept := kept, base := BitVec.ofNat 64 base, len := len + (if stop.isSome then 1 else 0),
            bytes := bytes, map := r.map &&& 0xFFFFFFFF0000000F, src := src, args := r.args }
        let s := s.modPart r.part fun x =>
          let x := x.setHandle r.index h
          match src with | some g => x.setHandle g { x.handle g with ref := (x.handle g).ref + 1 } | none => x
        .ok (s, 0)

/-- FORGE_RUN: the oldest request of a die's Forge. A request whose strand has been interrupted is dropped (R353). Log 34 (DEDUCED). -/
def State.forgeStep (s : State) (die : Nat) : Option State :=
  match (s.die die).forge with
  | [] => none
  | r :: rs =>
    let drop : State → State := fun s => s.modDie die fun x => { x with forge := rs }
    let t := r.strand
    let wake : State → State := fun s => (drop s).modStrand t fun x => { x with wait := .none }
    if (s.strand t).wait ≠ .forge then some (drop s)
    else match s.forge r with
    | .wait => none
    | .fault e => some ((wake ((s.forgeCount r).discardAt (s.ctx t) .fetch e.val)).trapIn t e.cause e.val)
    | .ok out len stop bound kept =>
      match (s.forgeCount r).specFinal r out len stop bound kept with
      | .error none => none
      | .error (some va) => some ((wake (s.forgeCount r)).trapIn t 0x05 va)
      | .ok (s, status) => some ((wake s).modStrand t fun x => (x.ws r.d status).advance 8)

def execForgeRun (die : BitVec 3) (s : State) : Out1 := enabled (s.forgeStep die.toNat)

/-! ## HREL, HREF, HCALL and HSTAT (R350, R354, R401) -/

/-- Log 35 (DEDUCED). -/
def execHrel (hd : BitVec 5) (_h : BitVec 2) (s : State) : Out1 :=
  let w := s.rs hd
  if !s.me.soReady then s.stall
  else match s.validHandle w with
  | none => s.trap 0x0D w
  | some _ => .next (s.modPart (s.partOf s.cur) fun x => x.unref (w.extractLsb' 0 12)).retire8

/-- Log 35 (DEDUCED). -/
def execHref (hd : BitVec 5) (_h : BitVec 2) (s : State) : Out1 :=
  let w := s.rs hd
  if !s.me.soReady then s.stall
  else match s.validHandle w with
  | none => s.trap 0x0D w
  | some h =>
    if h.ref = 0xFFFF then s.trap 0x0D w
    else .next (s.modPart (s.partOf s.cur) fun x => x.setHandle (w.extractLsb' 0 12) { h with ref := h.ref + 1 }).retire8

/-- Log 35 (DEDUCED). -/
def execHcall (hd : BitVec 5) (_h : BitVec 2) (s : State) : Out1 :=
  let w := s.rs hd
  if !s.me.soReady then s.stall
  else match s.validHandle w with
  | none => s.trap 0x0D w
  | some h =>
    if s.me.tag.isSome then s.trap 0x0D w
    else
      let i := w.extractLsb' 0 12
      let back := s.me.pc + 8
      let s := s.setMe ((h.args.foldl (fun (x : Strand) a => x.ws (BitVec.ofNat 5 a.1) a.2) s.me).ws 1 back)
      let s := (s.jump h.base).modPart (s.partOf s.cur) fun x => x.setHandle i { x.handle i with res := (x.handle i).res + 1 }
      .next (s.setMe { s.me with tag := some i, tagRet := some back })

/-- The status word of a handle (R354). -/
def Handle.word (h : Handle) : Word :=
  (bit (h.ref ≠ 0) <<< 63) ||| (bit h.bound <<< 62) ||| (bit h.kept <<< 61) ||| (bit h.held <<< 60)
  ||| (BitVec.ofNat 64 (h.len % 2 ^ 17) <<< 32) ||| (h.res.setWidth 64 <<< 16) ||| h.ref.setWidth 64

/-- Log 35 (DEDUCED). -/
def execHstat (d hd : BitVec 5) (_h : BitVec 2) (s : State) : Out1 :=
  let w := s.rs hd
  if !s.me.soReady then s.stall
  else if w.extractLsb' 12 52 ≠ 0 then s.trap 0x0D w
  else .next (s.put8 d (s.myPart.handle (w.extractLsb' 0 12)).word)

end Sys2Proof.Machine
end

