-- ==== Sys2Proof/Machine/Assay.lean ====
section
/-! DEFINITION. The Assay (R368 to R372, R403): guarded launches over tiles. -/

namespace Sys2Proof.Machine

/-! ## GLNCH (R370) -/

/-- Reserved bits of the first word of a launch descriptor (R368). -/
def assayReserved (w : Word) : Bool := w &&& 0xFFF8F000F000F000 ≠ 0

/-- The record of tile t: base, `dim1` 1 and extent replaced; or the offset at which it leaves the tile record (R370). -/
def tileRecord (r : BRec) (u t : Nat) : Except Int BRec :=
  let off : Int := t * Rec.stride1 r
  let ext : Int := ((Rec.dim0 r : Int) - 1) * Rec.stride0 r + u
  if off < 0 || ext < 0 || off + ext > Rec.extent r then .error off
  else .ok (setField (setField (setField r 0 56 (Rec.base r + BitVec.ofInt 64 off)) 168 16 1) 56 32 (BitVec.ofInt 64 ext))

/-- The records of tiles t on, or where the first fails. -/
def tileRecords (r : BRec) (u : Nat) : Nat → Nat → Except Int (List BRec)
  | 0, _ => .ok []
  | n + 1, t =>
    match tileRecord r u t with
    | .error o => .error o
    | .ok x => (tileRecords r u n (t + 1)).map (x :: ·)

/-- The first address of the tiles' records outside the region their `space` names, as an offset from the tile record's base (R85). -/
def tilesLeave (R : BRec) (rs : List BRec) : Option Word :=
  rs.findSome? fun r => (recLeaves r).map fun o => Rec.base r - Rec.base R + BitVec.ofNat 64 o

/-- Whether SHDW would refuse one of a list of records, each opened after those before it (R142). Log 38 (DEDUCED). -/
def State.tilesCheck (s : State) (c : Ctx) : List ShKey → List BRec → Checked Unit
  | _, [] => .ok ()
  | ks, r :: rs =>
    let x := s.part c.p
    let k := shKeyOf c.p r
    match s.shadowPages c (pagesOf (Rec.base r).toNat (Rec.extent r)) with
    | .trap t => .trap t
    | .wait => .wait
    | .ok uo =>
      if uo || s.shadowRegionBad c (Rec.base r).toNat (Rec.extent r) || x.shadowRegion = 0 then .trap ⟨0x08, Rec.base r⟩
      else if ks.any (fun h => h.overlaps k || h = k) || shadowNeed (Rec.extent r) > x.shadowRegion then .trap ⟨0x07, s.ir⟩
      else s.tilesCheck c (k :: ks) rs

/-- The record of tile t of a launch. -/
def Assay.tileRec (a : Assay) (t : Nat) : BRec := match tileRecord a.tile a.unit t with | .ok r => r | .error _ => 0

/-- The task of a tile: 0 surrogate, 1 check, 2 exact (R370, R403). -/
def State.assayTask (s : State) (p : Nat) (a : Assay) (t w : Nat) : TRec :=
  let h := if w = 0 then a.sur else if w = 1 then a.chk else a.exa
  let path := m64s a.path [a.ord + BitVec.ofNat 64 (3 * t + w) + 1]
  { TRec.new ((s.part p).handle h).base a.frame a.level a.prio 0 a.core path a.launches with
    a0 := BitVec.ofNat 64 t, a1 := BitVec.ofNat 64 a.tiles.length, a2 := BitVec.ofNat 64 w, role := .tile a.id t w, b0 := a.tileRec t,
    tag := some h }

/-- Open the next tiles of a launch as far as shadows have room, and spawn their pairs; then the GLNCH retires, or stalls (R370).
Log 38 (DEDUCED). -/
def State.openTiles (s : State) (p id : Nat) : Nat → State
  | 0 => s
  | n + 1 =>
    match (s.part p).assays.find? fun a => a.id = id with
    | none => s
    | some a =>
      let t := a.opened
      let k := shKeyOf p (a.tileRec t)
      if t ≥ a.tiles.length || !(s.part p).shadowFits k || (s.part p).shadows.any (fun h => h.key.overlaps k || h.key = k) then s
      else
        let s := (s.openShadow p k).modPart p fun x =>
          { x with assays := x.assays.map fun b => if b.id = id then { b with opened := t + 1 } else b }
        let sur := s.assayTask p a t 0
        let core := s.forkCore p a.core sur.path
        (s.deliverRecs p a.by_ a.core [(core, sur), (core, s.assayTask p a t 1)]).openTiles p id n

/-- Go on with a launch whose tiles are not all open: retire behind the last, else stall. -/
def State.launchTiles (s : State) (p id : Nat) : Out1 :=
  let s := s.openTiles p id 64
  if (s.part p).assays.any fun a => a.id = id && a.opened < a.tiles.length then .next s else .next (s.spawnRetire 8)

/-- Log 38 (DEDUCED). -/
def execGlnch (rt : BitVec 4) (dd : BitVec 5) (_h : BitVec 2) (s : State) : Out1 :=
  let va := s.rs dd
  let R := s.rb rt
  let c := s.ctx s.cur
  let x := s.me
  let back := s
  -- a GLNCH that stalled with tiles left goes on
  match s.myPart.assays.find? fun a => a.by_ = s.cur && a.pc = x.pc && a.opened < a.tiles.length with
  | some a => s.launchTiles c.p a.id
  | none =>
    if !s.me.soReady then s.stall
    else match s.recParts .load va with
    | .trap t => s.raiseAccess .load t
    | .wait => s.stall
    | .ok ps => match s.loadNow ps with
      | none => s.stall
      | some (s, vs) =>
        let word : Nat → Word := fun i => BitVec.ofNat 64 (vs.getD i 0)
        let hs : List (BitVec 12) := [(word 0).extractLsb' 0 12, (word 0).extractLsb' 16 12, (word 0).extractLsb' 32 12]
        match hs.find? fun h => (s.myPart.handle h).ref = 0 with
        | some h => s.trap 0x0D (h.setWidth 64)
        | none =>
          if assayReserved (word 0) then s.trap 0x05 (word 0)
          else match s.checkCw c.core c.p (word 1) with
          | some e => s.raise e
          | none =>
            if recRefused R false then s.trap 0x08 (Rec.base R)
            else if Rec.dim1 R < 1 || Rec.dim1 R > 64 || Rec.stride0 R < 0 then s.trapIr 0x07
            else match s.effective c R with
            | .error none => back.stall
            | .error (some e) => s.trap e.1 e.2
            | .ok E =>
              let u := unitBytes (Rec.fmt E)
              match tileRecords R u (Rec.dim1 R) 0 with
              | .error o => s.trap 0x07 (BitVec.ofInt 64 o)
              | .ok rs =>
                match tilesLeave R rs with
                | some o => s.trap 0x07 o
                | none =>
                match s.tilesCheck c (s.myPart.shadows.map (·.key)) rs with
                | .trap t => s.raiseAccess .load t
                | .wait => back.stall
                | .ok _ =>
                  if s.myPart.assays.length ≥ 64 then back.stall
                  else s.afterRelease (back := back) fun s =>
                    let slot := ((word 0).extractLsb' 48 3).toNat
                    let a : Assay :=
                      { id := s.fresh, desc := va, sur := hs.getD 0 0, chk := hs.getD 1 0, exa := hs.getD 2 0,
                        tol := (s.me.csr.atol.toList.getD slot 0).extractLsb' 0 32, tile := R, unit := u, cw := word 1, frame := word 2,
                        tiles := rs.map fun _ => { sDone := false, cDone := false, verdict := none, exact := false, eDone := false,
                                                   published := false, hold := [] },
                        opened := 0, by_ := s.cur, core := c.core, rank := x.rank, pc := x.pc, level := x.level, prio := x.task.prio,
                        seals := x.heldKeys, path := x.task.path, ord := x.task.ordinal, launches := x.task.launches }
                    let s := { s with fresh := s.fresh + 1 }.modPart c.p fun y =>
                      let y := hs.foldl (fun (y : Part) h => y.setHandle h { y.handle h with ref := (y.handle h).ref + 1 }) y
                      { y with assays := y.assays ++ [a] }
                    let s := s.modStrand s.cur fun y =>
                      { y with task := { y.task with ordinal := y.task.ordinal + BitVec.ofNat 64 (3 * rs.length) } }
                    s.launchTiles c.p a.id

/-! ## GRES and GSTAT (R371, R372) -/

/-- Whether a residual passes a tolerance (R371). -/
def residualPasses (r tol : BitVec 32) : Bool :=
  let a := fF32.value r.toNat
  let b := fF32.value tol.toNat
  !a.isNan && !b.isNan && !b.lt a

def execGres (a : BitVec 5) (_h : BitVec 2) (s : State) : Out1 :=
  let p := s.partOf s.cur
  match s.me.task.role with
  | .tile l i 1 =>
    match (s.part p).assays.find? (fun y => y.id = l), (s.part p).tile? l i with
    | some y, some tile =>
      if tile.verdict.isSome then s.trap 0x0C 0
      else .next (s.modTile p l i fun z => { z with verdict := some (residualPasses ((s.rs a).extractLsb' 0 32) y.tol) }).retire8
    | _, _ => s.trap 0x0C 0
  | _ => s.trap 0x0C 0

def execGstat (d a : BitVec 5) (_h : BitVec 2) (s : State) : Out1 :=
  let va := s.rs a
  if s.myPart.assays.any fun x => x.desc = va then .next (s.setMe { s.me with st := .parked, wait := .launch va })
  else match s.routeScalar (s.ctx s.cur) .load (va + 0x18) 8 with
  | .fault t | .invalid t => s.raiseAccess .load t
  | .wait => s.stall
  | .ok p _ => s.load [p] 0 (.sreg d 64 false) (some 3) 8

/-! ## ASSAY_TILE_DECIDE (R370) -/

/-- Replace a launch. -/
def State.modAssay (s : State) (p id : Nat) (f : Assay → Assay) : State :=
  s.modPart p fun x => { x with assays := x.assays.map fun a => if a.id = id then f a else a }

/-- Publish the shadow of a tile, or keep it closed when its seal check fails (R144); then what the publication ends (R370). Log 38
(DEDUCED). -/
def State.tilePublish (s : State) (p : Nat) (a : Assay) (t : Nat) (h : Shadow) : Option State :=
  let bad := s.lacks p a.core h a.seals
  let s := if bad.isNone then s.publishBytes p h else s
  let s := s.modTile p a.id t fun y => { y with published := true }
  match (s.part p).assays.find? fun b => b.id = a.id with
  | none => none
  | some a' =>
    if a'.tiles.all (·.published) then s.assayStatus p a' t bad false
    else some (s.tileReport p a bad)

/-- Discard the surrogate's shadow, open a new one on its key, and spawn the exact task (R370). -/
def State.tileExact (s : State) (p : Nat) (a : Assay) (t : Nat) (h : Shadow) : State :=
  let s := ((s.freeShadow p h.key).openShadow p h.key).modTile p a.id t fun y => { y with exact := true }
  let r := s.assayTask p a t 2
  s.post (engineSender a.id) none (s.forkCore p a.core r.path * 16) false (.record r)

/-- Decide a tile both of whose tasks have ended, or whose exact task has: the close of its shadow, then the publication or the
exact path, once the commands accepted before the close are done. A saved partition decides none (R384). -/
def State.tileStep (s : State) (p id t : Nat) : Option State :=
  match (if (s.part p).saved.isSome then none else (s.part p).assays.find? fun a => a.id = id) with
  | none => none
  | some a =>
    match a.tiles[t]? with
    | none => none
    | some y =>
      let ready := if y.exact then y.eDone else y.sDone && y.cDone
      let k := shKeyOf p (a.tileRec t)
      if !ready || y.published || t ≥ a.opened then none
      else match s.shadowOf p k with
      | none => none
      | some h =>
        let s := if h.closed then s else s.closeShadow p k none
        match s.shadowOf p k with
        | none => none
        | some h' =>
          let publish := y.exact || y.verdict = some true
          if !(h'.before.all fun i => s.cmds.all (·.id ≠ i)) || (publish && s.publishHeld p h') then (if h.closed then none else some s)
          else if publish then s.tilePublish p a t h'
          else some (s.tileExact p a t h')

def execAssayTileDecide (p : BitVec 3) (launch tile : Nat) (s : State) : Out1 := enabled (s.tileStep p.toNat launch tile)

end Sys2Proof.Machine
end

