-- ==== Sys2Proof/Machine/Bolter.lean ====
section
/-! DEFINITION. The Bolter (R360 to R367): sets, records, routing decisions and turns. -/

namespace Sys2Proof.Machine

/-! ## Windows (R363, R367) -/

/-- Every record of a window below the element count has finished (R363). Log 36 (DEDUCED). -/
def BoltSet.complete (b : BoltSet) (w : Nat) : Bool :=
  (List.range (min (4096 * (w + 1)) b.count - 4096 * w)).all fun i => b.over (b.records.get BoltRec.new (4096 * w + i))

/-- The oldest of the four windows kept, which a put of a record in a later window moves on (R363). Log 36 (DEDUCED). -/
def BoltSet.oldest (b : BoltSet) : Nat := b.records.foldl (fun a r => max a (r.1 / 4096)) 0 - 3

/-- Whether a put in a window may go on: each window that leaves the four kept is no longer needed (R363). Log 36 (DEDUCED). -/
def BoltSet.mayPut (b : BoltSet) (w : Nat) : Bool :=
  (List.range (w - 3 - b.oldest)).all fun k => b.complete (b.oldest + k + 2)

/-- Keep the statistics of the four newest windows. -/
def BoltSet.trim (b : BoltSet) : BoltSet := { b with stats := b.stats.filter fun x => b.oldest ≤ x.1 / 16 }

/-- Records put and not finished (R362). -/
def BoltSet.busy (b : BoltSet) : Bool := b.records.any fun r => !b.over r.2

/-! ## STGDEF (R360, R362) -/

/-- The checks of a descriptor's 36 words (R360, R362); code words are those of R217. Log 36 (DEDUCED). -/
def State.badSet (s : State) (w : Nat → Word) (R : BRec) : Bool :=
  let n := (w 1).extractLsb' 0 4
  let stage : Nat → Bool := fun i =>
    let code := w (4 + 4 * i)
    (w (6 + 4 * i)).extractLsb' 0 16 = 0 || code.extractLsb' 56 6 ≠ 0 || code.extractLsb' 62 2 = 3
      || (code.extractLsb' 62 2).toNat > s.me.level.toNat
  let held := match s.myPart.set? ((w 1).extractLsb' 4 4) with | some b => b.busy | none => false
  (w 1).extractLsb' 9 55 ≠ 0 || w 3 ≠ 0 || n.toNat > 8
  || (List.range 8).any (fun i => (w (6 + 4 * i)).extractLsb' 16 48 ≠ 0 || w (7 + 4 * i) ≠ 0)
  || (List.range n.toNat).any stage || held || walkCount R = 0

/-- The set a descriptor names, as the executing strand installs it. -/
def State.newSet (s : State) (w : Nat → Word) (R : BRec) : BoltSet :=
  let x := s.me
  let n := ((w 1).extractLsb' 0 4).toNat
  let each : (Nat → Word) → List Word := fun f => (List.range n).map f
  { salt := w 0, n := n, fx := (w 1).getLsbD 8, cw := w 2, cwCore := coreOf s.cur, codes := each fun i => w (4 + 4 * i),
    frames := each fun i => w (5 + 4 * i), weights := (each fun i => w (6 + 4 * i)).map (·.toNat), count := walkCount R, level := x.level,
    core := coreOf s.cur, rank := x.rank, pc := x.pc, seals := x.heldKeys, records := [], stats := [], by_ := s.cur, launches := x.task.launches }

/-- Aligned 8-byte parts of a block of memory, checked as loads of `i64` (R283). -/
def State.blockParts (s : State) (va : Word) (align n : Nat) : Checked (List Part1) :=
  let c := s.ctx s.cur
  if s.unsorted c va then .trap ⟨0x04, va⟩
  else if va.toNat % align ≠ 0 then .trap ⟨0x03, va⟩
  else (List.range n).foldr (fun i r => match s.route c .load (va + BitVec.ofNat 64 (8 * i)) 8 0 with
    | .ok p _ => match r with | .ok l => .ok (p :: l) | e => e
    | .invalid t | .fault t => .trap t
    | .wait => .wait) (.ok [])

/-- Log 36 (DEDUCED). -/
def execStgdef (a : BitVec 5) (r : BitVec 4) (_h : BitVec 2) (s : State) : Out1 :=
  let va := s.rs a
  let R := s.rb r
  if recRefused R false then s.trap 0x08 (Rec.base R)
  else match s.blockParts va 32 36 with
  | .trap t => s.raiseAccess .load t
  | .wait => s.stall
  | .ok ps => match s.loadNow ps with
    | none => s.stall
    | some (s, vs) =>
      let w : Nat → Word := fun i => BitVec.ofNat 64 (vs.getD i 0)
      if s.badSet w R then s.trap 0x05 va
      else match s.checkCw (coreOf s.cur) (s.partOf s.cur) (w 2) with
      | some e => s.raise e
      | none =>
        let set := ((w 1).extractLsb' 4 4).toNat
        let b := s.newSet w R
        .next (s.modPart (s.partOf s.cur) fun x => { x with sets := if b.n = 0 then x.sets.del set else x.sets.set set b }).retire8

/-! ## STGPUT, STGEND, STGSEQ and STGSNAP (R363 to R367) -/

/-- The set and the record that two registers name, or the value that is out of range. -/
def State.setAndRecord (s : State) (sv iv : Word) : Except Word (BoltSet × BitVec 4 × Nat) :=
  if sv.extractLsb' 4 60 ≠ 0 then .error sv
  else match s.myPart.set? (sv.extractLsb' 0 4) with
    | none => .error sv
    | some b => if iv.toNat < b.count then .ok (b, sv.extractLsb' 0 4, iv.toNat) else .error iv

/-- Log 36 (DEDUCED). -/
def execStgput (st i : BitVec 5) (_h : BitVec 2) (s : State) : Out1 :=
  match s.setAndRecord (s.rs st) (s.rs i) with
  | .error v => s.trap 0x05 v
  | .ok (b, set, n) =>
    if b.records.has n then s.trap 0x05 (s.rs i)
    else if !b.mayPut (n / 4096) then s.stall
    else s.afterRelease fun s =>
      let b := { b with records := b.records.set n BoltRec.new }
      .next (s.modPart (s.partOf s.cur) fun x => { x with sets := x.sets.set set.toNat b.trim }).retire8

/-- The stage whose running task the executing strand is, for a record of a set (R365). Log 36 (DEDUCED). -/
def State.myStage (s : State) (set : BitVec 4) (i : Nat) : Option Nat :=
  match s.me.task.role with
  | .stage n j st => if n = set && j = i && s.stageRuns s.cur set i st then some st else none
  | _ => none

/-- Log 36 (DEDUCED). -/
def execStgend (st i o : BitVec 5) (_h : BitVec 2) (s : State) : Out1 :=
  let ov := s.rs o
  match s.setAndRecord (s.rs st) (s.rs i) with
  | .error v => s.trap 0x05 v
  | .ok (b, set, n) =>
    match s.myStage set n with
    | none => s.trap 0x05 (s.rs i)
    | some k =>
      if ov.toNat ≥ 3 || (ov = 2 && !b.fx) then s.trap 0x05 ov
      else s.afterRelease fun s => .next (s.retire8.stageReport (s.partOf s.cur) set n k (ov = 1))

/-- Log 36 (DEDUCED). -/
def execStgseq (st i : BitVec 5) (_h : BitVec 2) (s : State) : Out1 :=
  match s.setAndRecord (s.rs st) (s.rs i) with
  | .error v => s.trap 0x05 v
  | .ok (b, set, n) =>
    if !b.fx then s.trap 0x05 (s.rs st)
    else match s.myStage set n with
    | none => s.trap 0x05 (s.rs i)
    | some k => if b.turn n k then .next s.retire8 else .next (s.setMe { s.me with st := .parked, wait := .turn set n k })

/-- The sixteen counts of a window: passes and rejects of each stage (R367). -/
def BoltSet.counts (b : BoltSet) (w : Nat) : List Nat :=
  (List.range 16).map fun k => if w < b.oldest then 0 else b.stats.get 0 (16 * w + k)

/-- Log 36 (DEDUCED). -/
def execStgsnap (rd : BitVec 4) (st w : BitVec 5) (_h : BitVec 2) (s : State) : Out1 :=
  let R := s.rb rd
  let sv := s.rs st
  let c := s.ctx s.cur
  match s.setAndRecord sv 0 with
  | .error _ => s.trap 0x05 sv
  | .ok (b, _, _) =>
    if recRefused R false || (Rec.fmt R ≠ 31 && sizeClass (Rec.fmt R) ≠ 3) then s.trap 0x08 (Rec.base R)
    else if !b.complete (s.rs w).toNat then s.stall
    else match s.checkUnits c R 8 3 .store ((List.range 16).map fun (i : Nat) => (8 * i : Int)) with
    | .trap t => s.raiseAccess .store t
    | .wait => s.stall
    | .ok us =>
      let ps := placeUnits (s.thruOf c.p R true) 0 us
      let data := (us.zip (b.counts (s.rs w).toNat)).flatMap fun (u, x) => match u with
        | some (ps, _) => ps.map fun _ => BitVec.ofNat 64 x
        | none => []
      if s.storeStalls ps then s.stall else s.storeEach (ps.zip data) 8 id

/-! ## ROUTING_DECISION (R364) -/

/-- Tasks of a stage of a set that are queued, on their way to a queue, or run, one that has reported and not ended among them (R364). -/
def State.stageDepth (s : State) (p : Nat) (set : BitVec 4) (st : Nat) : Nat :=
  let mine : Role → Bool := fun r => match r with | .stage n _ k => n = set && k = st | _ => false
  let queued : TRec → Bool := fun r => mine r.role
  ((s.strandsOf p).countP fun t => mine (s.strand t).task.role)
  + ((s.touchedCores p).map fun c => ((s.core c).queues.toList.map fun q => q.countP queued).sum).sum
  + s.net.countP fun m => s.partOf m.dest = p && match m.body with | .record r => queued r | _ => false

/-- Ticket of a stage for a record of window w, with the stage's depth (R364). -/
def BoltSet.ticket (b : BoltSet) (w st depth : Nat) (strict : Bool) : Nat :=
  let count : Nat → Nat := fun o => if w < 2 then 2048 else b.stats.get 0 ((w - 2) * 16 + 2 * st + o)
  let t := (count 1 + 1) * 65536 / ((count 0 + count 1 + 1) * b.weights.getD st 1) + 1
  if strict then t else max 1 (t * 16 / (16 + depth))

/-- The first stage whose cumulative ticket sum exceeds a draw. -/
def pickStage : List (Nat × Nat) → Nat → Option Nat
  | [], _ => none
  | (st, t) :: l, r => if r < t then some st else pickStage l (r - t)

/-- Draw the next stage of a record that waits for its decision, and spawn its task (R364); a saved partition draws none (R384). -/
def State.routeStep (s : State) (p : Nat) (set : BitVec 4) (i : Nat) : Option State :=
  match (if (s.part p).saved.isSome then none else (s.part p).set? set) with
  | none => none
  | some b =>
    let r := b.records.get BoltRec.new i
    let w := i / 4096
    if !b.records.has i || r.running.isSome || b.over r || (w ≥ 2 && !b.complete (w - 2)) then none
    else
      let strict := (s.part p).dmode
      let left := (List.range b.n).filter fun k => !r.done.getLsbD k
      let tickets := left.map fun k => (k, b.ticket w k (s.stageDepth p set k) strict)
      let sum := tickets.foldl (fun a x => a + x.2) 0
      let draw := ((m64s b.salt [BitVec.ofNat 64 i, r.done.setWidth 64]).extractLsb' 32 32).toNat % sum
      match pickStage tickets draw with
      | none => none
      | some k =>
        let s := if !strict && left.any fun k => s.stageDepth p set k ≠ 0 then s.dcause p 11 b.pc else s
        let path := b.path i k r.done
        let code := b.codes.getD k 0
        let rec_ : TRec :=
          { TRec.new (code &&& 0x00FFFFFFFFFFFFFC) (b.frames.getD k 0) (code.extractLsb' 62 2) (code.extractLsb' 0 2) 0 b.core path b.launches with
            a0 := BitVec.ofNat 64 i, a1 := BitVec.ofNat 64 k, a2 := set.setWidth 64, a3 := r.done.setWidth 64, role := .stage set i k }
        let b := { b with records := b.records.set i { r with running := some k } }
        let s := s.modPart p fun x => { x with sets := x.sets.set set.toNat b }
        some (s.post (engineSender 0) none ((if strict then s.pathCore p path else b.core) * 16) false (.record rec_))

def execRoutingDecision (p : BitVec 3) (set : BitVec 4) (record : Nat) (s : State) : Out1 := enabled (s.routeStep p.toNat set record)

end Sys2Proof.Machine
end

