-- ==== Sys2Proof/Machine/Priv.lean ====
section
/-! DEFINITION. The PRIV major: rank entries (R258, R259), removal of translations (R78 to R81), partitions (R260, R261), and
pre-emption (R262, R384 to R388). -/

namespace Sys2Proof.Machine

/-! ## RKSET and RKTRN (R258, R259, R31) -/

/-- A rank word within the table. -/
def State.rankBad (s : State) (p : Nat) (w : Word) : Bool := w.extractLsb' 16 48 ≠ 0 || (w.extractLsb' 0 16).toNat ≥ (s.part p).rtlim.toNat

/-- An entry that RKSET refuses. -/
def State.entryBad (s : State) (p : Nat) (w : Word) : Bool :=
  let e : BitVec 32 := w.extractLsb' 0 32
  w.extractLsb' 32 32 ≠ 0 || entryState e > 1 || e.extractLsb' 17 13 ≠ 0
  || (entryState e = 1 && ((e.extractLsb' 4 6).toNat > 47 || !inMask (s.mask p) (e.extractLsb' 14 3).toNat))

/-- The ranks a network command goes to. -/
def CmdOp.ranks : CmdOp → List (BitVec 16)
  | .rread _ rk _ | .rwrite _ _ rk => [rk]
  | .halo _ _ nb => nb.map (·.2)
  | _ => []

/-- Whether an item routed to a rank's old place is still under way: in the network, or as a command that has resolved it (R31).
Log 27 (DEDUCED). -/
def State.routedTo (s : State) (p : Nat) (rk : BitVec 16) : Bool :=
  s.net.any (fun m => m.rank = some rk && s.partOf m.dest = p) || (s.cmds ++ s.issued).any fun c => c.part = p && c.op.ranks.contains rk

/-- Name the rank of the frame an entry holds. Log 19 (DEDUCED). -/
def State.nameRank (s : State) (rk : BitVec 16) (e : BitVec 32) : State :=
  if entryState e = 1 then s.modStrand (entryPlace e) fun x => { x with rank := rk } else s

/-- Log 19 (DEDUCED). Log 27 (DEDUCED). -/
def execRkset (a b : BitVec 5) (_h : BitVec 2) (s : State) : Out1 :=
  let p := s.partOf s.cur
  let rk := s.rs a
  let e := s.rs b
  if s.me.level = 0 then s.trapIr 0x02
  else if s.rankBad p rk then s.trap 0x05 rk
  else if s.entryBad p e then s.trap 0x05 e
  else
    let r : BitVec 16 := rk.extractLsb' 0 16
    let old := s.rankEntry p r
    s.afterRelease fun s =>
      if entryState old = 2 || (entryState old = 1 && s.routedTo p r) then s.stall
      else .next ((s.setRank p r (e.extractLsb' 0 32)).nameRank r (e.extractLsb' 0 32)).retire

/-- RKTRN refuses an entry that is not valid, or whose place lies outside the partition's die mask (R259, R31). Log 27 (DEDUCED). -/
def execRktrn (a b : BitVec 5) (_h : BitVec 2) (s : State) : Out1 :=
  let p := s.partOf s.cur
  let x := s.rs a
  let y := s.rs b
  if s.me.level = 0 then s.trapIr 0x02
  else if s.rankBad p x then s.trap 0x05 x
  else if s.rankBad p y then s.trap 0x05 y
  else
    let rx : BitVec 16 := x.extractLsb' 0 16
    let ry : BitVec 16 := y.extractLsb' 0 16
    let ex := s.rankEntry p rx
    let ey := s.rankEntry p ry
    if !s.entryLive p ex then s.trap 0x05 x
    else if !s.entryLive p ey then s.trap 0x05 y
    else if rx = ry then .next s.retire
    else s.afterRelease fun s =>
      if entryState ex = 2 || entryState ey = 2 || s.routedTo p rx || s.routedTo p ry then s.stall
      else .next ((((s.setRank p rx ey).setRank p ry ex).nameRank rx ey).nameRank ry ex).retire

/-! ## TLBINV and PTSYNC (R78 to R81) -/

/-- Remove leaf entries of a partition from every core and cluster TLB, and pointer entries from its walk caches. -/
def State.removeXlate (s : State) (p : Nat) (leaf : TlbEntry → Bool) (ptr : WalkEntry → Bool) : State :=
  let s := (s.touchedCores p).foldl (fun s c => s.tlbDrop c fun e => e.part = p && leaf e) s
  let s := { s with clusters := s.clusters.map fun c => (c.1, { c.2 with tlb := c.2.tlb.filter fun e => !(e.part = p && leaf e) }) }
  (maskDies (s.mask p)).foldl (fun s d => s.modDie d fun x => { x with walk := x.walk.filter fun e => !(e.part = p && ptr e) }) s

/-- Whether a swap holds the write-back of a page whose entry some core would lose (R43, R60). -/
def State.removeHeld (s : State) (p : Nat) (leaf : TlbEntry → Bool) : Bool :=
  (s.touchedCores p).any fun c => (s.core c).tlb.any fun e => e.part = p && leaf e && s.pageHeld c (Pte.frame e.lo)

/-- Whether a part was translated through an entry for one of the ranges: the page it lies on, of 64 KiB or 64 MiB, meets the range. -/
def Part1.within (a : Part1) (rs : List (Nat × Nat)) : Bool :=
  let n := if a.large then 2 ^ 26 else 2 ^ 16
  let page := a.va.toNat / n * n
  a.name = .translated && rs.any fun r => r.1 < page + n && page < r.2

/-- What the strands of a partition have translated through entries for a range is performed at its home from then on, past the core
copy, so that a PTSYNC need only wait until it has left (R80). Log 28 (DEDUCED). -/
def State.uncopyRange (s : State) (p : Nat) (r : Nat × Nat) : State :=
  let f : Part1 → Part1 := fun a => if a.within [r] then { a with cached := false } else a
  { s with strands := s.strands.map fun (x : Nat × Strand) =>
    if s.partOf x.1 ≠ p then x
    else (x.1, { x.2 with out := x.2.out.map fun o => { o with at_ := f o.at_ }, pend := x.2.pend.map fun q => { q with parts := q.parts.map f } }) }

/-- Remove what a scope names, once the strand's own stores and atomics are at their homes; the strand remembers the range until its
PTSYNC. Log 28 (DEDUCED). -/
def State.tlbinv (s : State) (range : Option (Nat × Nat)) (leaf : TlbEntry → Bool) (ptr : WalkEntry → Bool) : Out1 :=
  let x := s.me
  if x.level = 0 then s.trapIr 0x02
  else if !(x.out.isEmpty && x.port.all (fun e => e.val.isNone) && x.pend.all fun q => q.store.isNone && q.atom.isNone)
    || s.backHeld (coreOf s.cur) || s.removeHeld (s.partOf s.cur) leaf then s.stall
  else
    let s := s.writeBackAll (coreOf s.cur)
    match range with
    | none => .next s.retire
    | some r =>
      let s := (s.removeXlate (s.partOf s.cur) leaf ptr).uncopyRange (s.partOf s.cur) r
      .next (s.setMe { s.me with inv := r :: s.me.inv }).retire

/-- The VA of a TLBINV, when it lies in the translated region. Log 28 (DEDUCED). -/
def invVa (w : Word) : Option Nat :=
  let va := (w.extractLsb' 0 56).toNat
  if va ≥ meshBase || va < 0x40000 then none else some va

def execTlbinv (a : BitVec 5) (_h : BitVec 2) (s : State) : Out1 :=
  match invVa (s.rs a) with
  | none => s.tlbinv none (fun _ => false) fun _ => false
  | some va =>
    let page := va / 2 ^ 16 * 2 ^ 16
    let big := va / 2 ^ 26 * 2 ^ 26
    s.tlbinv (some (page, page + 2 ^ 16))
      (fun e => if e.large then e.va = big else e.va = page) fun _ => false

def execTlbinvRng (a : BitVec 5) (_h : BitVec 2) (s : State) : Out1 :=
  match invVa (s.rs a) with
  | none => s.tlbinv none (fun _ => false) fun _ => false
  | some va =>
    let big := va / 2 ^ 26 * 2 ^ 26
    s.tlbinv (some (big, big + 2 ^ 26)) (fun e => e.va / 2 ^ 26 * 2 ^ 26 = big) fun e => e.level = 3 && e.index = va / 2 ^ 26

def execTlbinvAll (_h : BitVec 2) (s : State) : Out1 := s.tlbinv (some (0, 2 ^ 56)) (fun _ => true) fun _ => true

/-- Whether no access of a partition that was translated in some ranges is still to be performed (R80). Log 28 (DEDUCED). -/
def State.rangesQuiet (s : State) (p : Nat) (rs : List (Nat × Nat)) : Bool :=
  (s.strandsOf p).all fun t =>
    let x := s.strand t
    x.out.all (fun o => !o.at_.within rs) && x.pend.all fun q => q.parked || q.parts.all fun a => !a.within rs

def execPtsync (_h : BitVec 2) (s : State) : Out1 :=
  let x := s.me
  if x.level = 0 then s.trapIr 0x02
  else if s.rangesQuiet (s.partOf s.cur) x.inv then .next (s.setMe { x with inv := [] }).retire
  else s.stall

/-! ## PART (R260, R261, R387) -/

/-- A partition's interface is in CONFIG_LOCKED or RUN (R419). -/
def Part.locked (x : Part) : Bool := x.tdi = .locked || x.tdi = .run

/-- Dies that a saved partition still has but may lose: every cluster of theirs was spilled (R387). -/
def Part.gives (x : Part) (d : Nat) : Bool := match x.saved with | some v => inMask v.spilled d | none => false

/-- The owner a die takes when partition a gets mask m: a, none (8), or as before. -/
def newOwner (a : Nat) (m : BitVec 8) (d owner : Nat) : Nat := if inMask m d then a else if owner = a then 8 else owner

/-- Whether PART of a with mask m is refused for a die, given the issuer's partition and die (R261). -/
def State.dieRefused (s : State) (a : Nat) (m : BitVec 8) (own mine d : Nat) : Bool :=
  let o := s.partOfDie d
  newOwner a m d o ≠ o &&
    (!(o = a || o = own || o = 8 || (s.part o).gives d) || d = mine || !s.dieHalted d || (o ≠ a && o ≠ 8 && (s.part o).saved.isSome && !(s.part o).gives d))

/-- The lead cluster of a partition that holds a die (R379). -/
def State.lead? (s : State) (p : Nat) : Option Nat := if s.mask p = 0 then none else some (s.lead p)

/-- The touched cores of the dies that join or leave a partition when its mask becomes m. -/
def State.movedCores (s : State) (p : Nat) (m : BitVec 8) : List Nat :=
  (s.cores.map (·.1)).filter fun c => inMask m (dieOfCore c) != inMask (s.mask p) (dieOfCore c)

/-- Whether a swap holds the write-back of a core that would change its owner (R43, R60). -/
def State.maskHeld (s : State) (p : Nat) (m : BitVec 8) : Bool := (s.movedCores p m).any s.backHeld

/-- Set the die mask of a partition (R261, R411): dies that join or leave are cleared, their cores' dirty lines written back with the
entries they lose (R43), and dies that leave others change them. A partition that the host forms is held. Log 29 (DEDUCED). -/
def State.setMask (s : State) (p : Nat) (m : BitVec 8) (host : Bool) : State :=
  let s := (s.movedCores p m).foldl (fun s c => s.dropLines c fun _ => true) s
  let old := s.mask p
  let held := if old = 0 then (if host then some 1 else none) else (s.part p).gang
  let leads := (List.range 8).map s.lead?
  -- other partitions lose the dies that p takes
  let s := (List.range 8).foldl (fun s q => if q = p then s else s.modPart q fun x => { x with mask := x.mask &&& ~~~m }) s
  let s := (List.range 8).foldl (fun s d =>
    if inMask m d && !inMask old d then s.clearDie d (s.part p).pcstrn held
    else if !inMask m d && inMask old d then s.clearDie d 0 none else s) s
  let s := s.modPart p fun x =>
    if m = 0 then
      { x with mask := 0, gang := none, quiet := false, parkq := [], shadows := [], handles := [], launches := [], grants := [],
               sets := [], assays := [], slots := [], victims := [], swap := none, cands := [], saved := none }
    else { x with mask := m, gang := held, quiet := x.quiet && held.isSome }
  (List.range 8).foldl (fun s q =>
    let new := s.lead? q
    let was := leads.getD q none
    if new = was then s
    else (new.toList ++ was.toList).foldl (fun s c => s.modCluster c fun x => { x with fqcfg := 0, fqdoor := 0 }) s) s

def execPart (d a b : BitVec 5) (_h : BitVec 2) (s : State) : Out1 :=
  let p := s.partOf s.cur
  let aw := s.rs a
  let bw := s.rs b
  let n := (aw.extractLsb' 0 3).toNat
  let m : BitVec 8 := bw.extractLsb' 0 8
  if s.me.level ≠ 2 then s.trapIr 0x02
  else if !inMask (s.mask p) 0 then s.trapIr 0x02
  else if aw.extractLsb' 3 61 ≠ 0 || (s.part n).locked || ((s.part n).saved.isSome && m ≠ 0) then s.trap 0x05 aw
  else if bw.extractLsb' 8 56 ≠ 0 || (List.range 8).any (s.dieRefused n m p (dieOfCore (coreOf s.cur))) then s.trap 0x05 bw
  else if !(s.me.drained && s.me.fences.isEmpty) || s.backHeld (coreOf s.cur) || s.maskHeld n m then s.stall
  else
    let old := s.mask n
    let s := s.fenceEffect s.cur (.fence 3)
    .next ((s.setMask n m false).put d (old.setWidth 64))

/-! ## The spill (R384, R385) -/

/-- Copy n bytes of memory from one place to another: what stood there goes. -/
def Memory.move (m : List Host.Cell) (src dst n : Nat) : List Host.Cell :=
  (m.filter fun c => src ≤ c.1 && c.1 < src + n).foldl (fun m c => Memory.write m (dst + (c.1 - src)) c.2) (Memory.clear m dst n)

/-- The ranges of a cluster that a spill moves, with their offsets in the area and lengths. The two macro sets of an octet stand one
after the other, 0x2_0000 bytes apart (log 20). -/
def spillRanges (cl : Nat) : List (Nat × Nat × Nat) :=
  (List.range 48).flatMap (fun c => [(coreAddr (cl * 48 + c) 0, c * 0x40000, 0x20000), (coreAddr (cl * 48 + c) 0x30000, c * 0x40000 + 0x30000, 0x10000)])
  ++ [(poolAddr cl 0, 0xC00000, 0x1000000)]
  ++ (List.range 6).flatMap fun o => [(loomBase (cl * 6 + o) false, 0x1C00000 + o * 0x40000, 0x11000),
                                      (loomBase (cl * 6 + o) true, 0x1C00000 + o * 0x40000 + 0x20000, 0x11000)]

def Cluster.spillBase (c : Cluster) : Option Nat := if c.clspill.getLsbD 0 then some ((c.clspill.extractLsb' 25 19).toNat * 2 ^ 25) else none

/-- Frames stand in the local memory they belong to, all sixteen of every core (R16, R17); the area is clear, so words of zero need no
write. Log 20 (DESIGN CHOICE). -/
def State.spillFrames (s : State) (cl base : Nat) (m : List Host.Cell) : List Host.Cell :=
  (List.range 768).foldl (fun m i =>
    let at_ := base + i / 16 * 0x40000 + 0x20000 + i % 16 * 0x1000
    (List.range 512).foldl (fun m k =>
      let w := s.frameRead (cl * 768 + i) (8 * k)
      if w = 0 then m else Memory.writeN m (at_ + 8 * k) 8 w.toNat) m) m

/-- Spill a cluster to its area (R384). Log 20 (DESIGN CHOICE). -/
def State.spill (s : State) (cl : Nat) : State :=
  match (s.cluster cl).spillBase with
  | none => s
  | some b =>
    let m := (spillRanges cl).foldl (fun m r => Memory.move m r.1 (b + r.2.1) r.2.2) (Memory.clear s.mem b 0x2000000)
    { s with mem := s.spillFrames cl b m }

/-- Reload a cluster from its area (R386). Log 20 (DESIGN CHOICE). -/
def State.reload (s : State) (cl : Nat) : State :=
  match (s.cluster cl).spillBase with
  | none => s
  | some b => { s with mem := (spillRanges cl).foldl (fun m r => Memory.move m (b + r.2.1) r.1 r.2.2) s.mem }

/-! ## Quiet (R390) -/

/-- What a gang stop leaves of a strand's accesses is done: its stores and atomics have taken their steps, and it does not move (R390,
R388). Log 66 (DEDUCED). -/
def Strand.quiet (x : Strand) : Bool :=
  x.st ≠ .moving && x.out.isEmpty && x.port.all (fun e => e.val.isNone) && x.pend.all fun q => q.store.isNone && (q.atom.isNone || q.parked)

/-- A command of a stopped partition has parked, waits behind one that has, or is held by the save (R390). Log 66 (DEDUCED). -/
def State.cmdQuiet (s : State) (c : Cmd) : Bool := c.fail.isNone && (!c.parked.isEmpty || !s.mayStep c)

/-- Whether `CHALT.quiet` may be set on every core of a partition (R390). Log 66 (DEDUCED). -/
def State.quietReady (s : State) (p : Nat) : Bool :=
  (s.part p).gang.isSome
  && (s.cmds.all fun c => c.part ≠ p || s.cmdQuiet c)
  && (s.net.all fun m => s.partOf m.dest ≠ p || m.held)
  && (s.strandsOf p).all fun t => (s.strand t).quiet

/-- CHALT_QUIET. -/
def State.quietStep (s : State) (p : Nat) : Option State :=
  if (s.part p).quiet || !s.quietReady p then none else some (s.modPart p fun x => { x with quiet := true })

/-! ## PREEMPT (R262, R386 to R388) -/

/-- A row of a product of pair code 0 that is read and not written, behind rows that are written: a split may fall inside it, again and
again (R319, R320). Log 22 (DESIGN CHOICE). -/
def Cmd.splitRow (c : Cmd) : Option Nat :=
  match c.op with
  | .lmm _ _ pair _ _ _ _ _ false | .lmmg _ _ pair _ _ _ _ =>
    if pair ≠ 0 || c.fail.isSome then none
    else (List.range c.op.plan.length).find? fun r =>
      let js := (List.range c.op.cols.1).map (· + r * c.op.cols.1)
      js.all (fun j => !c.wrote.has j && (c.op.needs j).all fun i => c.got.has i)
      && (List.range (r * c.op.cols.1)).all fun j => c.wrote.has j
  | _ => none

/-- Split a row after plane q: each element takes what the planes passed since the row began or was last split give, rounded once, and the
rest follows on resume (R319). Log 22 (DESIGN CHOICE). -/
def State.splitAt (s : State) (c : Cmd) (r q : Nat) : State :=
  match c.op with
  | .lmm acc a _ _ _ d _ _ _ | .lmmg acc a _ _ _ d _ =>
    let f := Rec.fmt a
    let hi := match c.split with | some (r', q') => if r' = r then q' else loomPlanes f | none => loomPlanes f
    if q = 0 || q ≥ hi then s
    else
      let o := c.op
      let n := o.plan.length
      let base := loomBase (octetOf c.core) (s.loom (octetOf c.core)).act
      let A := c.aBlock f false (loomPad 0 false 0) (r * (o.aUnits.1 * o.aUnits.2))
      let ks := (o.plan.getD r (0, [])).2
      let c' := { c with split := some (r, q) }
      let (s, c') := (List.range o.cols.1).foldl (fun (x : State × Cmd) k =>
        let j := r * o.cols.1 + k
        let i := n * (o.aUnits.1 * o.aUnits.2) + j
        let (v, fl) := loomSplitSave f d.bfmt.toNat q hi A (macroBlock s.mem base k) ks (c.val i)
        let cmd := { x.2 with got := x.2.got.set i (BitVec.ofNat 64 v), flags := x.2.flags ||| fl }
        match s.pieceRoute c .store (o.writePiece j) with
        | .ok at_ => match x.1.engineStore c ((Piece.acc acc 0 0).key c.part) at_ (BitVec.ofNat 64 v) with
          | .ok s => (s, cmd)
          | .error _ => (x.1, cmd)
        | _ => (x.1, cmd)) (s, c')
      (s.setCmd c').dcause c.part 8 c.pc
  | _ => s

/-- The Loom commands of a partition in relaxed mode stop where they stand, a running product at a plane of the device's choosing.
Log 22 (DESIGN CHOICE). -/
def State.splitAll (s : State) (p : Nat) : State :=
  if (s.part p).dmode then s
  else (s.cmds.filter fun c => c.part = p && s.atHead c && c.parked.isEmpty).foldl (fun s c =>
    match c.splitRow with
    | some r => (s.splitAt c r (Config.splitPlane s.fresh)).tick
    | none => s) s

/-- Contexts stored on a die. -/
def State.storedOn (s : State) (d : Nat) : Nat :=
  (List.range 8).countP fun q => match (s.part q).saved with | some v => inMask v.mask d | none => false

/-- The checks of PREEMPT (R260, R262): none when it may go on. Log 29 (DEDUCED). -/
def State.preemptBad (s : State) (aw : Word) (rest : Bool) : Option (BitVec 8) :=
  let n := (aw.extractLsb' 0 3).toNat
  if s.me.level ≠ 2 || !inMask (s.mask (s.partOf s.cur)) 0 then some 0x02
  else if (s.part n).locked || n = s.partOf s.cur || (s.mask n = 0 && !(rest && (s.part n).saved.isSome)) then some 0x05
  else none

/-- The cores of a partition write back and drop every line, and its TLBs and walk caches are emptied: they are no part of the context that
is saved (R384), and what they hold may change meanwhile (R43). Log 20 (DESIGN CHOICE). -/
def State.dropXlate (s : State) (p : Nat) : State :=
  ((s.touchedCores p).foldl (fun s c => s.dropLines c fun _ => true) s).removeXlate p (fun _ => true) fun _ => true

/-- Move the context of a quiet partition to the shadow stores, and spill (R384, R386). Log 20 (DESIGN CHOICE). Log 29 (DEDUCED). -/
def State.savePart (s : State) (p : Nat) : State :=
  let s := (s.splitAll p).dropXlate p
  let mask := s.mask p
  let on : Nat → Bool := fun d => inMask mask d
  let s := (s.clustersOf p).foldl (fun s c => s.spill c) s
  let all : Nat → Bool := fun d => (List.range 16).all fun c => (s.cluster (d * 16 + c)).spillBase.isSome
  let v : Saved :=
    { mask := mask, strands := s.strands.filter fun x => on (dieOfCore (coreOf x.1)), cores := s.cores.filter fun x => on (dieOfCore x.1),
      cells := s.cells.filter fun x => on (dieOfCore (x.1 / 4096)), clusters := s.clusters.filter fun x => on (x.1 / 16),
      dies := s.dies.filter fun x => on x.1, looms := s.looms.filter fun x => on (x.1 / 96), chans := s.chans.filter fun x => on (x.1 / 256),
      cmds := s.cmds.filter fun c => c.part = p, net := s.net.filter fun m => s.partOf m.dest = p,
      spilled := BitVec.ofNat 8 ((maskDies mask).foldl (fun n d => if all d then n + 2 ^ d else n) 0) }
  ({ s with cmds := s.cmds.filter fun c => c.part ≠ p, net := s.net.filter fun m => s.partOf m.dest ≠ p }).modPart p fun x => { x with saved := some v }

/-- PREEMPT.save: 1 when the partition is saved, 2 when a die has no room; else the stop, the wait for quiet, and the save. -/
def execPreemptSave (d a : BitVec 5) (_h : BitVec 2) (s : State) : Out1 :=
  let aw := s.rs a
  let p := (aw.extractLsb' 0 3).toNat
  match s.preemptBad aw false with
  | some c => if c = 0x02 then s.trapIr c else s.trap c aw
  | none =>
    if (s.part p).saved.isSome then .next (s.put d 1)
    else if (maskDies (s.mask p)).any fun k => s.storedOn k ≥ 4 then .next (s.put d 2)
    else if (s.part p).gang ≠ some 8 then (s.gangStop p 8).modPart p (fun x => { x with gang := some 8, quiet := false }) |>.stall
    else if !(s.part p).quiet || (s.touchedCores p).any s.backHeld then s.stall
    else .next ((s.savePart p).put d 0)

/-- Replace what a list holds of some places by what was saved of them. -/
def restoreInto {α : Type} (live saved : SMap α) (mine : Nat → Bool) : SMap α :=
  (saved.filter fun x => mine x.1).foldl (fun (m : SMap α) x => m.set x.1 x.2) (live.filter fun x => !mine x.1)

/-- Bring a saved context back: the spills, the tables of its dies, its commands and messages (R386, R387).
Log 20 (DESIGN CHOICE). Log 29 (DEDUCED). -/
def State.restPart (s : State) (p : Nat) (v : Saved) : State :=
  let on : Nat → Bool := fun d => inMask v.mask d
  let s := { s with
    strands := restoreInto s.strands v.strands fun t => on (dieOfCore (coreOf t)),
    cores := restoreInto s.cores v.cores fun c => on (dieOfCore c),
    cells := restoreInto s.cells v.cells fun k => on (dieOfCore (k / 4096)),
    clusters := restoreInto s.clusters (v.clusters.map fun (x : Nat × Cluster) => (x.1, { x.2 with cecnt := (s.cluster x.1).cecnt })) fun c => on (c / 16),
    dies := restoreInto s.dies v.dies on,
    looms := restoreInto s.looms v.looms fun o => on (o / 96),
    chans := restoreInto s.chans v.chans fun c => on (c / 256),
    cmds := s.cmds ++ v.cmds, net := s.net ++ v.net }
  let s := s.modPart p fun x => { x with mask := v.mask, saved := none }
  ((s.clustersOf p).foldl (fun s c => s.reload c) s).gangRelease p

def execPreemptRest (d a : BitVec 5) (_h : BitVec 2) (s : State) : Out1 :=
  let aw := s.rs a
  let p := (aw.extractLsb' 0 3).toNat
  match s.preemptBad aw true with
  | some c => if c = 0x02 then s.trapIr c else s.trap c aw
  | none =>
    match (s.part p).saved with
    | none => .next (s.put d 1)
    | some v =>
      if (maskDies v.mask).all fun k => s.partOfDie k = p || s.partOfDie k = 8 then .next ((s.restPart p v).put d 0)
      else s.trap 0x05 aw

end Sys2Proof.Machine
end

