-- ==== Sys2Proof/Machine/Debug.lean ====
section
/-! DEFINITION. Launch packets as they arrive and are granted (R225, R46), stops and releases (R389 to R397, R405, R406), machine checks and
corrected errors (R381 to R383). -/

namespace Sys2Proof.Machine

/-! ## Launches -/

/-- Record what the device tells the host. Log 76 (DESIGN CHOICE). -/
def State.answer (s : State) (a : HostAnswer) : State := { s with io := { s.io with answers := a :: s.io.answers } }

/-- A partition's VF answers a request with Unsupported Request (R404, R416, R419): in RUN a request outside the selective IDE stream of
the interface too. Log 83 (DEDUCED). -/
def State.deaf (s : State) (path : HostPath) (p : Nat) : Bool :=
  let x := s.part p
  s.io.stage ≠ 3 || (x.mask = 0 && x.saved.isNone) || x.tdi = .error || ((x.tdi = .locked || x.tdi = .run) && x.tdiLink ≠ path.link)
  || (x.tdi = .run && !path.ide)

/-- LAUNCH_PACKET_ACCEPT (R225). Packets for a saved partition wait at the IO die (R387). -/
def State.packetStep (s : State) (path : HostPath) (p slot : Nat) (q : BitVec 512) : Option State :=
  if slot ≥ 32768 then none
  else if s.deaf path p then some (s.answer .unsupported)
  else if (s.part p).saved.isSome then none
  else some (s.hostLaunch p slot q)

/-- APERTURE_WRITE: a write that is no whole aligned slot is dropped and reported (R225); its record's inner cause, which no rule gives, is
a free value. Log 57 (DEDUCED). -/
def State.apertureStep (s : State) (path : HostPath) (p off : Nat) : Option State :=
  if off ≥ 32768 * 64 then none
  else if s.deaf path p then some (s.answer .unsupported)
  else if (s.part p).saved.isSome then none
  else some (s.tick.report { celled := false, parked := false, src := 4, inner := Config.openInner s.fresh, cause := 0x14, pc := 0, addr := 0,
                             part := p, rank := 0, cw := 0, info := BitVec.ofNat 64 off })

def execLaunchPacketAccept (path : HostPath) (p : BitVec 3) (slot : Nat) (packet : BitVec 512) (s : State) : Out1 :=
  enabled (s.packetStep path p.toNat slot packet)
def execApertureWrite (path : HostPath) (p : BitVec 3) (off : Nat) (s : State) : Out1 := enabled (s.apertureStep path p.toNat off)
/-- A saved partition grants nothing. -/
def execLaunchGrant (p : BitVec 3) (s : State) : Out1 :=
  enabled (if (s.part p.toNat).saved.isSome then none else s.launchGrant p.toNat)

/-! ## Stops and releases -/

/-- GANG_STOP (R389): reason 1 is the host's; the stops of reasons 7, 8 and 9 are part of the steps that start them. -/
def execGangStop (p : BitVec 3) (why : BitVec 8) (s : State) : Out1 :=
  enabled (if why = 1 && s.mask p.toNat ≠ 0 && (s.part p.toNat).gang.isNone then some (s.gangStop p.toNat 1) else none)
def execChaltQuiet (p : BitVec 3) (s : State) : Out1 := enabled (s.quietStep p.toNat)
/-- HALT_GROUP_STOP (R395). -/
def execHaltGroupStop (core : Nat) (g : BitVec 4) (s : State) : Out1 :=
  enabled (if (s.core core).sig.getLsbD g.toNat then some (s.groupHalt core g.toNat) else none)
/-- A write of `CTRIG` by the partition's master (R394). -/
def execCtrigHalt (p : BitVec 3) (g : BitVec 4) (s : State) : Out1 :=
  enabled (if s.mask p.toNat = 0 then none else some (s.groupStop p.toNat g.toNat))
def execCtrigRel (p : BitVec 3) (g : BitVec 4) (s : State) : Out1 :=
  enabled (if s.mask p.toNat = 0 then none else some (s.groupRelease p.toNat g.toNat))

/-- A host write of `HSTOP.stop` (R405). -/
def execHstopStop (p : BitVec 3) (s : State) : Out1 := .next (s.gangStop p.toNat 1)
/-- A host write of `HSTOP.rel` (R406). -/
def State.hostRelease (s : State) (p : Nat) : State :=
  let x := s.part p
  if x.saved.isNone && (x.gang = some 1 || x.gang = some 7 || x.gang = some 9) then s.gangRelease p else s
def execHstopRel (p : BitVec 3) (s : State) : Out1 := .next (s.hostRelease p.toNat)

/-! ## Machine checks (R381 to R383) -/

/-- A die-to-die link fails (R383): both partitions stop with reason 9, their interfaces are in ERROR (R419), and the host is told.
Log 55 (DEDUCED). Log 56 (DEDUCED). -/
def State.linkFails (s : State) (a b : BitVec 3) : State :=
  let ps := [s.partOfDie a.toNat, s.partOfDie b.toNat].eraseDups.filter (· < 8)
  (ps.foldl (fun s p => (s.gangStop p 9).modPart p fun x => { x with tdi := .error }) s).answer (.linkFailed a b)

/-- The bad data was in a core copy: the line's dirty bytes are lost, and the core's strands are interrupted (R383). Log 55 (DEDUCED). -/
def State.lineLost (s : State) (core : Nat) (addr : Word) : Option State :=
  match (s.core core).line addr.toNat with
  | some l =>
    if l.dirty = 0 then none
    else
      let s := s.modCore core fun c => { c with lines := c.lines.del (lineAt addr.toNat) }
      some ((List.range 16).foldl (fun s f =>
        s.modStrand (core * 16 + f) fun x =>
          if x.st = .free then x else { x with irq := some (BitVec.ofNat 64 (lineAt addr.toNat)), wait := if x.wait = .wfi then .none else x.wait }) s)
  | none => none

/-- MACHINE_CHECK (R383). Log 55 (DEDUCED). -/
def State.checkStep (s : State) (code : BitVec 8) (site : CheckSite) (addr : Word) : Option State :=
  let plain := code = 0x20 || code = 0x21 || code = 0x22
  match site with
  | .strand t => if plain && s.issuable t then some ((s.leaveWait t).trapIn t code addr) else none
  | .engine id =>
    match s.cmd? id with
    | some c => if plain && c.fail.isNone then some (s.setCmd { c with fail := some ⟨0, addr, c.info 0, code⟩ }) else none
    | none => none
  | .idle p lost =>
    if !plain || s.mask p.toNat = 0 then none
    else
      let r : FaultRec := { celled := false, parked := false, src := 8, inner := 0, cause := code, pc := 0, addr := addr, part := p.toNat,
                            rank := 0, cw := 0, info := 0 }
      match lost with
      | none => some (s.report r)
      | some core => if s.partOfCore core = p.toNat && code = 0x20 then (s.lineLost core addr).map fun s => s.report r else none
  | .link a b => if code = 0x24 && a ≠ b then some (s.linkFails a b) else none

/-- Log 55 (DEDUCED). -/
def execMachineCheck (code : BitVec 8) (site : CheckSite) (addr : Word) (s : State) : Out1 := enabled (s.checkStep code site addr)

/-- CORRECTED_ERROR (R381). -/
def execCorrectedError (cluster : BitVec 7) (s : State) : Out1 :=
  .next (s.modCluster cluster.toNat fun c => { c with cecnt := if c.cecnt = BitVec.allOnes 32 then c.cecnt else c.cecnt + 1 })

/-- DIE_LINK_FAIL (R383): the link of two dies fails. Which pairs of dies a link joins is open, as R1 gives only the arrangement of the
dies: a choice of the model's is that any two distinct dies have one. Log 84 (DESIGN CHOICE). -/
def execDieLinkFail (die1 die2 : BitVec 3) (s : State) : Out1 := enabled (if die1 ≠ die2 then some (s.linkFails die1 die2) else none)

end Sys2Proof.Machine
end

