-- ==== Sys2Proof/Machine/Links.lean ====
section
/-! DEFINITION. Slodun ports (R420, R421): enabling, receiving, transmitting, and links that come and go. -/

namespace Sys2Proof.Machine

/-- The gateway cluster of a port (R34). -/
def gatewayCluster (n : Nat) : Nat := ((List.range 128).find? fun cl => gatewayPort cl = some n).getD 0
/-- The partition that holds a port's gateway die; 8 for none (R34, R35). -/
def State.portPart (s : State) (n : Nat) : Nat := s.partOfDie (gatewayCluster n / 16)

/-- Offsets of the blocks of a ring slot, and their size (R421, R96). -/
def ringUnit (r : BRec) : Nat := unitBytes (Rec.fmt r)
def ringOffsets (r : BRec) (slot : Nat) : List Int := (List.range (64 / ringUnit r)).map fun i => (64 * slot + i * ringUnit r : Nat)

/-- What a port reaches the ring with: its partition at master level, without seals. Log 58 (DEDUCED). -/
def State.portCtx (s : State) (n : Nat) : Ctx := ⟨s.portPart n, gatewayCluster n * 48, 2, []⟩

/-- The parts of a ring slot, block by block: 8-byte parts of the data and the byte of the scale; or why not. Log 58 (DEDUCED). -/
def State.ringParts (s : State) (n : Nat) (r : BRec) (acc : Acc) : List Int → Except (Option Trap) (List (List Part1))
  | [] => .ok []
  | o :: os =>
    match s.bmUnit (s.portCtx n) r o (ringUnit r) 5 acc with
    | .ok ps _ _ => (s.ringParts n r acc os).map fun l => ps :: l
    | .dropped => .error (some ⟨0x07, Rec.base r + BitVec.ofInt 64 o⟩)
    | .invalid t | .fault t => .error (some t)
    | .wait => .error none

/-- Count the line requests of a ring slot, one for each line (R54). -/
def State.ringCount (s : State) (p : Nat) (l : List (List Part1)) : State :=
  (l.flatten.foldl (fun (acc : State × List Nat) a =>
    if acc.2.contains (lineAt a.key) then acc else (acc.1.countLine p a.pte, lineAt a.key :: acc.2)) (s, [])).1

/-- Land block data and scales in a ring slot. -/
def State.ringWrite (s : State) (p : Nat) (u : Nat) (data : BitVec 512) (scales : Word) (l : List (List Part1)) : State :=
  l.zipIdx.foldl (fun s (ps, i) => ps.foldl (fun s a =>
    let a := { a with pte := none }
    if a.pos < 512 then s.outsidePut p a (BitVec.ofNat 64 (data.toNat / 2 ^ (8 * u * i + a.pos)))
    else s.outsidePut p a (BitVec.ofNat 64 (scales.toNat / 2 ^ (8 * i)))) s) (s.ringCount p l)

/-- The data and scales that stand in a ring slot. -/
def State.ringRead (s : State) (u : Nat) (l : List (List Part1)) : BitVec 512 × Word :=
  l.zipIdx.foldl (fun (x : BitVec 512 × Word) (ps, i) => ps.foldl (fun (x : BitVec 512 × Word) a =>
    let v := Memory.readN s.mem (s.keyOf a) a.size
    if a.pos < 512 then (x.1 ||| BitVec.ofNat 512 (v * 2 ^ (8 * u * i + a.pos)), x.2) else (x.1, x.2 ||| BitVec.ofNat 64 (v * 2 ^ (8 * i)))) x) (0, 0)

/-- The sender number of a port, apart from strands and commands. -/
def portSender (n : Nat) : Nat := 2 ^ 40 + n

/-- RECEIVE_BLOCK: the next block lands in its slot and one gateway core's cell is decremented with its number (R421). A block whose
slot cannot be written is lost and reported (log 25). -/
def State.receiveStep (s : State) (n : Nat) (data : BitVec 512) (scales : Word) : Option State :=
  let x := s.slport n
  let p := s.portPart n
  let b := x.rxNext
  if !x.up || !x.en || p = 8 || (s.part p).saved.isSome || (b - x.cons).toNat ≥ x.rxn then none
  else
    let next : State → State := fun s => s.modPort n fun x => { x with rxNext := x.rxNext + 1 }
    match s.ringParts n x.rx .store (ringOffsets x.rx (b.toNat % x.rxn)) with
    | .error none => none
    | .error (some t) => some ((next s).slodunRecord p n t.cause t.val)
    | .ok l =>
      let core := gatewayCluster n * 48 + b.toNat % 12
      if l.flatten.any fun a => s.swapBytes p a.key a.size then none
      else some ((next (s.ringWrite p (ringUnit x.rx) data scales l)).post (portSender n) none (core * 16) false
        (.decrement x.cell 1 [b.setWidth 64] none false))

/-- TRANSMIT_BLOCK: the next slot in order, once it is ready (R421). -/
def State.transmitStep (s : State) (n : Nat) : Option State :=
  let x := s.slport n
  let p := s.portPart n
  let b := x.txNext
  if !x.up || !x.en || p = 8 || (s.part p).saved.isSome || !x.ready.contains b then none
  else
    let next : Port → Port := fun x => { x with txNext := x.txNext + 1, ready := x.ready.filter (· ≠ b) }
    match s.ringParts n x.tx .load (ringOffsets x.tx (b.toNat % x.txn)) with
    | .error none => none
    | .error (some t) => some ((s.modPort n next).slodunRecord p n t.cause t.val)
    | .ok l =>
      let (d, sc) := s.ringRead (ringUnit x.tx) l
      -- a load within the page-table region is recorded (R59)
      let s := if l.flatten.any fun a => inRegion (s.part p).ptreg a.key a.size then s.dcause p 15 0 else s
      some ((s.ringCount p l).modPort n fun x => { next x with out := x.out ++ [(b, d, sc)] })

/-- PEER_ACKNOWLEDGEMENT of a block that was sent and not yet acknowledged. Log 58 (DEDUCED). -/
def State.ackStep (s : State) (n : Nat) (b : BitVec 32) : Option State :=
  let x := s.slport n
  if x.up && x.en && x.out.any fun o => o.1 = b then
    some (s.modPort n fun x => { x with acked := b, out := (x.out.dropWhile fun o => o.1 ≠ b).drop 1 })
  else none

def execReceiveBlock (port : Fin 12) (data : BitVec 512) (scales : Word) (s : State) : Out1 := enabled (s.receiveStep port.val data scales)
def execTransmitBlock (port : Fin 12) (s : State) : Out1 := enabled (s.transmitStep port.val)
def execPeerAcknowledgement (port : Fin 12) (block : BitVec 32) (s : State) : Out1 := enabled (s.ackStep port.val block)

/-- A master's write of `SLEN.en` (R421). -/
def execSlenEnable (port : Fin 12) (s : State) : Out1 :=
  enabled (if (s.slport port.val).en || s.portPart port.val = 8 || s.portHeld (s.portPart port.val) port.val then none else some (s.slodunEnable (s.portPart port.val) port.val))
/-- A write of `SLTXD` (R421). -/
def execSltxdReady (port : Fin 12) (slot : BitVec 32) (s : State) : Out1 :=
  enabled (if (s.slport port.val).en && s.portPart port.val ≠ 8 then some (s.slodunReady (s.portPart port.val) port.val slot) else none)

/-- LINK_UP, after stage 3 (R416, R420). -/
def execLinkUp (port : Fin 12) (peer : BitVec 16) (lanes : BitVec 4) (s : State) : Out1 :=
  enabled (if s.io.stage = 3 && !(s.slport port.val).up && 1 ≤ lanes.toNat && lanes.toNat ≤ 8
    then some (s.modPort port.val fun x => { x with up := true, peer := peer, lanes := lanes }) else none)
/-- LINK_DOWN: what was on the link is lost (R421). -/
def execLinkDown (port : Fin 12) (s : State) : Out1 :=
  let p := s.portPart port.val
  enabled (if (s.slport port.val).up then
      let s := s.modPort port.val fun x => { x with up := false, lanes := 0, out := [] }
      some (if p = 8 then s else s.slodunRecord p port.val 0 0)
    else none)

end Sys2Proof.Machine
end

