-- ==== Sys2Proof/Machine/Registers.lean ====
section
/-! DEFINITION. Writes of single registers as steps of their own (R22, R139, R157, R168, R174, R203, R204, R240, R248, R55): each is the
write that a master store or a CSR write makes, under the register's own rules. A value that the rule refuses leaves the register as
it was. -/

namespace Sys2Proof.Machine

/-- A write of a partition-kept CSR at master level. Log 72 (DEDUCED). -/
def State.partWrite (s : State) (p : Nat) (n : Nat) (v : Word) : Out1 :=
  if s.mask p = 0 then .fault .notEnabled
  else match (s.part p).csrWrite n v (s.quietFor p none) with
    | some x => .next (s.setPart p x)
    | none => .next s

/-- A write that a core's own part of the machine makes: only where the core belongs to a partition. Log 72 (DEDUCED). -/
def State.coreWrite (s : State) (core : Nat) (r : Except Trap State) : Out1 :=
  if s.partOfCore core = 8 then .fault .notEnabled
  else match r with
    | .ok s => .next s
    | .error _ => .next s

def execNictlFlush (core : Nat) (s : State) : Out1 := s.coreWrite core (s.ctlStore core 0x018 1)
def execFqctlReplay (p : BitVec 3) (s : State) : Out1 := s.partWrite p.toNat 0x108 1
/-- The write of `WMWIN` with `own` set (R139). -/
def execWmwinOwn (t : Nat) (n : BitVec 2) (value : Word) (s : State) : Out1 :=
  s.coreWrite (coreOf t) (match s.strandCsrWrite t (0x30 + n.setWidth 12) (value ||| 0x0008000000000000) with | some s => .ok s | none => .error ⟨0x05, value⟩)
def execDnoteWrite (p : BitVec 3) (pc : Word) (s : State) : Out1 :=
  if s.mask p.toNat = 0 then .fault .notEnabled else .next (s.dcause p.toNat 12 pc)
def execDmodeWrite (p : BitVec 3) (value : Word) (s : State) : Out1 := s.partWrite p.toNat 0x070 value
def execDsaltWrite (p : BitVec 3) (value : Word) (s : State) : Out1 := s.partWrite p.toNat 0x071 value
def execDcauseClear (p : BitVec 3) (n : BitVec 4) (s : State) : Out1 := s.partWrite p.toNat (0x80 + n.toNat) 0
/-- Fetch buffers are emptied with a write of the running level that takes effect (R240). -/
def execAlevelWrite (p : BitVec 3) (value : Word) (s : State) : Out1 :=
  if s.mask p.toNat = 0 then .fault .notEnabled
  else match (s.part p.toNat).csrWrite 0x240 value (s.quietFor p.toNat none) with
    | some x => .next ((s.strandsOf p.toNat).foldl (fun s t => s.modStrand t fun x => { x with fbuf := [] }) (s.setPart p.toNat x))
    | none => .next s
def execTierctlWrite (p : BitVec 3) (value : Word) (s : State) : Out1 := s.partWrite p.toNat 0x220 value
def execCstageWrite (core : Nat) (value : Word) (s : State) : Out1 := s.coreWrite core (s.ctlStore core 0x008 value)
def execCschedStrandsWrite (core : Nat) (value : Word) (s : State) : Out1 := s.coreWrite core (s.ctlStore core 0x100 value)
def execFrameStateStore (t : Nat) (value : Word) (s : State) : Out1 := s.coreWrite (coreOf t) (s.frameStore t 0x188 value 2)
def execFrameRegisterStore (t off : Nat) (value : Word) (s : State) : Out1 :=
  if off % 8 ≠ 0 || off ≥ 0x1000 then .fault .notEnabled else s.coreWrite (coreOf t) (s.frameStore t off value 2)

end Sys2Proof.Machine
end

