-- ==== Sys2Proof/Machine/Host.lean ====
section
/-! DEFINITION. The host's side (ch. 23): device registers, partition control blocks, BAR2, the mailbox, staged start, security, power. -/

namespace Sys2Proof.Machine

def State.modIo (s : State) (f : Io → Io) : State := { s with io := f s.io }
/-- The cause of a host write that was not performed (R410). Log 72 (DEDUCED). -/
def State.hostErr (s : State) (p : Nat) (c : BitVec 8) : State := s.modPart p fun x => { x with err := c }
/-- A partition held by a gang stop of reason 1 (R410). -/
def Part.heldByHost (x : Part) : Bool := x.gang = some 1

/-! ## Forming partitions and booting them (R411 to R414) -/

/-- A host write of `PCMASK` (R411). The partition control blocks are there from stage 3 on (R416). Log 64 (DEDUCED). -/
def State.hostMask (s : State) (p : Nat) (m : BitVec 8) : State :=
  let old := s.mask p
  if s.io.stage ≠ 3 || (s.part p).locked then s
  else if (s.part p).saved.isSome || s.io.fail ≠ 0
    || (List.range 8).any (fun d => (inMask m d && s.partOfDie d ≠ 8 && s.partOfDie d ≠ p) || (inMask m d ≠ inMask old d && !s.dieHalted d)) then
    s.hostErr p 0x05
  else s.setMask p m true

/-- A host write of CSR n through the window (R412). -/
def State.hostCsr (s : State) (p : Nat) (n : BitVec 12) (v : Word) : State :=
  let x := s.part p
  if x.locked || !partKept n || (csrLevels n).isNone then s
  else if !x.heldByHost then s.hostErr p 0x02
  else if n.toNat = 0x221 then s
  else if n.toNat = 0x72 then s.dcause p 12 0
  else match x.csrWrite n.toNat v (s.quietFor p none) with
    | some y => s.setPart p y
    | none => s.hostErr p 0x05

/-- Release the hold for an accepted boot packet, unless it is refused at its grant, which comes at once where no other launch stands
before it: then it has taken no root ordinal (R414, R46). Log 81 (DEDUCED). -/
def State.bootRelease (s : State) (p : Nat) : State :=
  match (if (s.part p).launches.length = 1 then s.launchGrant p else none) with
  | some u => if (u.part p).launches.isEmpty && (u.part p).rootOrd = (s.part p).rootOrd then u else u.gangRelease p
  | none => s.gangRelease p

/-- A host write of `PCBOOT.go` (R414). Log 81 (DEDUCED). -/
def State.hostBoot (s : State) (p : Nat) : State :=
  let x := s.part p
  if x.locked then s
  else if !x.heldByHost then s.hostErr p 0x02
  else match s.launchAccept p 0 x.boot 2 true with
    | .ok s => s.bootRelease p
    | .error _ => s.hostErr p 0x05

/-- The write waits while a swap holds what a core that changes its owner must write back (R43, R60). -/
def execPcmaskWrite (p : BitVec 3) (mask : BitVec 8) (s : State) : Out1 :=
  enabled (if s.maskHeld p.toNat mask then none else some (s.hostMask p.toNat mask))
def execCsrWindowWrite (p : BitVec 3) (csr : BitVec 12) (value : Word) (s : State) : Out1 := .next (s.hostCsr p.toNat csr value)
def execPcbootGo (p : BitVec 3) (s : State) : Out1 := .next (s.hostBoot p.toNat)

/-! ## BAR2 (R404, R413) -/

/-- A failed access: Unsupported Request, and a record (R404). -/
def State.bar2Fail (s : State) (p : Nat) (write : Bool) (va : Word) : State :=
  (s.report { celled := false, parked := false, src := 8, inner := if write then 0x05 else 0x04, cause := 0x14, pc := 0, addr := va, part := p,
              rank := 0, cw := 0, info := 0 }).answer .unsupported

/-- Perform an access at a home, and answer it. Loads within the page-table region are recorded (R59, R175). Log 63 (DEDUCED). -/
def State.bar2Home (s : State) (p : Nat) (a : Part1) (data : Option Word) : State :=
  match data with
  | some v => (s.outsidePut p a v).answer .done
  | none =>
    let s := if inRegion (s.part p).ptreg a.key a.size then s.dcause p 15 0 else s
    (s.countLine p a.pte).answer (.read (BitVec.ofNat 64 (Memory.readN s.mem a.key a.size)))

/-- One naturally aligned access of 1, 2, 4 or 8 bytes: `data` is what a write stores; a swap may hold it (R60). Log 63 (DEDUCED). -/
def State.bar2Step (s : State) (path : HostPath) (p off size : Nat) (data : Option Word) : Option State :=
  let x := s.part p
  let held : Nat → Bool := fun key => data.isSome && s.swapBytes p key size
  if !(size = 1 || size = 2 || size = 4 || size = 8) || off % size ≠ 0 then none
  else if s.deaf path p || off + size > 2 ^ 36 then some (s.answer .unsupported)
  else if x.saved.isSome then none
  else if x.pcwin.getLsbD 0 then
    let pa := (x.pcwin.extractLsb' 8 8).toNat * 2 ^ 36 + off
    if !offRange pa size then some (s.answer .unsupported)
    else if held pa then none
    else some (s.bar2Home p { key := pa, va := BitVec.ofNat 64 pa, size := size, name := .translated, kind := .so, cached := false, thru := none,
                              pos := 0, pte := none } data)
  else
    let va : Word := (((s.io.hwbase.toList.getD p 0).setWidth 64) <<< 36) + BitVec.ofNat 64 off
    if vaRegion va ≠ .translated then some (s.bar2Fail p data.isSome va)
    else match s.route ⟨p, s.lead p * 48, 2, []⟩ (if data.isSome then .store else .load) va size 0 with
      | .ok a _ => if held a.key then none else some (s.bar2Home p a data)
      | .invalid _ | .fault _ => some (s.bar2Fail p data.isSome va)
      | .wait => none

def execBar2Access (path : HostPath) (p : BitVec 3) (off size : Nat) (data : Option Word) (s : State) : Out1 :=
  enabled (s.bar2Step path p.toNat off size data)

/-! ## The mailbox (R415) -/

def bytesLe (n v : Nat) : List Byte := (List.range n).map fun i => BitVec.ofNat 8 (v / 256 ^ i)
def numLe (l : List Byte) : Nat := l.foldr (fun b n => b.toNat + 256 * n) 0

/-- A write of `MBCMD`: ignored while an operation runs; else the operation starts on the request that stands in `MBDATA`. Log 64
(DEDUCED). -/
def State.mailbox (s : State) (op : Nat) (tag : BitVec 32) (len : BitVec 16) (f : State → State × BitVec 8 × List Byte) : Out1 :=
  if s.io.mbrun.isSome then .next s
  else
    let (s, r) := if len.toNat > 240 then (s, (2 : BitVec 8), []) else f s
    .next (s.modIo fun x =>
      { x with mbcmd := BitVec.ofNat 64 (tag.toNat * 2 ^ 32 + len.toNat * 2 ^ 16 + op), mbstat := (x.mbstat &&& ~~~2#64) ||| 1, mbrun := some r })

/-- An operation that takes no request. -/
def noRequest (len : BitVec 16) (l : List Byte) (s : State) : State × BitVec 8 × List Byte := if len = 0 then (s, 0, l) else (s, 2, [])

/-- identify: what the module is, which the spec leaves to each module (log 6), and `ALEVEL.dev`. -/
def execIdentify (tag : BitVec 32) (len : BitVec 16) (s : State) : Out1 :=
  s.mailbox 1 tag len (noRequest len ((List.range 32).map Config.identity ++ [1]))

/-- read sensors: what the sensors show comes from outside. Log 64 (DEDUCED). -/
def execReadSensors (tag : BitVec 32) (len : BitVec 16) (temps : List (BitVec 16)) (power coolant : BitVec 32) (s : State) : Out1 :=
  if temps.length ≠ 10 then .fault .notEnabled
  else s.mailbox 2 tag len (noRequest len (temps.flatMap (fun t => bytesLe 2 t.toNat) ++ bytesLe 4 power.toNat ++ bytesLe 4 coolant.toNat))

/-- Corrected errors of a compute die, saturating. -/
def State.dieErrors (s : State) (d : Nat) : Nat := min ((List.range 16).foldl (fun n c => n + (s.cluster (d * 16 + c)).cecnt.toNat) 0) (2 ^ 64 - 1)

/-- read error counts: the IO dies' own counts come from outside. Log 64 (DEDUCED). -/
def execReadErrorCounts (tag : BitVec 32) (len : BitVec 16) (io0 io1 : Word) (s : State) : Out1 :=
  s.mailbox 3 tag len (noRequest len ((List.range 8).flatMap (fun d => bytesLe 8 (s.dieErrors d)) ++ bytesLe 8 io0.toNat ++ bytesLe 8 io1.toNat))

/-- stage firmware block: into the 64 MiB staging store. -/
def execStageFirmwareBlock (tag : BitVec 32) (len : BitVec 16) (s : State) : Out1 :=
  s.mailbox 4 tag len fun s =>
    if len.toNat < 8 then (s, 2, [])
    else
      let off := numLe (s.io.mbdata.take 8)
      let l := (s.io.mbdata.take len.toNat).drop 8
      if off + l.length > 2 ^ 26 then (s, 3, [])
      else (s.modIo fun x => { x with staged := l.zipIdx.foldl (fun (m : SMap Byte) b => m.set (off + b.2) b.1) x.staged }, 0, [])

/-- commit staged image: it is tried at the next reset. -/
def execCommitStagedImage (tag : BitVec 32) (len : BitVec 16) (s : State) : Out1 :=
  s.mailbox 5 tag len fun s =>
    let n := numLe (s.io.mbdata.take 8)
    if len ≠ 8 || n > 2 ^ 26 then (s, 2, []) else (s.modIo fun x => { x with commit := some (BitVec.ofNat 64 n) }, 0, [])

/-- The bytes that are measured at an index of R418: a firmware image, or registers in a layout that the spec does not give (log 6); none
for an index that is not measured. -/
def State.measured (s : State) (i : Nat) : Option (List Byte) :=
  if i = 1 then some Config.rootImage
  else if i = 2 then some (s.io.image.getD Config.factoryImage)
  else if i = 3 then some (Config.measuredBytes 3 ((List.range 8).flatMap fun p => [(s.mask p).setWidth 64, (s.part p).alevel]))
  else if 4 ≤ i && i ≤ 11 then
    let x := s.part (i - 4)
    let t : Word := match x.tdi with | .unlocked => 0 | .locked => 1 | .run => 2 | .error => 3
    some (Config.measuredBytes i [bit x.dmode, x.dsalt, t])
  else none

/-- read measurement: SHAKE256 of what is measured, 64 bytes (R415, R418). -/
def execReadMeasurement (tag : BitVec 32) (len : BitVec 16) (s : State) : Out1 :=
  s.mailbox 6 tag len fun s =>
    let i := (s.io.mbdata.headD 0).toNat
    match if len = 1 then s.measured i else none with
    | some l => (s, 0, shake512 l)
    | none => (s, 2, [])

/-- MAILBOX_OPERATION_END. -/
def State.mailboxEnd (s : State) : Option State :=
  match s.io.mbrun with
  | none => none
  | some (res, l) => some (s.modIo fun x =>
      { x with
        mbdata := (l ++ x.mbdata.drop l.length).take 240, mbrun := none,
        mbstat := BitVec.ofNat 64 ((x.mbcmd.extractLsb' 32 32).toNat * 2 ^ 32 + l.length * 2 ^ 16 + res.toNat * 2 ^ 8 + 2) })
def execMailboxOperationEnd (s : State) : Out1 := enabled s.mailboxEnd

/-! ## BAR0 (R405, R410, R415) -/

/-- A host write of 8 bytes into a partition control block (R410). Log 64 (DEDUCED). -/
def State.pcbWrite (s : State) (p off : Nat) (v : Word) : State :=
  let x := s.part p
  if off = 0x0008 then s.modPart p fun x => { x with err := 0 }
  else if x.locked then s
  else match off with
    | 0x0000 => s.hostMask p (v.extractLsb' 0 8)
    | 0x0010 => if (v.extractLsb' 0 5).toNat > 16 then s.hostErr p 0x05 else s.modPart p fun x => { x with pcstrn := v.extractLsb' 0 5 }
    | 0x0018 => if v.getLsbD 0 && !x.heldByHost then s.hostErr p 0x02 else s.modPart p fun x => { x with pcwin := v &&& 0xFF01 }
    | 0x0020 => if v.getLsbD 0 then s.hostBoot p else s
    | 0x0330 => if x.mask = 0 then s else s.modCluster (s.lead p) fun c => { c with rpcfg := v &&& 0x00FFFFFFFFFF0071 }
    | _ =>
      if 0x40 ≤ off && off < 0x80 then s.modPart p fun x => { x with boot := BitVec.ofNat 512 (spliceWord x.boot.toNat (off - 0x40) v) }
      else if 0x8000 ≤ off then s.hostCsr p (BitVec.ofNat 12 ((off - 0x8000) / 8)) v
      else s

/-- A host write of `HSTOP`: the stops, then the releases (R405, R406). -/
def State.hstopWrite (s : State) (v : Word) : State :=
  let s := (List.range 8).foldl (fun s p => if v.getLsbD p then s.gangStop p 1 else s) s
  (List.range 8).foldl (fun s p => if v.getLsbD (8 + p) then s.hostRelease p else s) s

/-- A host write of 8 aligned bytes into BAR0 of the management function. Operations whose answers come from outside start by their own
steps. Log 59 (DESIGN CHOICE). Log 63 (DEDUCED). -/
def State.bar0Write (s : State) (off : Nat) (v : Word) : Out1 :=
  if off % 8 ≠ 0 then .fault .notEnabled
  else if 0x100000 ≤ off && off < 0x180000 then
    .next (if s.io.stage = 3 then s.pcbWrite ((off - 0x100000) / 0x10000) (off % 0x10000) v else s)
  else if off = 0x08 then .next (s.hstopWrite v)
  else if off = 0x10 then
    let w := (v.extractLsb' 0 12).toNat
    .next (if 300 ≤ w && w ≤ 1800 then s.modIo fun x => { x with pwrcap := v.extractLsb' 0 12 } else s)
  else if h : 0x18 ≤ off ∧ off < 0x58 then
    let p := (off - 0x18) / 8
    .next (if (s.part p).locked then s else s.modIo fun x => { x with hwbase := x.hwbase.set ((off - 0x18) / 8) (v.extractLsb' 36 20) (by omega) })
  else if off = 0x100 then
    let tag : BitVec 32 := v.extractLsb' 32 32
    let len : BitVec 16 := v.extractLsb' 16 16
    match (v.extractLsb' 0 16).toNat with
    | 1 => execIdentify tag len s
    | 2 | 3 => .fault .notEnabled
    | 4 => execStageFirmwareBlock tag len s
    | 5 => execCommitStagedImage tag len s
    | 6 => execReadMeasurement tag len s
    | op => s.mailbox op tag len fun s => (s, 1, [])
  else if off = 0x108 then .next (if v.getLsbD 1 then s.modIo fun x => { x with mbstat := x.mbstat &&& ~~~2#64 } else s)
  else if 0x110 ≤ off && off < 0x200 then
    .next (s.modIo fun x => { x with mbdata := x.mbdata.take (off - 0x110) ++ bytesLe 8 v.toNat ++ x.mbdata.drop (off - 0x110 + 8) })
  else if 0x200 ≤ off && off < 0x300 then
    .next (if off % 32 = 0x18 && v.getLsbD 0 then s.modIo fun x => { x with reports := x.reports.zipIdx.map fun (r, i) => if i = (off - 0x200) / 32 then { r with valid := false } else r } else s)
  else .next s

/-- REGISTER_WRITE (R248). -/
def execRegisterWrite (reg : RegPlace) (value : Word) (s : State) : Out1 :=
  match reg with
  | .coreCtl core off => if off.toNat % 8 ≠ 0 then .fault .notEnabled else s.coreWrite core (s.ctlStore core off.toNat value)
  | .clusterCtl cl off => if off.toNat % 8 ≠ 0 || cl ≥ 128 || s.enableWaits cl off.toNat then .fault .notEnabled else s.coreWrite (cl * 48) (s.clusterStore cl off.toNat value)
  | .bar0 off => s.bar0Write off.toNat value

/-! ## What the host reads in BAR0 (R405, R407 to R410) -/

/-- Offsets and ids of the capability entries (R408, R409). -/
def capabilities : List (Nat × Nat) :=
  [(0x1000, 1), (0x1010, 2), (0x1020, 3), (0x1030, 4), (0x1100, 0x10), (0x1110, 0x11), (0x1120, 0x12), (0x1130, 0x13), (0x1140, 0x14)]
/-- The header of a capability entry; the staged ones are linked in at stage 3. -/
def State.capHeader (s : State) (i : Nat) : Word :=
  let next := if i = 3 && s.io.stage ≠ 3 then 0 else (capabilities.getD (i + 1) (0, 0)).1
  BitVec.ofNat 64 (next * 2 ^ 32 + 0x02010000 + (capabilities.getD i (0, 0)).2)

/-- Word k of the 32-byte entry of a replica report (R406): the partition numbers and the slot, then bits of the digests, and last the
valid bit. Two digests of 32 bytes do not fit an entry, and which of their bits stand there is a free value. Log 59 (DESIGN CHOICE). -/
def Report.word (r : Report) : Nat → Word
  | 0 => (r.slot.setWidth 64 <<< 16) ||| (r.b.setWidth 64 <<< 8) ||| r.a.setWidth 64
  | 3 => bit r.valid
  | k => Config.reportBits r.da r.db k

/-- The word of the base capability entry after its header (R407, R408): the architecture level, and the bytes of the serial number that
fit above it. Log 59 (DESIGN CHOICE). -/
def baseWord : Word := (List.range 7).foldl (fun w i => w ||| ((Config.identity i).setWidth 64 <<< (8 * i + 8))) 1

/-- A word of the partition control block (R410, R412). -/
def State.pcbWord (s : State) (p off : Nat) : Word :=
  let x := s.part p
  match off with
  | 0x0000 => x.mask.setWidth 64
  | 0x0008 => (x.err.setWidth 64 <<< 32) ||| (bit x.locked <<< 3) ||| (bit x.saved.isSome <<< 2) ||| (bit x.heldByHost <<< 1) ||| bit (x.mask ≠ 0)
  | 0x0010 => x.pcstrn.setWidth 64
  | 0x0018 => x.pcwin
  | 0x0330 => if x.mask = 0 then 0 else (s.cluster (s.lead p)).rpcfg
  | _ =>
    if 0x40 ≤ off && off < 0x80 then BitVec.ofNat 64 (x.boot.toNat / 2 ^ (8 * (off - 0x40)))
    else if 0x8000 ≤ off && partKept (BitVec.ofNat 12 ((off - 0x8000) / 8)) then x.csr ((off - 0x8000) / 8)
    else 0

/-- A word of BAR0 of the management function. Log 59 (DESIGN CHOICE). -/
def State.bar0Word (s : State) (off : Nat) : Word :=
  match off with
  | 0x00 => (s.io.fail.setWidth 64 <<< 16) ||| s.io.stage.setWidth 64
  | 0x08 => BitVec.ofNat 64 ((List.range 8).foldl (fun n p => if (s.part p).gang.isSome then n + 2 ^ (16 + p) else n) 0)
  | 0x10 => s.io.pwrcap.setWidth 64
  | 0x100 => s.io.mbcmd
  | 0x108 => s.io.mbstat
  | 0x300 => s.io.lostReports
  | 0x1008 => baseWord
  | _ =>
    if 0x18 ≤ off && off < 0x58 then (s.io.hwbase.toList.getD ((off - 0x18) / 8) 0).setWidth 64 <<< 36
    else if 0x200 ≤ off && off < 0x300 then
      match s.io.reports[(off - 0x200) / 32]? with | some r => if off % 8 = 0 then r.word (off % 32 / 8) else 0 | none => 0
    else if 0x110 ≤ off && off < 0x200 then BitVec.ofNat 64 (numLe ((s.io.mbdata.drop (off - 0x110)).take 8))
    else if 0x100000 ≤ off && off < 0x180000 then (if s.io.stage = 3 then s.pcbWord ((off - 0x100000) / 0x10000) (off % 0x10000) else 0)
    else match capabilities.findIdx? fun c => c.1 = off with
      | some i => if i ≤ 3 || s.io.stage = 3 then s.capHeader i else 0
      | none => 0

/-! ## Staged start (R416, R417) -/

/-- The image that runs after a reset: the committed one where it verifies, else the previous (R415, R418). Log 65 (DEDUCED). -/
def Io.nextImage (x : Io) : Option (List Byte) :=
  match x.commit with
  | none => x.image
  | some n =>
    let l := (List.range n.toNat).map fun i => x.staged.get 0 i
    if Config.verifies l then some l else x.image

/-- Homes on the compute dies hold zeros. Log 65 (DEDUCED). -/
def clearChip (m : List Host.Cell) : List Host.Cell := m.filter fun c => c.1 < meshBase

/-- RESET_RELEASE: every piece of state is as after reset; the staging store keeps its bytes, and after a thermal trip off-package memory
keeps its own, from which the host restores work (R422). Log 65 (DEDUCED). -/
def execResetRelease (s : State) : Out1 :=
  .next { State.reset with
    mem := if s.io.fail = 4 then clearChip s.mem else State.reset.mem,
    io := { Io.reset with staged := s.io.staged, image := s.io.nextImage }, agenda := s.agenda, fresh := s.fresh }

/-- Log 65 (DEDUCED). -/
def execStage2 (s : State) : Out1 :=
  enabled (if s.io.stage = 1 && s.io.fail = 0 then some ({ s with mem := clearChip s.mem }.modIo fun x => { x with stage := 2 }) else none)
def execStage3 (s : State) : Out1 :=
  enabled (if s.io.stage = 2 && s.io.fail = 0 then some (s.modIo fun x => { x with stage := 3 }) else none)
/-- STAGE_FAILURE: the image at stage 1, memory or die links on the way to stage 2 (R416, R417). -/
def execStageFailure (code : BitVec 16) (s : State) : Out1 :=
  enabled (if s.io.fail = 0 && s.io.stage = 1 && (code = 1 || code = 2 || code = 3) then some (s.modIo fun x => { x with fail := code }) else none)

/-- A partition after all on-die state is lost; what its control block on the IO die holds stays. Log 65 (DEDUCED). -/
def Part.unpowered (x : Part) : Part :=
  { Part.reset with pcstrn := x.pcstrn, boot := x.boot, err := x.err, tdi := x.tdi, tdiLink := x.tdiLink, pcwin := x.pcwin &&& ~~~1#64 }

/-- THERMAL_TRIP (R422): the compute dies lose power until the next reset. Log 65 (DEDUCED). -/
def execThermalTrip (s : State) : Out1 :=
  .next { s with
    mem := clearChip s.mem, strands := [], cores := [], cells := [], clusters := [], dies := [], looms := [], chans := [], cmds := [], issued := [],
    net := [], ports := [], ptePend := [], parts := s.parts.map fun (x : Nat × Part) => (x.1, x.2.unpowered), io := { s.io with fail := 4 } }

/-- THROTTLE changes timing only (R422). -/
def execThrottle (s : State) : Out1 := .next s

/-! ## Security (R418, R419) -/

/-- SPDM_REQUEST: the answer is signed with keys the spec does not give (log 6). -/
def execSpdmRequest (request : List Byte) (s : State) : Out1 :=
  .next (s.answer (.bytes ((List.range (Config.attestationLength request)).map (Config.attestation request))))

/-- TDI_CONFIG_LOCK: from CONFIG_UNLOCKED to CONFIG_LOCKED on a link, or from there to RUN. -/
def execTdiConfigLock (p : BitVec 3) (link run : Bool) (s : State) : Out1 :=
  let x := s.part p.toNat
  enabled (
    if run then (if x.tdi = .locked && x.tdiLink = link then some (s.modPart p.toNat fun x => { x with tdi := .run }) else none)
    else if x.tdi = .unlocked && x.mask ≠ 0 then some (s.modPart p.toNat fun x => { x with tdi := .locked, tdiLink := link }) else none)

/-- STOP_INTERFACE: the partition is stopped, its dies are cleared, and its interface is in CONFIG_UNLOCKED. -/
def State.stopTdi (s : State) (p : Nat) : Option State :=
  if (s.part p).tdi = .unlocked then none
  else
    let s := s.gangStop p 1
    let s := (maskDies (s.mask p)).foldl (fun s d => s.clearDie d 0 (s.part p).gang) s
    some (s.modPart p fun x =>
      { x with tdi := .unlocked, parkq := [], shadows := [], handles := [], launches := [], grants := [], sets := [], assays := [], slots := [],
               victims := [], swap := none, cands := [], saved := none })
def execStopInterface (p : BitVec 3) (s : State) : Out1 := enabled (s.stopTdi p.toNat)

end Sys2Proof.Machine
end

