-- ==== Sys2Proof/Machine/Loom.lean ====
section
/-! DEFINITION. The Loom's instructions (R296 to R318) and the search's (R355 to R359): their checks at issue. -/

namespace Sys2Proof.Machine

/-! ## Checks (R307, R308) -/

/-- The first address a record forms that lies outside its region, as the offset R286 gives (R85). Log 44 (DEDUCED). -/
def regionBad (r : BRec) (u : Nat) (offs : List Int) : Option Word :=
  offs.findSome? fun o => match bound r o u with
    | .hit x => if inSpace r (Rec.base r + BitVec.ofNat 64 x) then none else some (BitVec.ofNat 64 x)
    | _ => none

/-- The offsets of an accumulator's walk. -/
def accOffsets (r : BRec) : List Int := (List.range (walkCount r)).map fun w => accOffset r (w % Rec.dim0 r) (w / Rec.dim0 r)

/-- The check of a record under R85, for a Loom command; `spread` marks a record that may be spread over the octet. Log 44 (DEDUCED). -/
def recCheck (r : BRec) (u : Nat) (offs : List Int) (spread : Bool := true) : Option Trap :=
  if recRefused r spread then some ⟨0x08, Rec.base r⟩ else (regionBad r u offs).map fun o => ⟨0x07, o⟩

/-- The check of a record of a search, by its walk, spread over the octet or not (R85, R302). -/
def walkCheck (r : BRec) : Option Trap := recCheck r (unitBytes (Rec.fmt r)) (if Rec.space r = 3 then accOffsets r else walkOffsets r)

/-- The first condition of a list that holds (R308). -/
def firstCond (l : List (Nat × Bool)) : Option Trap := (l.find? (·.2)).map fun c => ⟨0x13, BitVec.ofNat 64 c.1⟩

/-- Steps 1 to 3 of R307: the first check that fails. Log 44 (DEDUCED). -/
def State.loomCheck (s : State) (cw : Word) (recs : List (Option Trap)) (conds : List (Nat × Bool)) : Option Trap :=
  match s.checkCw (coreOf s.cur) (s.partOf s.cur) cw with
  | some e => some e
  | none => match recs.findSome? (fun x => x) with
    | some e => some e
    | none => firstCond conds

/-- Condition 5 of R308 for an accumulator: its format, and the fields of R302. -/
def accBad (r : BRec) (fmts : List Nat) : Bool :=
  let n0 := if Rec.space r = 3 then min (Rec.dim0 r) 64 else Rec.dim0 r
  let a : Int := (n0 - 1 : Nat) * Rec.stride0 r
  let b : Int := (Rec.dim1 r - 1 : Nat) * Rec.stride1 r
  let lo : Int := (Rec.base r).toNat + min 0 a + min 0 b
  let hi : Int := (Rec.base r).toNat + max 0 a + max 0 b + 4
  !fmts.contains (Rec.fmt r) || (Rec.space r ≠ 1 && Rec.space r ≠ 3)
  || (Rec.base r).toNat % 4 ≠ 0 || Rec.stride0 r % 4 ≠ 0 || Rec.stride1 r % 4 ≠ 0 || (Rec.space r = 3 && Rec.dim0 r > 512)
  || (walkCount r ≠ 0 && (lo < 0x30000 || hi > 0x40000))

/-- K positions that a row of A holds (R301). -/
def kPositions (a : BRec) : Nat := Rec.dim0 a * loomPer (Rec.fmt a)

def State.myLoom (s : State) : Loom := s.loom (octetOf (coreOf s.cur))

/-- The pair code in a weave slot. -/
def State.pair (s : State) (w : BitVec 3) : BitVec 3 := s.me.weave.get w.toFin

/-! ## LMM, LMMS and LMMG (R314 to R316) -/

/-- LMM, or LMMS over bitmap-packed rows. -/
def State.lmm (s : State) (rc ra : BitVec 4) (n f c : BitVec 5) (w : BitVec 3) (u : BitVec 1) (cs : BitVec 2) (bitmap : Bool) : Out1 :=
  let C := s.rb rc
  let A := s.rb ra
  let d := s.myLoom.viewAct
  let K := d.kblk.toNat
  let pair := s.pair w
  let un := u = 1
  let cw := s.rs c
  let cnt := (s.rs n).toNat
  let first := (s.rs f).toNat
  match s.loomCheck cw [recCheck C 4 (accOffsets C), recCheck A (if bitmap then 144 else unitBytes (Rec.fmt A)) (walkOffsets A)]
    [(1, K = 0),
     (2, !loomCombo pair (Rec.fmt A) d.bfmt.toNat un),
     (3, Rec.fmt C = 31 || Rec.fmt A = 31),
     (4, cnt > 64 || (cnt ≠ 0 && first + cnt > min (Rec.dim1 A) (Rec.dim1 C))),
     (5, accBad C [loomAccFmt pair]),
     (6, Rec.space A = 3 || (if bitmap then Rec.dim0 A < (K + 7) / 8 else kPositions A < 16 * K)),
     (7, 128 * cs.toNat ≥ Rec.dim0 C),
     (8, bitmap && d.pad.toNat ≠ loomPad pair un d.bfmt.toNat),
     (9, bitmap && !d.sbm),
     (10, bitmap && ((Rec.fmt A ≠ 0 && Rec.fmt A ≠ 11) || (Rec.base A).toNat % 16 ≠ 0 || Rec.stride0 A % 16 ≠ 0 || Rec.stride1 A % 16 ≠ 0
            || Rec.stride0 A < 144))] with
  | some e => s.raise e
  | none => s.submit (s.newCmd (.lmm C A pair un cs d first cnt bitmap) cw) id

def execLmm (rc ra : BitVec 4) (n f : BitVec 5) (_h : BitVec 2) (c : BitVec 5) (w : BitVec 3) (u : BitVec 1) (cs : BitVec 2) (s : State) : Out1 :=
  s.lmm rc ra n f c w u cs false
def execLmms (rc ra : BitVec 4) (n f : BitVec 5) (_h : BitVec 2) (c : BitVec 5) (w : BitVec 3) (u : BitVec 1) (cs : BitVec 2) (s : State) : Out1 :=
  s.lmm rc ra n f c w u cs true

/-- The lowest failing index of an offset vector (R315); `m` is the lesser `dim1` of A and the accumulator. -/
def offsetsBad (o : List Int) (m : Nat) : Option Nat :=
  let G := o.length - 1
  (List.range (G + 1)).find? fun g =>
    (g = 0 && o.getD 0 0 < 0) || (g < G && o.getD g 0 > o.getD (g + 1) 0) || o.getD g 0 - o.getD 0 0 > 64 || (g = G && o.getD G 0 > m)

/-- Loads of units through a record whose values the instruction goes on with: the values, zero for a dropped unit (R286, R315). -/
def State.loadValues (s : State) (r : BRec) (u cls : Nat) (offs : List Int) : Checked (State × List Nat) :=
  let c := s.ctx s.cur
  match s.checkUnits c r u cls .load offs with
  | .trap t => .trap t
  | .wait => .wait
  | .ok l =>
    match s.loadNow (placeUnits (s.thruOf c.p r false) 0 l) with
    | none => .wait
    | some (s, vs) =>
      let go := l.foldl (fun (a : List Nat × List Nat) x => match x with
        | some (ps, _) =>
          (a.1 ++ [((ps.zip a.2).foldr (fun (q : Part1 × Nat) n => q.2 + 2 ^ (8 * q.1.size) * n) 0)], a.2.drop ps.length)
        | none => (a.1 ++ [fillBytes (zeroCode (Rec.fmt r)) u], a.2)) ([], vs)
      .ok (s, go.1)

def execLmmg (rc ra ro : BitVec 4) (c : BitVec 5) (_h : BitVec 2) (w : BitVec 3) (u : BitVec 1) (cs : BitVec 2) (s : State) : Out1 :=
  let C := s.rb rc
  let A := s.rb ra
  let O := s.rb ro
  let d := s.myLoom.viewAct
  let pair := s.pair w
  let un := u = 1
  let cw := s.rs c
  match s.loomCheck cw [recCheck C 4 (accOffsets C), recCheck A (unitBytes (Rec.fmt A)) (walkOffsets A),
                        recCheck O 4 ((List.range (Rec.dim0 O)).map fun i => recOffset O i 0) false]
    [(1, d.kblk = 0),
     (2, !loomCombo pair (Rec.fmt A) d.bfmt.toNat un),
     (3, Rec.fmt C = 31 || Rec.fmt A = 31 || Rec.fmt O = 31),
     (5, accBad C [loomAccFmt pair]),
     (6, Rec.space A = 3 || kPositions A < 128),
     (7, 128 * cs.toNat ≥ Rec.dim0 C),
     (8, d.pad.toNat ≠ loomPad pair un d.bfmt.toNat),
     (13, Rec.fmt O ≠ 2 || Rec.dim0 O < 2 || Rec.dim0 O > 5)] with
  | some e => s.raise e
  | none =>
    match s.loadValues O 4 2 ((List.range (Rec.dim0 O)).map fun i => recOffset O i 0) with
    | .trap t => s.raiseAccess .load t
    | .wait => s.stall
    | .ok (s', vs) =>
      let os := vs.map (sxN 32)
      match offsetsBad os (min (Rec.dim1 A) (Rec.dim1 C)) with
      | some g => s'.trap 0x0E (BitVec.ofNat 64 g)
      | none => s'.submit (s'.newCmd (.lmmg C A pair un cs d (os.map Int.toNat)) cw) id s

/-! ## LBLD, LBSWP, LAINI and LADR (R311 to R313, R317) -/

def execLbld (rb : BitVec 4) (p c : BitVec 5) (_h : BitVec 2) (s : State) : Out1 :=
  let B := s.rb rb
  let pad := s.rs p
  let cw := s.rs c
  match s.loomCheck cw [recCheck B (unitBytes (Rec.fmt B)) (walkOffsets B)]
    [(3, Rec.fmt B = 31),
     (11, !loomBFmt (Rec.fmt B) || Rec.dim0 B = 0 || Rec.dim0 B > 128 || Rec.dim1 B = 0 || Rec.dim1 B > 32 || pad.extractLsb' 8 56 ≠ 0
            || Rec.space B = 3)] with
  | some e => s.raise e
  | none => s.submit (s.newCmd (.lbld B (pad.setWidth 8)) cw) id

def execLbswp (_h : BitVec 2) (s : State) : Out1 := s.submit (s.newCmd .lbswp 0) id

def execLaini (rc : BitVec 4) (c : BitVec 5) (_h : BitVec 2) (w : BitVec 3) (s : State) : Out1 :=
  let C := s.rb rc
  let pair := s.pair w
  let cw := s.rs c
  match s.loomCheck cw [recCheck C 4 (accOffsets C)] [(3, Rec.fmt C = 31), (5, accBad C [loomAccFmt pair])] with
  | some e => s.raise e
  | none => s.submit (s.newCmd (.laini C pair) cw) id

def execLadr (rd rc : BitVec 4) (c : BitVec 5) (_h : BitVec 2) (rm : BitVec 3) (s : State) : Out1 :=
  let D := s.rb rd
  let C := s.rb rc
  let cw := s.rs c
  let f := Rec.fmt D
  let w := if loomPer f = 2 then (Rec.dim0 C + 1) / 2 else Rec.dim0 C
  match s.loomCheck cw [recCheck D (unitBytes f) (walkOffsets D), recCheck C 4 (accOffsets C)]
    [(3, f = 31 || Rec.fmt C = 31),
     (5, accBad C [8, 2]),
     (12, Rec.space D = 3 || f = 23 || (sizeClass f ≠ 5 && (Rec.dim1 D ≠ Rec.dim1 C || Rec.dim0 D ≠ w)))] with
  | some e => s.raise e
  | none => s.submit (s.newCmd (.ladr D C (if rm = 0 then BitVec.ofNat 3 s.me.rm else rm)) cw) id

/-! ## The strand-side instructions (R309, R310) -/

def execLsemi (a : BitVec 5) (_h : BitVec 2) (w : BitVec 3) (s : State) : Out1 :=
  let v := s.rs a
  if v.extractLsb' 3 61 ≠ 0 then s.trap 0x05 v
  else .next (s.setMe ({ s.me with weave := s.me.weave.set w.toNat (v.extractLsb' 0 3) w.isLt }.advance 8))

/-- The status word of a core's Loom (R310). -/
def State.loomStatus (s : State) (core : Nat) : Word :=
  let l := s.loom (octetOf core)
  let mine := s.cmds.filter fun c => c.core = core && c.op.isLoom
  let d := l.viewAct
  BitVec.ofNat 64 (d.bfmt.toNat * 2 ^ 35 + d.pad.toNat * 2 ^ 27 + d.ncol.toNat * 2 ^ 19 + d.kblk.toNat * 2 ^ 13
    + (if l.viewStg.sbm then 2 ^ 12 else 0) + mine.length * 2 ^ 5 + (match mine with | c :: _ => c.flags.toNat | [] => 0))

def execLstat (d : BitVec 5) (_h : BitVec 2) (s : State) : Out1 := .next ((s.event 3).put8 d (s.loomStatus (coreOf s.cur)))

/-! ## Search (R357 to R359) -/

/-- The spawn block of a search, checked as R209 has it; the code word's bits [61:56] are zero (R217). TVAL of causes 0x03 and 0x02 is the
block's whole code word, a choice of the model's: R209 names the code of a record. Log 82 (DEDUCED). -/
def State.searchBlock (s : State) (core p : Nat) (code frame cw : Word) : Except Trap (Word × Word × Word) :=
  if code.extractLsb' 56 6 ≠ 0 then .error ⟨0x03, code⟩
  else if (code.extractLsb' 62 2).toNat > s.me.level.toNat then .error ⟨0x02, code⟩
  else match s.checkCw core p cw with
    | some e => .error e
    | none => if cwRemote cw && s.namesOrdered p core cw then .error ⟨0x0B, cw⟩ else .ok (code, frame, cw)

def execTopk (ro rs : BitVec 4) (p c : BitVec 5) (_h : BitVec 2) (sb : BitVec 5) (mn ky sp cl : BitVec 1) (s : State) : Out1 :=
  let O := s.rb ro
  let S := s.rb rs
  let P := s.rs p
  let cw := s.rs c
  let core := coreOf s.cur
  let k := (P.extractLsb' 0 7).toNat
  let col := cl = 1
  match s.loomCheck cw [walkCheck O, walkCheck S]
    [(3, Rec.fmt S = 31 || Rec.fmt O = 31),
     (14, !((s.cluster (clusterOf core)).sacfg.getLsbD 8)),
     (15, k = 0 || k > 64 || P.getLsbD 7 || P.extractLsb' 12 52 ≠ 0),
     (16, !([0, 1, 2, 4, 5, 6, 8, 9, 10].contains (Rec.fmt S)) || Rec.dim0 S = 0 || Rec.dim0 S > 512 || Rec.dim1 S = 0 || Rec.dim1 S > 64),
     (17, (Rec.fmt O ≠ 1 && Rec.fmt O ≠ 2) || Rec.dim0 O < k || Rec.dim1 O < (topkShape S col).1)] with
  | some e => s.raise e
  | none =>
    let back := s
    let go : State → Option (Word × Word × Word) → Out1 := fun s blk =>
      s.submit (s.newCmd (.topk O S k (P.extractLsb' 8 4).toNat col (ky = 1) (mn = 1) blk) cw) (fun s =>
        if blk.isSome then s.modStrand s.cur fun x => { x with task := { x.task with ordinal := x.task.ordinal + 512 } } else s) back
    if sp = 0 then go s none
    else match s.recParts .load (s.rs sb) with
      | .trap t => s.raiseAccess .load t
      | .wait => s.stall
      | .ok ps => match s.loadNow ps with
        | none => s.stall
        | some (s, vs) =>
          let word := fun i => BitVec.ofNat 64 (vs.getD i 0)
          match s.searchBlock core (s.partOf s.cur) (word 0) (word 1) (word 2) with
          | .error e => s.raise e
          | .ok b => go s (some b)

/-- Count and sum of a counter. -/
def State.counter (s : State) (cl g col : Nat) : Nat × Nat :=
  let a := s.counterAddr cl g col
  (Memory.readN s.mem a 4, Memory.readN s.mem (a + 8) 8)

def execRcsnap (rd : BitVec 4) (a : BitVec 5) (_h : BitVec 2) (s : State) : Out1 :=
  let v := s.rs a
  let R := s.rb rd
  let g := (v.extractLsb' 0 4).toNat
  let n := (v.extractLsb' 16 10).toNat
  let cl := clusterOf (coreOf s.cur)
  let c := s.ctx s.cur
  if v &&& ~~~0x3FF000F ≠ 0 || n = 0 || n > 512 then s.trap 0x05 v
  else if recRefused R false then s.trap 0x08 (Rec.base R)
  else match s.checkUnits c R 8 3 .store ((List.range (2 * n)).map fun (i : Nat) => (8 * (i : Int))) with
  | .trap t => s.raiseAccess .store t
  | .wait => s.stall
  | .ok l =>
    let mine : Cmd → Bool := fun k => k.by_ = s.cur && match k.op with | .topk _ _ _ _ _ _ _ _ => true | _ => false
    if s.cmds.any mine || s.issued.any mine then s.stall
    else
      let vals := (List.range n).flatMap fun i => let (x, y) := s.counter cl g i; [x, y]
      let ps := (placeUnits (s.thruOf c.p R true) 0 l)
      let data := (l.zip vals).flatMap fun (u, x) => match u with | some (ps, _) => ps.map fun _ => BitVec.ofNat 64 x | none => []
      if s.storeStalls ps then s.stall
      else s.storeEach (ps.zip data) 8 fun u => { u with mem := Memory.clear u.mem (s.counterAddr cl g 0) (16 * n) }

/-- RCRD counts as a load from the cluster controls (R359): its level is that of R15, and it waits as an SO load (R12, R119). Log 82
(DEDUCED). -/
def execRcrd (d a : BitVec 5) (_h : BitVec 2) (x : BitVec 1) (s : State) : Out1 :=
  let v := s.rs a
  let cl := clusterOf (coreOf s.cur)
  let g := (v.extractLsb' 0 4).toNat
  let col := (v.extractLsb' 16 9).toNat
  if v &&& ~~~0x1FF000F ≠ 0 then s.trap 0x05 v
  else if s.me.level = 0 then s.trap 0x02 (BitVec.ofNat 64 (s.counterAddr cl g col + if x = 1 then 8 else 0))
  else if !s.me.soReady then s.stall
  else
    let (n, sum) := s.counter cl g col
    .next ((s.event 15).put8 d (BitVec.ofNat 64 (if x = 1 then sum else n)))

end Sys2Proof.Machine
end

