-- ==== Sys2Proof/Machine/MemEvents.lean ====
section
/-! DEFINITION. The steps of the ordering machine (R117), the completion of fences (R122, R131, R132, R293) and the table walker
(R73 to R77). -/

namespace Sys2Proof.Machine

def execLoad (t n j : Nat) (s : State) : Out1 := enabled (s.loadStep t n j)
def execEnter (t n : Nat) (s : State) : Out1 := enabled (s.enterStep t n)
def execDrain (t n : Nat) (home : Bool) (s : State) : Out1 := enabled (s.drainStep t n home)
def execLoopBack (t n : Nat) (s : State) : Out1 := enabled (s.loopBackStep t n)
def execFill (core line : Nat) (s : State) : Out1 := enabled (s.fillStep core line)
def execWriteBack (core line : Nat) (s : State) : Out1 := enabled (s.writeBackStep core line)
def execDrop (core line : Nat) (s : State) : Out1 := enabled (s.dropStep core line)
def execAtomic (t n : Nat) (s : State) : Out1 := enabled (s.atomicStep t n)
def execFetch (t : Nat) (s : State) : Out1 := enabled (s.fetchStep t)

def execFenceComplete (t : Nat) (s : State) : Out1 := enabled (s.fenceStep t fun f => match f with | .fence _ => true | _ => false)
def execLbfencComplete (t : Nat) (s : State) : Out1 := enabled (s.fenceStep t fun f => f = .lbfenc)
def execIfencComplete (t : Nat) (s : State) : Out1 := enabled (s.fenceStep t fun f => f = .ifenc)
def execEfencComplete (t : Nat) (s : State) : Out1 := enabled (s.fenceStep t fun f => f = .efenc)

/-! ## The walker (R73 to R77) -/

/-- WALK: the leaf of an address enters the TLB of a core and that of its cluster, the pointer entries on the way the walk cache of
its walk home. The oldest entry leaves a full level. Pointer entries by which a walk finds no leaf are discarded and the walk is made
again (R77); a walk that finds none then caches nothing. Log 53 (DEDUCED). -/
def State.walkStep (s : State) (core : Nat) (va : Word) : Option State :=
  let p := s.partOfCore core
  let x := s.part p
  if p = 8 || (s.core core).gate.toNat ≥ 2 || vaRegion va ≠ .translated || x.ptreg.extractLsb' 48 16 = 0 then none
  else
    let d := s.walkHome p va.toNat
    let via : List WalkEntry → Option (TlbEntry × List WalkEntry) := fun held => s.walkVia p va.toNat held 4 1 x.ptroot.toNat []
    let (s, found) := match via (s.die d).walk with
      | some r => (s, some r)
      | none => (s.modDie d fun y => y.unwalk p va.toNat, via [])
    match found with
    | none => none
    | some (e, seen) =>
      let s := s.modDie d fun y => { y with walk := (seen ++ y.walk).take 1024 }
      let s := s.modCluster (clusterOf core) fun y => { y with tlb := if y.tlb.contains e then y.tlb else (e :: y.tlb).take 2048 }
      some (s.tlbAdd core e)

def execWalk (core : Nat) (va : Word) (s : State) : Out1 := enabled (s.walkStep core va)

end Sys2Proof.Machine
end

