-- ==== Sys2Proof/Machine/Network.lean ====
section
/-! DEFINITION. What the network delivers: decrements, records, queue entries and handovers (R28 to R31, R165, R211, R218, R226), and
strands that move (R30, R33, R388). -/

namespace Sys2Proof.Machine

/-- The partition's tables say the cached entry of a rank may go at any time (R28). -/
def execNiEntryDrop (core rank : Nat) (s : State) : Out1 :=
  enabled (if (s.core core).ni.any (fun e => e.1 = rank)
    then some (s.modCore core fun c => { c with ni := c.ni.filter fun e => e.1 ≠ rank }) else none)

/-! ## Which item may be delivered (R29, R165) -/

/-- Whether a handover may travel, as an `strl.dev` of its giver issued with it could: the giver's earlier accesses are performed, its
earlier fences complete (R119, R122), and its earlier commands that hold the key are done. Log 24 (DEDUCED). -/
def State.mayTravel (s : State) (m : Msg) : Bool :=
  match m.body with
  | .handover k _ _ _ =>
    !s.backHeld (coreOf m.sender) && (s.strand m.sender).pend.all (fun q => !q.holdsRelease || q.id > m.id)
    && (s.strand m.sender).fences.all (fun f => f.2 = .lbfenc || f.1 > m.id)
    && (s.strand m.sender).out.all (fun o => o.at_.kind = .uo || o.id > m.id) && s.cmds.all fun c => c.by_ ≠ m.sender || c.id > m.id || !c.seals.contains k
  | _ => true

/-- The strand an item comes from, directly or through a command of its; else the sender it has. -/
def Msg.origin (m : Msg) : Nat := m.for_.getD m.sender

/-- Two items stand in one order: those of a strand, its commands' among them, to a rank (R29, R340); decrements, or records, of a sender
to a core (R209, R211, R218); and payloads of a sender for one cell of a core, by rank or not (R219, R326). Log 74 (DEDUCED). -/
def State.behind (s : State) (m e : Msg) : Bool :=
  (m.rank.isSome && e.rank = m.rank && e.origin = m.origin)
  || (m.rank.isNone && e.rank.isNone && e.sender = m.sender && m.sender ≠ engineSender 0 && coreOf e.dest = coreOf m.dest
      && e.body.isRecord = m.body.isRecord)
  || (match m.body with
      | .decrement j _ (_ :: _) _ _ => e.sender = m.sender && e.body.pays j && s.headsTo e (coreOf m.dest)
      | _ => false)

/-- Commands of the sender's network interface that go to the rank and were issued before (R340). Log 74 (DEDUCED). -/
def State.commandsBefore (s : State) (m : Msg) : Bool :=
  match m.rank with
  | none => false
  | some rk => s.cmds.any fun c => c.by_ = m.sender && c.id < m.id && match c.op with
      | .rread _ r _ => r = rk
      | .rwrite _ _ r => r = rk
      | .halo _ _ nb => nb.any fun d => d.2 = rk
      | _ => false

/-- Whether an item has reached a frame from which its rank moves or has moved: the rank's entry no longer stands there (R30). -/
def State.movedOn (s : State) (m : Msg) : Bool :=
  match m.rank with
  | none => false
  | some rk =>
    let p := s.partOf m.dest
    let e := s.rankEntry p rk
    !m.stays && (s.strand m.dest).fwd.isSome && !(rk.toNat < (s.part p).rtlim.toNat && entryState e = 1 && entryPlace e = m.dest)

/-- Whether item e of the network, at place i, was sent before item m, at place n: in issue order, a row's or strip's decrement with its
command (R340). Log 74 (DEDUCED). -/
def sentBefore (n : Nat) (m : Msg) (i : Nat) (e : Msg) : Bool := e.ord < m.ord || (e.ord = m.ord && i < n)

/-- Whether item n may be taken at its destination now. Log 74 (DEDUCED). -/
def State.deliverable (s : State) (n : Nat) (m : Msg) : Bool :=
  !s.movedOn m && s.mayTravel m && !s.commandsBefore m && (s.core (coreOf m.dest)).gate.toNat ≤ 1
  && !(s.net.zipIdx.any fun (e, i) => i ≠ n && sentBefore n m i e && s.behind m e && s.mayTravel e)

/-- Take item n out of the network. -/
def State.unpost (s : State) (n : Nat) : State := { s with net := s.net.eraseIdx n }

/-- An item counts as received when it is taken at the core (R393). Log 47 (DEDUCED). -/
def State.countRcvd (s : State) (m : Msg) : State :=
  if m.counted && !m.held then s.modStrand m.dest fun x => { x with rcvd := x.rcvd + 1 } else s

/-- A delivery of item n, of a kind: held at a halted core (R389, R396) unless the kind enters the frame there too (R165), else what the
kind does; none while it cannot be taken. Log 50 (DEDUCED). -/
def State.takeItem (s : State) (n : Nat) (kind : Body → Bool) (f : Msg → State → Option State) (halted : Bool := false) : Option State :=
  match s.net[n]? with
  | none => none
  | some m =>
    if !kind m.body || !s.deliverable n m then none
    else if s.coreHalted (coreOf m.dest) && !halted then
      if m.held then none else some ({ s with net := s.net.set n { m with held := true } }.countRcvd m)
    else f m ((s.unpost n).countRcvd m)

/-- DECREMENT (R218, R220). -/
def State.decrementStep (s : State) (n : Nat) : Option State :=
  s.takeItem n (fun b => match b with | .decrement _ _ _ _ _ => true | _ => false) fun m s =>
    let core := coreOf m.dest
    match m.body with
    | .decrement j d ws seq failed =>
      if !s.payloadRoom core ws.length && (s.cell core j.toNat).count ≠ 0 then none
      else some (((s.decrement core j d.toNat ws seq m.sender failed).arrival core).reap (s.partOfCore core))
    | _ => none

/-- A strand whose records for its own core have all entered retires its spawning instruction (R211). -/
def State.spawnDone (s : State) (t : Nat) : State :=
  match (s.strand t).wait with
  | .spawn n => if t < 2 ^ 32 && !s.spawnHeld t then s.modStrand t fun x => { x.advance n with wait := .none } else s
  | _ => s

/-- TASK_RECORD_ARRIVAL (R211). -/
def State.recordStep (s : State) (n : Nat) : Option State :=
  s.takeItem n (fun b => match b with | .record _ => true | _ => false) fun m s =>
    let core := coreOf m.dest
    match m.body with
    | .record r =>
      if (s.core core).hasRoom r.prio then some (((s.enqueue core r).arrival core).spawnDone m.sender) else none
    | _ => none

/-- QUEUE_ENTRY_ARRIVAL (R226): room was kept for it, and a strand that reads the queue goes on. -/
def State.entryStep (s : State) (n : Nat) : Option State :=
  s.takeItem n (fun b => match b with | .entry _ _ => true | _ => false) fun m s =>
    match m.body with
    | .entry q v =>
      let s := s.modStrand m.dest fun x => { x with q := x.q.set q.toNat (x.q.get q.toFin ++ [v]) q.isLt }
      some ((s.unblock m.dest fun w => w = .qread q).arrival (coreOf m.dest))
    | _ => none

/-- The lowest SEALK slot of a strand that holds 0. -/
def Strand.freeSeal (x : Strand) : Option (Fin 8) := (List.finRange 8).find? fun i => (x.csr.sealk.get i).extractLsb' 0 32 = 0

/-- HANDOVER_INSTALL (R165): as a release of what the giver did, the key enters the lowest free slot, or the handover fails. Log 24
(DEDUCED). -/
def State.handoverStep (s : State) (n : Nat) : Option State :=
  s.takeItem n (fun b => match b with | .handover _ _ _ _ => true | _ => false) (fun m s =>
    match m.body with
    | .handover k cw cwCore pc =>
      let p := s.partOf m.sender
      let s := s.writeBackAll (coreOf m.sender)
      match (s.strand m.dest).freeSeal with
      | some i =>
        let s := s.modStrand m.dest fun x => { x with csr := { x.csr with sealk := x.csr.sealk.set i (k.setWidth 64) } }
        some ((s.completeCw m.sender cwCore p cw m.sender [] none false).arrival (coreOf m.dest))
      | none =>
        some (s.reportFailed
          { celled := false, parked := false, src := 5, inner := 0x06, cause := 0x14, pc := pc, addr := k.setWidth 64, part := p,
            rank := (s.strand m.sender).rank, cw := cw, info := 0 } m.sender cwCore m.sender)
    | _ => none) (halted := true)

def execDecrement (n : Nat) (s : State) : Out1 := enabled (s.decrementStep n)
def execTaskRecordArrival (n : Nat) (s : State) : Out1 := enabled (s.recordStep n)
def execQueueEntryArrival (n : Nat) (s : State) : Out1 := enabled (s.entryStep n)
def execHandoverInstall (n : Nat) (s : State) : Out1 := enabled (s.handoverStep n)

/-! ## Forwarding and moves (R30, R33, R388) -/

/-- MESSAGE_FORWARD: a vacated frame passes an item on to the rank's new place, one that was held at its halted core too (R388). -/
def State.forwardStep (s : State) (n : Nat) : Option State :=
  match s.net[n]? with
  | none => none
  | some m =>
    match (s.strand m.dest).fwd with
    | some u => if !s.movedOn m || (s.strand m.dest).st = .moving then none
                else some { s with net := s.net.set n { m with dest := u } }
    | none => none

def execMessageForward (n : Nat) (s : State) : Out1 := enabled (s.forwardStep n)

/-- FORWARDING_ENTRY_DROP: the frame may be used again, and holds a strand if its bit was set meanwhile (R30, R204). -/
def execForwardingEntryDrop (t : Nat) (s : State) : Out1 :=
  let x := s.strand t
  enabled (if x.fwd.isSome && x.st ≠ .moving && s.net.all (fun m => m.dest ≠ t || !s.movedOn m)
    then some ((s.setStrand t { x with fwd := none }).makeStrand t) else none)

/-- Waits with which the device moves a strand: those that hold nothing at its core, or name the core they hold. Log 18 (DEDUCED). -/
def Wait.movable : Wait → Bool
  | .none | .cell _ _ | .atomic | .shadow _ | .turn _ _ _ | .launch _ | .qread _ | .qwrite _ | .wfi | .forge => true
  | .publ _ | .disc _ | .accept | .spawn _ => false

/-- LIVE_MIGRATION (R33, R388): to a core of the same stage that has a free frame, everything the strand issued being done. Log 18
(DEDUCED). -/
def State.migrateStep (s : State) (t core : Nat) : Option State :=
  let x := s.strand t
  let p := s.partOf t
  if p = 8 || s.partOfCore core ≠ p || core = coreOf t || (s.core core).stage ≠ (s.core (coreOf t)).stage then none
  else if !(x.st = .idle || x.st = .ready || x.st = .blocked || x.st = .parked) || !x.wait.movable || !s.settled t || x.fwd.isSome
    || s.coreHalted (coreOf t) || s.backHeld (coreOf t) then none
  else (s.freeFrame core).map fun u =>
    (s.modStrand t fun x => if x.wait = .forge then { x with wait := .none } else x).beginMove t u

def execLiveMigration (t core : Nat) (s : State) : Out1 := enabled (s.migrateStep t core)

/-- Where a strand's number is kept outside its frame, it follows the strand. Log 18 (DEDUCED). -/
def State.renumber (s : State) (t u : Nat) : State :=
  let f : Nat → Nat := fun n => if n = t then u else n
  let s := s.modPart (s.partOf t) fun x =>
    { x with
      shadows := x.shadows.map fun h => { h with closer := h.closer.map f },
      launches := x.launches.map fun l => { l with by_ := l.by_.map f },
      sets := x.sets.map fun (b : Nat × BoltSet) => (b.1, { b.2 with by_ := f b.2.by_ }),
      assays := x.assays.map fun a => { a with by_ := f a.by_ },
      parkq := x.parkq.map fun e => match e.req with
        | .atomic n a r k l => { e with req := .atomic (f n) a r k l }
        | _ => e }
  { s with
    net := s.net.map fun m => { m with sender := f m.sender, for_ := m.for_.map f },
    cells := s.cells.map fun c => (c.1, { c.2 with arrivals := c.2.arrivals.map fun p => { p with sender := f p.sender } }) }

/-- MIGRATION_COMPLETE (R30, R42, R388): the context stands in the new frame, the entry is valid, and the old frame forwards. The payload
words of a handler that moves go with it. Log 18 (DEDUCED). -/
def State.migratedStep (s : State) (t : Nat) : Option State :=
  let x := s.strand t
  match x.fwd with
  | none => none
  | some u =>
    if x.st ≠ .moving then none
    else
      let p := s.partOf t
      let e := s.rankEntry p x.rank
      let words := x.task.words.map fun w => (⟨s.pword (coreOf t) w, none⟩ : PWord)
      let s := if x.rank.toNat < (s.part p).rtlim.toNat && entryState e = 2 && entryPlace e = t then s.setRank p x.rank (placeEntry 1 u) else s
      let s := s.renumber t u
      let s := s.setStrand u { x with st := x.rest, rest := .free, fwd := none, resident := false, task := { x.task with words := words } }
      let s := s.setStrand t { Strand.reset with fwd := some u }
      let s := s.modCore (coreOf t) fun c => { c with strands := c.strands &&& ~~~(1#16 <<< frameOf t), waitq := c.waitq.filter (·.1 ≠ frameOf t) }
      let s := s.modCore (coreOf u) fun c =>
        { c with strands := c.strands ||| (1#16 <<< frameOf u), stored := c.stored &&& ~~~(1#16 <<< frameOf u),
                 freed := c.freed &&& ~~~(1#16 <<< frameOf u) }
      let s := (s.reached (coreOf u)).dropClean (coreOf u) fun _ => true
      some (if s.coreHalted (coreOf u) then s.haltStrand u ((s.part p).gang.getD 2) x.pc else s.joinWait u)

def execMigrationComplete (t : Nat) (s : State) : Out1 := enabled (s.migratedStep t)

end Sys2Proof.Machine
end

