-- ==== Sys2Proof/Machine/Scheduler.lean ====
section
/-! DEFINITION. The scheduler's own steps: assignment, ageing and stealing (R212 to R214), residence (R205), WFI, interrupts and gating
(R228, R256, R376). -/

namespace Sys2Proof.Machine

/-! ## Assignment (R212, R214) -/

/-- A core that may take scheduling steps: in a partition, on and not halted. -/
def State.runs (s : State) (core : Nat) : Bool := !s.coreHalted core && (s.core core).gate = 0

/-- The strand set up for a task (R214). -/
def Strand.startTask (x : Strand) (r : TRec) (fstk : Word) : Strand :=
  let regs : Vector Word 32 := Vector.replicate 32 0
  { x with
    s := ((((((regs.set 2 r.frame).set 3 fstk).set 4 r.a0).set 5 r.a1).set 6 r.a2).set 7 r.a3), k := Vector.replicate 8 0,
    dead := BitVec.allOnes 32, weave := Vector.replicate 8 0, b := (Vector.replicate 16 (0 : BRec)).set 0 r.b0, q := (x.q.set 6 []).set 7 [],
    pc := r.code, st := .ready, level := r.level, fbuf := [], wait := .none, again := false, slow := false, vecFetch := false,
    tags := [], held := [], csr := { x.csr with fctl := StrandCsrs.reset.fctl, wmwin := x.csr.wmwin.map fun w => w &&& 0x7FFFFFFFFFFFFFFF },
    tag := r.tag, tagRet := none,
    task := { path := r.path, seq := r.seq, cw := r.cw, cwCore := r.cwCore, handler := r.handler, prio := r.prio, ordinal := 0,
              words := r.words, mixed := r.mixed, launches := r.launches, role := r.role } }

/-- The idle strand that takes the next task: resident ones first, the lowest frame of those (R212). -/
def State.idleStrand (s : State) (core : Nat) : Option Nat :=
  let ts := ((List.range 16).map (· + core * 16)).filter fun t => (s.strand t).st = .idle
  match ts.find? fun t => (s.strand t).resident with
  | some t => some t
  | none => ts.head?

/-- The highest priority whose queue holds a record. -/
def Core.topQueue (c : Core) : Option (Fin 4) := [(3 : Fin 4), 2, 1, 0].find? fun p => !(c.queues.get p).isEmpty

/-- A task with a residency tag counts in its handle's `res`, a tile task is paired with the other of its tile (R351, R370). -/
def State.started (s : State) (t : Nat) (r : TRec) : State :=
  let s := match r.tag with
    | some h => s.modPart (s.partOf t) fun x => x.setHandle h { x.handle h with res := (x.handle h).res + 1 }
    | none => s
  match r.role with
  | .tile l i w => if w ≤ 1 then s.pairTile t l i w else s
  | _ => s

/-- TASK_ASSIGN. -/
def State.assignStep (s : State) (core : Nat) : Option State :=
  let c := s.core core
  if !s.runs core then none
  else match c.topQueue, s.idleStrand core with
  | some p, some t =>
    match c.queues.get p with
    | [] => none
    | r :: rest =>
      let r := s.recordBack core r
      let s := s.setCore core { c with queues := c.queues.set p.val rest p.isLt }
      let s := ((s.dropClean core fun _ => true).modStrand t fun x => x.startTask r (c.cfstk.get (Fin.ofNat 16 t))).refill t
      some ((s.started t r).joinWait t)
  | _, _ => none

def execTaskAssign (core : Nat) (s : State) : Out1 := enabled (s.assignStep core)

/-- RECORD_AGING: the record that has waited longest at a priority moves to the tail of the next. The wait of 4,096 cycles is not counted
(log 7). A record for which the next queue and the spill have no room waits on where it stands, a choice of the model's: R212 does not say
what it does. Log 52 (DEDUCED). -/
def State.ageStep (s : State) (core prio : Nat) : Option State :=
  let c := s.core core
  if h : prio < 3 then
    match c.queues.get ⟨prio, by omega⟩ with
    | [] => none
    | r :: rest =>
      if !s.runs core || !(r.slot.isSome || c.hasRoom (BitVec.ofNat 2 (prio + 1))) then none
      else some ((s.setCore core { c with queues := c.queues.set prio rest (by omega) }).enqueueAt core (BitVec.ofNat 2 (prio + 1)) r)
  else none

/-- Log 7 (DESIGN CHOICE). -/
def execRecordAging (core prio : Nat) (s : State) : Out1 := enabled (s.ageStep core prio)

/-- The first queued record of a core that is no handler, with its queue and place (R213). -/
def Core.stealable (c : Core) : Option (Fin 4 × Nat × TRec) :=
  [(3 : Fin 4), 2, 1, 0].findSome? fun p =>
    match (c.queues.get p).zipIdx.find? fun r => r.1.handler.isNone with
    | some (r, i) => some (p, i, r)
    | none => none

/-- STEAL (R213). -/
def State.stealStep (s : State) (core : Nat) : Option State :=
  let p := s.partOfCore core
  let c := s.core core
  if !s.runs core || (s.part p).dmode || c.topQueue.isSome || (s.idleStrand core).isNone then none
  else
    let others := (List.range 47).map fun i => clusterOf core * 48 + (coreInCluster core + i + 1) % 48
    match others.findSome? fun v => (s.core v).stealable.map fun x => (v, x) with
    | none => none
    | some (v, q, i, r) =>
      let r := s.recordBack v r
      let s := s.modCore v fun y => { y with queues := y.queues.set q.val ((y.queues.get q).eraseIdx i) q.isLt }
      some ((s.enqueueAt core (BitVec.ofFin q) r).dcause p 7 r.code)

def execSteal (core : Nat) (s : State) : Out1 := enabled (s.stealStep core)

/-! ## Residence (R205) -/

/-- Frames of a core that wait, in the order in which they began. -/
def State.waiting (s : State) (core : Nat) : List Nat :=
  let w := fun f => (s.strand (core * 16 + f)).waits
  let q := (s.core core).waitq.map (·.1)
  q.filter w ++ (List.range 16).filter fun f => w f && !q.contains f

def State.residents (s : State) (core : Nat) : Nat := (List.range 16).countP fun f => (s.strand (core * 16 + f)).resident

/-- RESIDENCE_ENTER: the strand that has waited longest, while fewer than four are resident. -/
def State.enterResidence (s : State) (core : Nat) : Option State :=
  match s.waiting core with
  | [] => none
  | f :: _ =>
    if s.residents core ≥ 4 then none
    else some ((s.modCore core fun c => { c with waitq := c.waitq.filter (·.1 ≠ f) }).modStrand (core * 16 + f) fun x => { x with resident := true })

/-- RESIDENCE_LEAVE. -/
def State.leaveResidence (s : State) (t : Nat) : Option State :=
  let x := s.strand t
  let may := match x.st with
    | .idle | .parked | .halted | .moving => true
    | .blocked => x.slow
    | _ => false
  if !x.resident || !may || (s.waiting (coreOf t)).isEmpty then none
  else some ((s.setStrand t { x with resident := false }).joinWait t)

def execResidenceEnter (core : Nat) (s : State) : Out1 := enabled (s.enterResidence core)
def execResidenceLeave (t : Nat) (s : State) : Out1 := enabled (s.leaveResidence t)

/-- BLOCKED_TIMEOUT: 256 cycles, which the model does not count (log 7). -/
def execBlockedTimeout (t : Nat) (s : State) : Out1 :=
  enabled (if (s.strand t).st = .blocked && !(s.strand t).slow then some (s.modStrand t fun x => { x with slow := true }) else none)

/-- WFI_TIMEOUT: 4,096 cycles, which the model does not count (log 7). Log 69 (DEDUCED). -/
def execWfiTimeout (t : Nat) (s : State) : Out1 :=
  enabled (if (s.strand t).wait = .wfi then some (s.modStrand t fun x => { x with wait := .none }) else none)

def execInterruptTake (t : Nat) (s : State) : Out1 := enabled (if s.interrupted t then some (s.takeInterrupt t) else none)

/-! ## Gating (R228) -/

/-- Nothing keeps a core that wants to be gated on: its strands rest, its queues and its spill area are empty, its commands are done, and no
store or item of its strands is outbound. Log 51 (DEDUCED). -/
def State.gateReady (s : State) (core : Nat) : Bool :=
  let c := s.core core
  let xs := (List.range 16).map fun f => s.strand (core * 16 + f)
  c.gateReq && c.gate = 0
  && xs.all (fun x => (match x.st with | .free | .idle | .parked => true | _ => false)
      && x.out.isEmpty && x.port.isEmpty && x.pend.all (·.parked))
  && c.queues.toList.all (·.isEmpty) && (s.payloadOf core).all (·.slot.isNone) && s.cmds.all (fun k => k.core ≠ core)
  && s.net.all fun m => m.for_.getD m.sender / 16 ≠ core

/-- What makes a gated core wake: an item at its cluster NI, a strand that is to issue, or an interrupt that is to be taken.
Log 51 (DEDUCED). -/
def State.wanted (s : State) (core : Nat) : Bool :=
  s.net.any (fun m => coreOf m.dest = core)
  || (List.range 16).any fun f =>
    let x := s.strand (core * 16 + f)
    x.waits || (x.resident && (x.st = .ready || x.st = .blocked || (x.st = .parked && x.again)))
    || (x.irq.isSome && tsIe x.csr.tstat && x.wait.interruptible && x.st = .parked)

/-- Log 7 (DESIGN CHOICE). -/
def execGateClosing (core : Nat) (s : State) : Out1 :=
  enabled (if s.gateReady core then some (s.modCore core fun c => { c with gate := 1 }) else none)
/-- The contexts stand in their frames, and the core copy at the homes. Log 51 (DEDUCED). -/
def execGateClosed (core : Nat) (s : State) : Out1 :=
  enabled (if (s.core core).gate = 1 && !s.backHeld core
    then some (((s.writeBackAll core).dropClean core fun _ => true).modCore core fun c => { c with gate := 2 }) else none)
/-- Log 51 (DEDUCED). -/
def execWake (core : Nat) (s : State) : Out1 :=
  enabled (if (s.core core).gate = 2 && s.wanted core then some (s.modCore core fun c => { c with gate := 3 }) else none)
def execPowerRestored (core : Nat) (s : State) : Out1 :=
  enabled (if (s.core core).gate = 3 then some (s.modCore core fun c => { c with gate := 0, gateReq := false }) else none)

end Sys2Proof.Machine
end

