-- ==== Sys2Proof/Machine/Tier.lean ====
section
/-! DEFINITION. Tiering (R54 to R61): access counters, the sweep, swaps, and the swap that fails. Nothing moves while the partition is saved
(log 54). -/

namespace Sys2Proof.Machine

/-! ## Entries in memory -/

def State.pteLo (s : State) (pte : Nat) : Word := BitVec.ofNat 64 (Memory.readN s.mem pte 8)
def State.pteHi (s : State) (pte : Nat) : Word := BitVec.ofNat 64 (Memory.readN s.mem (pte + 8) 8)
/-- A valid entry of a 64 KiB page. -/
def State.baseLeaf (s : State) (p pte : Nat) : Bool :=
  Pte.valid (s.pteLo pte) && Pte.leaf (s.pteLo pte) && !malformed (s.part p).ptreg 4 (s.pteLo pte) (s.pteHi pte)
def State.setTier (s : State) (pte tier : Nat) : State :=
  { s with mem := Memory.writeN s.mem pte 8 ((s.pteLo pte &&& ~~~0x30000000#64) ||| BitVec.ofNat 64 (tier * 2 ^ 28)).toNat }
def State.setCnt (s : State) (pte n : Nat) : State := { s with mem := Memory.writeN s.mem (pte + 10) 2 n }

/-- The 64 KiB leaves below a node, with the addresses they map, in ascending order. -/
def State.leavesFrom (s : State) (p : Nat) : Nat → Nat → Nat → Nat → List (Nat × Nat)
  | 0, _, _, _ => []
  | fuel + 1, level, node, va =>
    let is := ((s.mem.filter fun c => node ≤ c.1 && c.1 < node + (if level = 1 then 0x2000 else 0x4000)).map fun c => (c.1 - node) / 16).eraseDups
    is.flatMap fun i =>
      let pte := node + 16 * i
      let lo := s.pteLo pte
      let va := va + i * 2 ^ (56 - 10 * level)
      if !Pte.valid lo || malformed (s.part p).ptreg level lo (s.pteHi pte) then []
      else if Pte.leaf lo then (if level = 4 then [(va, pte)] else [])
      else s.leavesFrom p fuel (level + 1) (Pte.frame lo) va

/-- Every valid 64 KiB leaf of a partition: address and pa of the entry. -/
def State.leaves (s : State) (p : Nat) : List (Nat × Nat) :=
  let x := s.part p
  if x.ptreg.extractLsb' 48 16 = 0 then [] else s.leavesFrom p 4 1 x.ptroot.toNat 0

/-- Whether a page frame lies in a partition's seal-key region (R159). -/
def Part.keyFrame (x : Part) (f : Nat) : Bool :=
  let base := (x.skreg.extractLsb' 22 22).toNat * 2 ^ 22
  base ≤ f && f < base + (x.ptreg.extractLsb' 48 16).toNat * 2 ^ 22

/-- Whether a page may be moved (R58, R141, R159, R385). -/
def State.movable (s : State) (p va pte : Nat) : Bool :=
  let x := s.part p
  let f := Pte.frame (s.pteLo pte)
  s.baseLeaf p pte && !Pte.pin (s.pteLo pte)
  && !(x.shadows.any fun h => h.key.space = 0 && h.key.base.toNat < va + 2 ^ 16 && va < h.key.base.toNat + h.key.extent.toNat)
  && !(x.parkq.any fun q => q.req.va.toNat / 2 ^ 16 = va / 2 ^ 16)
  && !inRegion x.ptreg f 0x10000 && !inRegion x.sfreg f 0x10000 && !inRegion x.shreg f 0x10000 && !x.keyFrame f
  && !((s.clustersOf p).any fun c => match (if (s.cluster c).clspill.getLsbD 0 then some ((s.cluster c).clspill.extractLsb' 25 19).toNat else none) with
      | some b => b * 2 ^ 25 ≤ f && f < b * 2 ^ 25 + 2 ^ 25
      | none => false)

/-! ## Counters and candidates (R54, R57) -/

def Part.tierUp (x : Part) : Nat := (x.tierctl.extractLsb' 48 16).toNat
def Part.tierDown (x : Part) : Nat := (x.tierctl.extractLsb' 32 16).toNat

/-- A victim that still is one: a movable GDDR 7 page whose counter is not above `down` (R57). -/
def State.victimOk (s : State) (p : Nat) (leaves : List (Nat × Nat)) (pte : Nat) : Bool :=
  match leaves.find? fun l => l.2 = pte with
  | some (va, _) => s.movable p va pte && Pte.tier (s.pteLo pte) = 0 && Pte.cnt (s.pteHi pte) ≤ (s.part p).tierDown
  | none => false

/-- Begin a swap: both entries in transit, no TLB of the partition holds either, and no walk cache an entry on the way to them (R57, R43).
Log 54 (DEDUCED). -/
def State.beginSwap (s : State) (p a b : Nat) (rest : List Nat) : State :=
  let vas := ((s.leaves p).filter fun l => l.2 = a || l.2 = b).map (·.1)
  let s := (s.setTier a 2).setTier b 2
  let gone : TlbEntry → Bool := fun e => e.part = p && (e.pte = a || e.pte = b)
  let s := (s.touchedCores p).foldl (fun s c => s.tlbDrop c gone) s
  let s := { s with clusters := s.clusters.map fun (c : Nat × Cluster) => (c.1, { c.2 with tlb := c.2.tlb.filter fun e => !gone e }) }
  let s := (maskDies (s.mask p)).foldl (fun s d => s.modDie d fun x =>
    { x with walk := x.walk.filter fun e => !(e.part = p && vas.any fun va => e.index = va / 2 ^ (56 - 10 * e.level)) }) s
  s.modPart p fun x => { x with victims := rest, swap := some (a, b) }

/-- The engine serves a candidate: it is swapped with the first victim that still is one, or its promotion is deferred (R57). -/
def State.candidate (s : State) (p pte : Nat) : State :=
  let ls := s.leaves p
  match (s.part p).victims.dropWhile fun v => !s.victimOk p ls v with
  | v :: rest => s.beginSwap p pte v rest
  | [] => s.modPart p fun x => { x with victims := [], deferred := if x.deferred = 0xFFFF then x.deferred else x.deferred + 1 }

/-- Whether a counter written into an entry makes its page a candidate: a movable LPDDR 6 page at or above `up`, with tiering enabled
(R57). -/
def State.hot (s : State) (p pte n : Nat) : Bool :=
  let x := s.part p
  x.tierctl.getLsbD 0 && n ≥ x.tierUp && Pte.tier (s.pteLo pte) = 1
    && match (s.leaves p).find? fun l => l.2 = pte with | some (va, _) => s.movable p va pte | none => false

/-- The device writes a counter (R54, R56): a page that becomes a candidate is served at once, or after the swap in progress (R57).
Log 54 (DEDUCED). -/
def State.writeCnt (s : State) (p pte n : Nat) : State :=
  let u := s.setCnt pte n
  if !s.hot p pte n then u
  else if (s.part p).swap.isNone then u.candidate p pte
  else u.modPart p fun x => if x.cands.contains pte then x else { x with cands := x.cands ++ [pte] }

/-- The candidates that waited for a swap are served in turn, those that still are candidates, until one begins a swap (R57). Log 54
(DEDUCED). -/
def State.serveCands (s : State) (p : Nat) : List Nat → State
  | [] => s.modPart p fun x => { x with cands := [] }
  | a :: l =>
    if (s.part p).swap.isSome then s.modPart p fun x => { x with cands := a :: l }
    else (if s.hot p a (Pte.cnt (s.pteHi a)) then s.candidate p a else s).serveCands p l

/-- PTE_COUNT_UPDATE: every increment waiting for an entry is added at once; an entry that is no 64 KiB leaf any more takes none. Log 54
(DEDUCED). -/
def State.countStep (s : State) (p pte : Nat) : Option State :=
  let k := s.ptePend.countP (· = (p, pte))
  let s' := { s with ptePend := s.ptePend.filter (· ≠ (p, pte)) }
  if k = 0 || (s.part p).saved.isSome then none
  else if !s.baseLeaf p pte then some s'
  else some (s'.writeCnt p pte (min (Pte.cnt (s.pteHi pte) + k) 0xFFFF))

def execPteCountUpdate (p : BitVec 3) (pte : Nat) (s : State) : Out1 := enabled (s.countStep p.toNat pte)

/-! ## The sweep (R56) -/

/-- TIER_SWEEP. A halved counter is written by the device too, so a page whose counter stays at or above `up` becomes a candidate (R57). The
epoch is not counted (log 7). -/
def State.sweepStep (s : State) (p : Nat) : Option State :=
  let x := s.part p
  if x.mask = 0 || x.saved.isSome || x.tierctl.extractLsb' 8 24 = 0 then none
  else some ((s.leaves p).foldl (fun s l =>
    let n := Pte.cnt (s.pteHi l.2) / 2
    let s := s.writeCnt p l.2 n
    let y := s.part p
    if Pte.tier (s.pteLo l.2) = 0 && n ≤ y.tierDown && y.victims.length < 64 && !y.victims.contains l.2 && s.movable p l.1 l.2
    then s.modPart p fun y => { y with victims := y.victims ++ [l.2] } else s) s)

/-- Log 7 (DESIGN CHOICE). -/
def execTierSweep (p : BitVec 3) (s : State) : Out1 := enabled (s.sweepStep p.toNat)

/-! ## The end of a swap (R57, R61) -/

/-- Exchange n bytes at two places that do not meet. -/
def Memory.exchange (m : List Host.Cell) (a b n : Nat) : List Host.Cell :=
  let x := m.filter fun c => a ≤ c.1 && c.1 < a + n
  let y := m.filter fun c => b ≤ c.1 && c.1 < b + n
  let m := Memory.clear (Memory.clear m a n) b n
  let m := x.foldl (fun m c => Memory.write m (b + (c.1 - a)) c.2) m
  y.foldl (fun m c => Memory.write m (a + (c.1 - b)) c.2) m

/-- Whether an access of a partition translated to a frame has yet to reach its home. -/
def State.frameBusy (s : State) (p f : Nat) : Bool :=
  let on : Part1 → Bool := fun a => a.name = AName.translated && f ≤ a.key && a.key < f + 2 ^ 16
  (s.strandsOf p).any fun t => (s.strand t).out.any (fun o => on o.at_) || (s.strand t).pend.any fun q => !q.parked && q.parts.any on

def State.setFrame (s : State) (pte f : Nat) : State :=
  { s with mem := Memory.writeN s.mem pte 8 ((s.pteLo pte &&& ~~~0x3FFFFFFF00000000#64) ||| BitVec.ofNat 64 (f / 2 ^ 14 * 2 ^ 32)).toNat }

/-- TIER_SWAP_COMPLETE: the frames' bytes and the entries' frames exchange, and the tiers are 0 and 1; what commands have written there
moves with the bytes (R135). Log 54 (DEDUCED). -/
def State.swapStep (s : State) (p : Nat) : Option State :=
  match (s.part p).swap with
  | none => none
  | some (a, b) =>
    let f := Pte.frame (s.pteLo a)
    let g := Pte.frame (s.pteLo b)
    if s.frameBusy p f || s.frameBusy p g || (s.part p).saved.isSome then none
    else
      let there : Nat → Nat := fun x => if f ≤ x && x < f + 0x10000 then g + (x - f) else if g ≤ x && x < g + 0x10000 then f + (x - g) else x
      let s := { s with mem := Memory.exchange s.mem f g 0x10000,
                        lands := s.lands.map fun (l : Nat × Option ShKey × Nat × Nat) => if l.2.1.isNone then (l.1, none, there l.2.2.1, l.2.2.2) else l }
      let s := (((s.setFrame a g).setFrame b f).setTier a 0).setTier b 1
      some ((s.modPart p fun x => { x with swap := none, swaps := x.swaps + 1 }).serveCands p (s.part p).cands)

/-- TIER_SWAP_ABANDON (R61): the tiers are as before, and the partition's fault queue gets the frame's address, that of the victim or
of the candidate. Log 54 (DEDUCED). -/
def State.abandonStep (s : State) (p : Nat) (victim : Bool) : Option State :=
  match (if (s.part p).saved.isSome then none else (s.part p).swap) with
  | none => none
  | some (a, b) =>
    let f := Pte.frame (s.pteLo (if victim then b else a))
    let s := (((s.setTier a 1).setTier b 0).modPart p fun x => { x with swap := none }).serveCands p (s.part p).cands
    some (s.report { celled := false, parked := false, src := 8, inner := 0, cause := 0x23, pc := 0, addr := BitVec.ofNat 64 f, part := p,
                     rank := 0, cw := 0, info := 0 })

def execTierSwapComplete (p : BitVec 3) (s : State) : Out1 := enabled (s.swapStep p.toNat)
def execTierSwapAbandon (p : BitVec 3) (victim : Bool) (s : State) : Out1 := enabled (s.abandonStep p.toNat victim)

end Sys2Proof.Machine
end

