-- ==== Sys2Proof/Machine/Vector.lean ====
section
/-! DEFINITION. The vector instructions (R263 to R280). -/

namespace Sys2Proof.Machine

/-! ## Lanes under a mask (R263, R264) -/

/-- Lane width of an integer type code (R234). -/
def vBits (t : BitVec 3) : Nat := 8 * 2 ^ (t.extractLsb' 0 2).toNat
/-- Whether an integer type is signed. -/
def vSigned (t : BitVec 3) : Bool := !t.getLsbD 2
/-- The float format of a type code, and its format code (R234, R87). -/
def vFmt (t : BitVec 3) : FFmt := match t.toNat with | 0 => fF32 | 1 => fF16 | 2 => fBf16 | 3 => fE4m3 | _ => fE5m2
def vFmtCode (t : BitVec 3) : Nat := t.toNat + 8
/-- Lane width of a float type code. -/
def vfBits (t : BitVec 3) : Nat := fmtBits (vFmtCode t)
/-- A lane as an integer of a type. -/
def vInt (t : BitVec 3) (x : Nat) : Int := if vSigned t then sxN (vBits t) x else (x : Int)
/-- An integer saturated to the range of a type. -/
def vSat (t : BitVec 3) (i : Int) : Nat :=
  wrapN (vBits t) (max (intLo (vSigned t) (vBits t)) (min (intHi (vSigned t) (vBits t)) i))
/-- A lane as a 64-bit value of its type. -/
def vWide (t : BitVec 3) (x : Nat) : Word := BitVec.ofInt 64 (vInt t x)

/-- A destination with its active lanes replaced. -/
def merged (w : Nat) (k : Word) (old : VReg) (f : Nat → Nat) : VReg :=
  lanesOf w (512 / w) fun i => if k.getLsbD i then f i else lane old w i
/-- A k register with a bit for each active lane that passes. -/
def maskWhere (w : Nat) (k : Word) (f : Nat → Bool) : Word :=
  BitVec.ofNat 64 ((List.range (512 / w)).foldl (fun a i => if k.getLsbD i && f i then a + 2 ^ i else a) 0)
/-- The active lanes of a register, in ascending order. -/
def activeLanes (w : Nat) (k : Word) : List Nat := (List.range (512 / w)).filter fun i => k.getLsbD i

/-! ## VINT (R268) -/

/-- A result in the active lanes of vd. -/
def State.vint (s : State) (d a b : BitVec 5) (m t : BitVec 3) (f : Nat → Nat → Nat) : Out1 :=
  let w := vBits t
  let x := s.rv a
  let y := s.rv b
  .next (s.setMe ((s.me.wv d (merged w (s.rk m) (s.rv d) fun i => f (lane x w i) (lane y w i))).advance 4))

/-- A compare into a k register. -/
def State.vcmp (s : State) (d : BitVec 3) (a b : BitVec 5) (m t : BitVec 3) (f : Int → Int → Bool) : Out1 :=
  let w := vBits t
  let x := s.rv a
  let y := s.rv b
  .next (s.setMe ((s.me.wk d (maskWhere w (s.rk m) fun i => f (vInt t (lane x w i)) (vInt t (lane y w i)))).advance 4))

/-- The shift amount of a lane. -/
def laneShift (t : BitVec 3) (y : Nat) : Nat := y % vBits t

def execVadd (d a b : BitVec 5) (m t : BitVec 3) (s : State) : Out1 := s.vint d a b m t fun x y => x + y
def execVsub (d a b : BitVec 5) (m t : BitVec 3) (s : State) : Out1 := s.vint d a b m t fun x y => x + 2 ^ vBits t - y
def execVmul (d a b : BitVec 5) (m t : BitVec 3) (s : State) : Out1 := s.vint d a b m t fun x y => x * y
def execVmulh (d a b : BitVec 5) (m t : BitVec 3) (s : State) : Out1 :=
  s.vint d a b m t fun x y => wrapN (vBits t) (vInt t x * vInt t y / (2 ^ vBits t : Nat))
def execVmin (d a b : BitVec 5) (m t : BitVec 3) (s : State) : Out1 :=
  s.vint d a b m t fun x y => if vInt t x ≤ vInt t y then x else y
def execVmax (d a b : BitVec 5) (m t : BitVec 3) (s : State) : Out1 :=
  s.vint d a b m t fun x y => if vInt t x ≤ vInt t y then y else x
def execVand (d a b : BitVec 5) (m t : BitVec 3) (s : State) : Out1 := s.vint d a b m t fun x y => x &&& y
def execVor (d a b : BitVec 5) (m t : BitVec 3) (s : State) : Out1 := s.vint d a b m t fun x y => x ||| y
def execVxor (d a b : BitVec 5) (m t : BitVec 3) (s : State) : Out1 := s.vint d a b m t fun x y => x ^^^ y
def execVshl (d a b : BitVec 5) (m t : BitVec 3) (s : State) : Out1 := s.vint d a b m t fun x y => x * 2 ^ laneShift t y
def execVshr (d a b : BitVec 5) (m t : BitVec 3) (s : State) : Out1 := s.vint d a b m t fun x y => x / 2 ^ laneShift t y
def execVsha (d a b : BitVec 5) (m t : BitVec 3) (s : State) : Out1 :=
  s.vint d a b m t fun x y => wrapN (vBits t) (sxN (vBits t) x / (2 ^ laneShift t y : Nat))
def execVabs (d a : BitVec 5) (m t : BitVec 3) (s : State) : Out1 :=
  s.vint d a a m t fun x _ => (sxN (vBits t) x).natAbs
def execVneg (d a : BitVec 5) (m t : BitVec 3) (s : State) : Out1 := s.vint d a a m t fun x _ => 2 ^ vBits t - x
def execVadds (d a b : BitVec 5) (m t : BitVec 3) (s : State) : Out1 := s.vint d a b m t fun x y => vSat t (vInt t x + vInt t y)
def execVsubs (d a b : BitVec 5) (m t : BitVec 3) (s : State) : Out1 := s.vint d a b m t fun x y => vSat t (vInt t x - vInt t y)
def execVcmpeq (d : BitVec 3) (a b : BitVec 5) (m t : BitVec 3) (s : State) : Out1 := s.vcmp d a b m t fun x y => x = y
def execVcmplt (d : BitVec 3) (a b : BitVec 5) (m t : BitVec 3) (s : State) : Out1 := s.vcmp d a b m t fun x y => x < y
def execVcmple (d : BitVec 3) (a b : BitVec 5) (m t : BitVec 3) (s : State) : Out1 := s.vcmp d a b m t fun x y => x ≤ y
/-- VSEL writes every lane: the mask only selects. -/
def execVsel (d a b : BitVec 5) (m t : BitVec 3) (s : State) : Out1 :=
  let w := vBits t
  .next (s.setMe ((s.me.wv d (merged w (s.rk m) (s.rv b) fun i => lane (s.rv a) w i)).advance 4))

/-! ## VFLT (R269 to R272) -/

/-- Flags of active lanes, ORed (R266). -/
def laneFlags (l : List (Nat × Flags)) : Flags := l.foldl (fun a r => a ||| r.2) 0

/-- A float lane as the instruction reads it (R105, R267). -/
def State.flane (s : State) (t : BitVec 3) (v : VReg) (i : Nat) : Nat := (vFmt t).flushIn s.me.ftz (lane v (vfBits t) i)

/-- A result of three operands in the active lanes of vd, flushed, with its flags. -/
def State.vflt (s : State) (d a b : BitVec 5) (m t : BitVec 3) (f : FFmt → Nat → Nat → Nat → Nat × Flags) : Out1 :=
  let w := vfBits t
  let fm := vFmt t
  let x := s.rv a
  let y := s.rv b
  let z := s.rv d
  let k := s.rk m
  let rs := (List.range (512 / w)).map fun i =>
    if k.getLsbD i then fm.flushOut s.me.ftz (f fm (s.flane t x i) (s.flane t y i) (s.flane t z i)) else (lane z w i, 0)
  s.retireFlags (laneFlags rs) fun st => st.wv d (lanesList w (rs.map (·.1)))

/-- A float function of the bits alone: no flag, no flush. Log 13 (DEDUCED). -/
def State.vfbits (s : State) (d a : BitVec 5) (m t : BitVec 3) (f : FFmt → Nat → Nat) : Out1 :=
  let w := vfBits t
  .next (s.setMe ((s.me.wv d (merged w (s.rk m) (s.rv d) fun i => f (vFmt t) (lane (s.rv a) w i))).advance 4))

/-- A float compare into a k register; `quiet` compares raise nothing (R270). -/
def State.vfcmp (s : State) (d : BitVec 3) (a b : BitVec 5) (m t : BitVec 3) (quiet : Bool) (f : FV → FV → Bool) : Out1 :=
  let w := vfBits t
  let fm := vFmt t
  let k := s.rk m
  let val := fun r i => fm.value (s.flane t (s.rv r) i)
  let fl := (activeLanes w k).foldl (fun (a' : Flags) i => a' ||| (val a i).sig ||| (val b i).sig) 0
  s.retireFlags (if quiet then 0 else fl) fun st =>
    st.wk d (maskWhere w k fun i => !(val a i).isNan && !(val b i).isNan && f (val a i) (val b i))

/-- round(a op b) with the flags of both. -/
def FFmt.rounded (f : FFmt) (rm : Nat) (v : FV × Flags) : Nat × Flags := let (x, fl) := f.round rm v.1; (x, fl ||| v.2)

/-- ± a × b ± c, rounded once (R110). -/
def FFmt.fused (f : FFmt) (rm : Nat) (np nc : Bool) (a b c : Nat) : Nat × Flags :=
  let (p, fp) := (f.value a).mul (f.value b)
  let (v, fv) := FV.add rm (if np then p.neg else p) (if nc then (f.value c).neg else f.value c)
  f.rounded rm (v, fp ||| fv)

/-- The sign bit of a format, as a number. -/
def FFmt.top (f : FFmt) : Nat := 2 ^ (f.ebits + f.mbits)

def execVfadd (d a b : BitVec 5) (m t : BitVec 3) (s : State) : Out1 :=
  s.vflt d a b m t fun f x y _ => f.rounded s.me.rm (FV.add s.me.rm (f.value x) (f.value y))
def execVfsub (d a b : BitVec 5) (m t : BitVec 3) (s : State) : Out1 :=
  s.vflt d a b m t fun f x y _ => f.rounded s.me.rm (FV.add s.me.rm (f.value x) (f.value y).neg)
def execVfmul (d a b : BitVec 5) (m t : BitVec 3) (s : State) : Out1 :=
  s.vflt d a b m t fun f x y _ => f.rounded s.me.rm ((f.value x).mul (f.value y))
def execVfma (d a b : BitVec 5) (m t : BitVec 3) (s : State) : Out1 := s.vflt d a b m t fun f x y z => f.fused s.me.rm false false x y z
def execVfms (d a b : BitVec 5) (m t : BitVec 3) (s : State) : Out1 := s.vflt d a b m t fun f x y z => f.fused s.me.rm false true x y z
def execVfnma (d a b : BitVec 5) (m t : BitVec 3) (s : State) : Out1 := s.vflt d a b m t fun f x y z => f.fused s.me.rm true false x y z
def execVfmin (d a b : BitVec 5) (m t : BitVec 3) (s : State) : Out1 := s.vflt d a b m t fun f x y _ => f.pick false x y
def execVfmax (d a b : BitVec 5) (m t : BitVec 3) (s : State) : Out1 := s.vflt d a b m t fun f x y _ => f.pick true x y
def execVfabs (d a : BitVec 5) (m t : BitVec 3) (s : State) : Out1 := s.vfbits d a m t fun f x => x % f.top
def execVfneg (d a : BitVec 5) (m t : BitVec 3) (s : State) : Out1 := s.vfbits d a m t fun f x => x ^^^ f.top
def execVfrcp (d a : BitVec 5) (m t : BitVec 3) (s : State) : Out1 := s.vflt d a a m t fun f x _ _ => f.seedRcp x
def execVfrsq (d a : BitVec 5) (m t : BitVec 3) (s : State) : Out1 := s.vflt d a a m t fun f x _ _ => f.seedRsq x
def execVfceq (d : BitVec 3) (a b : BitVec 5) (m t : BitVec 3) (s : State) : Out1 :=
  s.vfcmp d a b m t true fun x y => !x.lt y && !y.lt x
def execVfclt (d : BitVec 3) (a b : BitVec 5) (m t : BitVec 3) (s : State) : Out1 := s.vfcmp d a b m t false fun x y => x.lt y
def execVfcle (d : BitVec 3) (a b : BitVec 5) (m t : BitVec 3) (s : State) : Out1 := s.vfcmp d a b m t false fun x y => !y.lt x
def execVfclass (d a : BitVec 5) (m t : BitVec 3) (s : State) : Out1 := s.vfbits d a m t fun f x => f.classOf x

/-! ## VCVT (R273) -/

/-- The format record of a format code that flushes, for R105. -/
def flushFmt (code : Nat) : FFmt := if code = 8 then fF32 else if code = 9 then fF16 else fBf16
def flushInCode (code : Nat) (ftz : Bool) (x : Nat) : Nat := if flushes code then (flushFmt code).flushIn ftz x else x
def flushOutCode (code : Nat) (ftz : Bool) (r : Nat × Flags) : Nat × Flags := if flushes code then (flushFmt code).flushOut ftz r else r

/-- Log 13 (DEDUCED). Log 14 (DEDUCED). -/
def execVcvt (d a b : BitVec 5) (m : BitVec 3) (g : BitVec 5) (r : BitVec 3) (s : State) : Out1 :=
  let sw := fmtBits b.toNat
  let dw := fmtBits g.toNat
  let n := Nat.min 64 (512 / Nat.max sw dw)
  let x := s.rv a
  let k := s.rk m
  let ftz := s.me.ftz
  let conv : Nat → Conv := fun i => if r = 6 then .keyed (s.rs 30) (s.rs 31 + BitVec.ofNat 64 i) else .rm (s.me.rounding r)
  let rs := (List.range n).map fun i =>
    if k.getLsbD i then
      flushOutCode g.toNat ftz (convert (flushInCode b.toNat ftz (lane x sw i)) b.toNat g.toNat (conv i))
    else (lane (s.rv d) dw i, 0)
  s.retireFlags (laneFlags rs) fun st => st.wv d (lanesList dw (rs.map (·.1)))

/-! ## VBLK (R274, R275) -/

/-- The element format of a VBLK type, as a format code (R234). -/
def blkElem (t : BitVec 3) : Nat := match t.toNat with | 0 => 11 | 1 => 12 | 2 => 13 | 3 => 0 | 4 => 15 | _ => 14

/-- Byte j of a scale register. -/
def scaleOf (k : Word) (j : Nat) : Nat := k.toNat / 2 ^ (8 * j) % 256
def setScale (k : Word) (j sc : Nat) : Word := BitVec.ofNat 64 (k.toNat - scaleOf k j * 2 ^ (8 * j) + sc % 256 * 2 ^ (8 * j))
/-- Replace the elements of slot j. -/
def setSlot (v : VReg) (w j : Nat) (es : List Nat) : VReg :=
  lanesOf w (512 / w) fun i => if i / 16 = j then es.getD (i % 16) 0 else lane v w i

def execVqblk (d a b : BitVec 5) (k t : BitVec 3) (s : State) : Out1 :=
  let ef := blkElem t
  let x := s.rv a
  let (sc, es, fl) := quantise16 ((List.range 16).map fun i => fF32.value (fF32.flushIn s.me.ftz (lane x 32 i))) ef
  s.retireFlags fl fun st => (st.wv d (setSlot (s.rv d) (fmtBits ef) b.toNat es)).wk k (setScale (s.rk k) b.toNat sc)

def execVdqblk (d a b : BitVec 5) (k t : BitVec 3) (s : State) : Out1 :=
  let ef := blkElem t
  let sc := scaleOf (s.rk k) b.toNat
  let rs := (List.range 16).map fun i =>
    fF32.flushOut s.me.ftz (fF32.round 1 (blockValue ef (lane (s.rv a) (fmtBits ef) (16 * b.toNat + i)) sc))
  s.retireFlags (laneFlags rs) fun st => st.wv d (lanesList 32 (rs.map (·.1)))

/-- The sum of two blocks of one slot, quantised (R275). -/
def blockAdd (ef : Nat) (x y : VReg) (kx ky : Word) (j : Nat) : Nat × List Nat × Flags :=
  let w := fmtBits ef
  quantise16 ((List.range 16).map fun e =>
    (FV.add 1 (blockValue ef (lane x w (16 * j + e)) (scaleOf kx j)) (blockValue ef (lane y w (16 * j + e)) (scaleOf ky j))).1) ef

def execVbaddq (d a : BitVec 5) (k t : BitVec 3) (s : State) : Out1 :=
  let ef := blkElem t
  let n := blockSlots t
  let rs := (List.range n).map fun j => blockAdd ef (s.rv d) (s.rv a) (s.rk k) (s.rk (k + 1)) j
  let fl := rs.foldl (fun (f : Flags) r => f ||| r.2.2) 0
  let scs := ((List.range n).zip rs).foldl (fun w (r : Nat × Nat × List Nat × Flags) => setScale w r.1 r.2.1) (s.rk k)
  s.retireFlags fl fun st => (st.wv d (lanesList (fmtBits ef) (rs.flatMap fun r => r.2.1))).wk k scs

/-- A scale stepped by a shift, clamped (R275). -/
def scaleStep (sc : Nat) (t : Int) : Nat × Flags :=
  if sc = 255 then (255, 0)
  else
    let x : Int := sc + t
    if x > 254 then (254, fOF ||| fNX) else if x < 0 then (0, fUF ||| fNX) else (x.toNat, 0)

def execVbscal (a : BitVec 5) (k t : BitVec 3) (s : State) : Out1 :=
  let rs := (List.range (blockSlots t)).map fun j => scaleStep (scaleOf (s.rk k) j) (s.rs a).toInt
  let scs := ((List.range (blockSlots t)).zip rs).foldl (fun w (r : Nat × Nat × Flags) => setScale w r.1 r.2.1) (s.rk k)
  s.retireFlags (laneFlags rs) fun st => st.wk k scs

/-! ## VXFER (R276) -/

/-- Write the active lanes of vd from their numbers. -/
def State.vxfer (s : State) (d : BitVec 5) (m t : BitVec 3) (f : Nat → Nat) : Out1 :=
  .next (s.setMe ((s.me.wv d (merged (vBits t) (s.rk m) (s.rv d) f)).advance 4))

def execVbcast (d a : BitVec 5) (m t : BitVec 3) (s : State) : Out1 := s.vxfer d m t fun _ => (s.rs a).toNat
def execVext (d a b : BitVec 5) (t : BitVec 3) (s : State) : Out1 :=
  .next (s.put d (vWide t (lane (s.rv a) (vBits t) ((s.rs b).toNat % (512 / vBits t)))))
def execVins (d a b : BitVec 5) (t : BitVec 3) (s : State) : Out1 :=
  let j := (s.rs b).toNat % (512 / vBits t)
  s.vxfer d 0 t fun i => if i = j then (s.rs a).toNat else lane (s.rv d) (vBits t) i
def execVperm (d a b : BitVec 5) (m t : BitVec 3) (s : State) : Out1 :=
  s.vxfer d m t fun i => lane (s.rv a) (vBits t) (lane (s.rv b) (vBits t) i % (512 / vBits t))
def execVcomp (d a b : BitVec 5) (m t : BitVec 3) (s : State) : Out1 :=
  let w := vBits t
  let ls := (activeLanes w (s.rk m)).map fun i => lane (s.rv a) w i
  .next (s.setMe (((s.me.wv d (lanesList w ls)).ws b (BitVec.ofNat 64 ls.length)).advance 4))
def execVexpd (d a : BitVec 5) (m t : BitVec 3) (s : State) : Out1 :=
  s.vxfer d m t fun i => lane (s.rv a) (vBits t) ((activeLanes (vBits t) (s.rk m)).countP (· < i))
def execViota (d a : BitVec 5) (m t : BitVec 3) (s : State) : Out1 := s.vxfer d m t fun i => (s.rs a).toNat + i
def execVslide (d a b : BitVec 5) (m t : BitVec 3) (s : State) : Out1 :=
  s.vxfer d m t fun i =>
    let j : Int := i + (s.rs b).toInt
    if 0 ≤ j ∧ j < (512 / vBits t : Nat) then lane (s.rv a) (vBits t) j.toNat else 0
def execVmov (d a : BitVec 5) (m t : BitVec 3) (s : State) : Out1 := s.vxfer d m t fun i => lane (s.rv a) (vBits t) i

/-! ## VRED (R277, R108, R109) -/

/-- The active lanes of va as integers of the type. -/
def State.activeInts (s : State) (a : BitVec 5) (m t : BitVec 3) : List Int :=
  (activeLanes (vBits t) (s.rk m)).map fun i => vInt t (lane (s.rv a) (vBits t) i)

def execVredadd (d a : BitVec 5) (m t : BitVec 3) (s : State) : Out1 :=
  .next (s.put d (BitVec.ofInt 64 ((s.activeInts a m t).foldl (· + ·) 0)))
def execVredmax (d a : BitVec 5) (m t : BitVec 3) (s : State) : Out1 :=
  .next (s.put d (BitVec.ofInt 64 ((s.activeInts a m t).foldl max (intLo (vSigned t) (vBits t)))))
def execVredmin (d a : BitVec 5) (m t : BitVec 3) (s : State) : Out1 :=
  .next (s.put d (BitVec.ofInt 64 ((s.activeInts a m t).foldl min (intHi (vSigned t) (vBits t)))))

/-- Lane i widened to f32, an inactive lane as the identity. Log 15 (DEDUCED). -/
def State.widened (s : State) (a : BitVec 5) (m t : BitVec 3) (ident i : Nat) : Nat × Flags :=
  if (s.rk m).getLsbD i then convert (s.flane t (s.rv a) i) (vFmtCode t) 8 (.rm 1) else (ident, 0)

/-- One level of the tree of R108. -/
def treeLevel (f : Nat → Nat → Nat × Flags) : List Nat → List Nat × Flags
  | x :: y :: l =>
    let (r, fl) := f x y
    let (rs, fs) := treeLevel f l
    (r :: rs, fl ||| fs)
  | l => (l, 0)

/-- fred of R108, over 2^n lanes. -/
def fred (f : Nat → Nat → Nat × Flags) : Nat → List Nat → Nat × Flags
  | 0, l => (l.headD 0, 0)
  | n + 1, l =>
    let (l', fl) := treeLevel f l
    let (r, fr) := fred f n l'
    (r, fl ||| fr)

/-- An f32 sum under FCTL. -/
def Strand.addF32 (x : Strand) (a b : Nat) : Nat × Flags :=
  fF32.flushOut x.ftz (fF32.rounded x.rm (FV.add x.rm (fF32.value a) (fF32.value b)))
def Strand.maxF32 (x : Strand) (a b : Nat) : Nat × Flags := fF32.flushOut x.ftz (fF32.pick true a b)

/-- VFREDADD and VFREDMAX: a tree over the lanes. Log 15 (DEDUCED). -/
def State.vfred (s : State) (d a : BitVec 5) (m t : BitVec 3) (ident : Nat) (f : Nat → Nat → Nat × Flags) : Out1 :=
  let n := 512 / vfBits t
  let ls := (List.range n).map fun i => s.widened a m t ident i
  let (r, fl) := fred f (if n = 16 then 4 else 5) (ls.map (·.1))
  s.retireFlags (laneFlags ls ||| fl) fun st => st.ws d (BitVec.ofNat 64 r)

def execVfredadd (d a : BitVec 5) (m t : BitVec 3) (s : State) : Out1 := s.vfred d a m t 0x80000000 s.me.addF32
def execVfredmax (d a : BitVec 5) (m t : BitVec 3) (s : State) : Out1 := s.vfred d a m t 0xFF800000 s.me.maxF32

def execVscanadd (d a : BitVec 5) (m t : BitVec 3) (s : State) : Out1 :=
  let w := vBits t
  .next (s.setMe ((s.me.wv d (lanesList w
    ((List.range (512 / w)).foldl (fun (acc : List Nat × Nat) i =>
      let x := acc.2 + (if (s.rk m).getLsbD i then lane (s.rv a) w i else 0)
      (acc.1 ++ [x], x)) ([], 0)).1)).advance 4))

/-- The prefixes of R109 in f32, with their flags. -/
def scanF32 (f : Nat → Nat → Nat × Flags) (p : Nat) : List Nat → List (Nat × Flags)
  | [] => []
  | x :: l => let r := f p x; r :: scanF32 f r.1 l

def execVfscanadd (d a : BitVec 5) (m t : BitVec 3) (s : State) : Out1 :=
  let fm := vFmt t
  let ls := (List.range (512 / vfBits t)).map fun i => s.widened a m t 0x80000000 i
  let ps : List (Nat × Flags) := match ls with
    | [] => []
    | x :: l => (x.1, 0) :: scanF32 s.me.addF32 x.1 (l.map (·.1))
  let out := ps.map fun p => fm.flushOut s.me.ftz (fm.round s.me.rm (fF32.value p.1))
  s.retireFlags (laneFlags ls ||| laneFlags ps ||| laneFlags out) fun st => st.wv d (lanesList (vfBits t) (out.map (·.1)))

/-! ## KOPS (R278) -/

/-- A result in a k register. -/
def State.kop (s : State) (d : BitVec 3) (w : Word) : Out1 := .next (s.setMe ((s.me.wk d w).advance 4))

def execKand (d a b : BitVec 3) (s : State) : Out1 := s.kop d (s.rk a &&& s.rk b)
def execKor (d a b : BitVec 3) (s : State) : Out1 := s.kop d (s.rk a ||| s.rk b)
def execKxor (d a b : BitVec 3) (s : State) : Out1 := s.kop d (s.rk a ^^^ s.rk b)
def execKnot (d a : BitVec 3) (s : State) : Out1 := s.kop d (~~~(s.rk a))
def execKmov (d a : BitVec 3) (s : State) : Out1 := s.kop d (s.rk a)
def execKget (d : BitVec 5) (a : BitVec 3) (s : State) : Out1 := .next (s.put d (s.rk a))
def execKpopc (d : BitVec 5) (a : BitVec 3) (s : State) : Out1 :=
  .next (s.put d (BitVec.ofNat 64 ((List.range 64).countP fun i => (s.rk a).getLsbD i)))
def execKfirst (d : BitVec 5) (a : BitVec 3) (s : State) : Out1 :=
  .next (s.put d (BitVec.ofNat 64 (((List.range 64).find? fun i => (s.rk a).getLsbD i).getD 64)))

/-! ## VRAND and VLIVE (R279, R280) -/

def execVrand (d a b : BitVec 5) (m : BitVec 3) (s : State) : Out1 :=
  s.vxfer d m 6 fun i => (m64 (s.rs a) (s.rs b + BitVec.ofNat 64 i)).toNat / 2 ^ 32
def execVlive (a : BitVec 5) (s : State) : Out1 :=
  let live : BitVec 32 := (s.rs a).setWidth 32
  let x := s.me
  .next (s.setMe ({ x with dead := x.dead ||| ~~~live,
                           tags := x.tags.filter fun e => match e.1 with | .v r => live.getLsbD r.toNat | _ => true }.advance 4))

end Sys2Proof.Machine
end

