-- ==== Sys2Proof/Machine/Dispatch.lean ====
section
/-! DEFINITION. Which meaning each instruction and each step of the device has. -/

namespace Sys2Proof.Machine

def exec (i : Instr) (s : State) : Host.Outcome State Fault Refusal :=
  match i with
  | .add d a b h => Sys2Proof.Machine.execAdd d a b h s
  | .sub d a b h => Sys2Proof.Machine.execSub d a b h s
  | .and d a b h => Sys2Proof.Machine.execAnd d a b h s
  | .or d a b h => Sys2Proof.Machine.execOr d a b h s
  | .xor d a b h => Sys2Proof.Machine.execXor d a b h s
  | .andn d a b h => Sys2Proof.Machine.execAndn d a b h s
  | .shl d a b h => Sys2Proof.Machine.execShl d a b h s
  | .shr d a b h => Sys2Proof.Machine.execShr d a b h s
  | .sha d a b h => Sys2Proof.Machine.execSha d a b h s
  | .rotl d a b h => Sys2Proof.Machine.execRotl d a b h s
  | .min d a b h => Sys2Proof.Machine.execMin d a b h s
  | .max d a b h => Sys2Proof.Machine.execMax d a b h s
  | .minn d a b h => Sys2Proof.Machine.execMinn d a b h s
  | .maxn d a b h => Sys2Proof.Machine.execMaxn d a b h s
  | .slt d a b h => Sys2Proof.Machine.execSlt d a b h s
  | .sltn d a b h => Sys2Proof.Machine.execSltn d a b h s
  | .seq d a b h => Sys2Proof.Machine.execSeq d a b h s
  | .clz d a h => Sys2Proof.Machine.execClz d a h s
  | .ctz d a h => Sys2Proof.Machine.execCtz d a h s
  | .popc d a h => Sys2Proof.Machine.execPopc d a h s
  | .sext d a h sc => Sys2Proof.Machine.execSext d a h sc s
  | .zext d a h sc => Sys2Proof.Machine.execZext d a h sc s
  | .lea d a b h sc => Sys2Proof.Machine.execLea d a b h sc s
  | .mul d a b h => Sys2Proof.Machine.execMul d a b h s
  | .mulh d a b h => Sys2Proof.Machine.execMulh d a b h s
  | .mulhn d a b h => Sys2Proof.Machine.execMulhn d a b h s
  | .div d a b h => Sys2Proof.Machine.execDiv d a b h s
  | .divn d a b h => Sys2Proof.Machine.execDivn d a b h s
  | .rem d a b h => Sys2Proof.Machine.execRem d a b h s
  | .remn d a b h => Sys2Proof.Machine.execRemn d a b h s
  | .cmov d a b h => Sys2Proof.Machine.execCmov d a b h s
  | .addi d a im => Sys2Proof.Machine.execAddi d a im s
  | .andi d a im => Sys2Proof.Machine.execAndi d a im s
  | .ori d a im => Sys2Proof.Machine.execOri d a im s
  | .xori d a im => Sys2Proof.Machine.execXori d a im s
  | .slti d a im => Sys2Proof.Machine.execSlti d a im s
  | .shi d a k c => Sys2Proof.Machine.execShi d a k c s
  | .lih d im => Sys2Proof.Machine.execLih d im s
  | .lix d a im => Sys2Proof.Machine.execLix d a im s
  | .beq a b im => Sys2Proof.Machine.execBeq a b im s
  | .bne a b im => Sys2Proof.Machine.execBne a b im s
  | .blt a b im => Sys2Proof.Machine.execBlt a b im s
  | .bge a b im => Sys2Proof.Machine.execBge a b im s
  | .bltn a b im => Sys2Proof.Machine.execBltn a b im s
  | .bgen a b im => Sys2Proof.Machine.execBgen a b im s
  | .j im => Sys2Proof.Machine.execJ im s
  | .jl im => Sys2Proof.Machine.execJl im s
  | .jlr d a im => Sys2Proof.Machine.execJlr d a im s
  | .lds d a w im => Sys2Proof.Machine.execLds d a w im s
  | .sts d a w im => Sys2Proof.Machine.execSts d a w im s
  | .ldaq d a w c im => Sys2Proof.Machine.execLdaq d a w c im s
  | .strl d a w c im => Sys2Proof.Machine.execStrl d a w c im s
  | .vld d r o im h sc => Sys2Proof.Machine.execVld d r o im h sc s
  | .vst d r o im h sc => Sys2Proof.Machine.execVst d r o im h sc s
  | .vldg d r o h sc => Sys2Proof.Machine.execVldg d r o h sc s
  | .vsts d r o h sc => Sys2Proof.Machine.execVsts d r o h sc s
  | .vldx d r o k h => Sys2Proof.Machine.execVldx d r o k h s
  | .vstx d r o k h => Sys2Proof.Machine.execVstx d r o k h s
  | .sld d r o im h sc => Sys2Proof.Machine.execSld d r o im h sc s
  | .sst d r o im h sc => Sys2Proof.Machine.execSst d r o im h sc s
  | .pfetch r o im h sc => Sys2Proof.Machine.execPfetch r o im h sc s
  | .aadd d a b t h sc => Sys2Proof.Machine.execAadd d a b t h sc s
  | .aand d a b t h sc => Sys2Proof.Machine.execAand d a b t h sc s
  | .aor d a b t h sc => Sys2Proof.Machine.execAor d a b t h sc s
  | .axor d a b t h sc => Sys2Proof.Machine.execAxor d a b t h sc s
  | .amin d a b t h sc => Sys2Proof.Machine.execAmin d a b t h sc s
  | .amax d a b t h sc => Sys2Proof.Machine.execAmax d a b t h sc s
  | .aminn d a b t h sc => Sys2Proof.Machine.execAminn d a b t h sc s
  | .amaxn d a b t h sc => Sys2Proof.Machine.execAmaxn d a b t h sc s
  | .axchg d a b t h sc => Sys2Proof.Machine.execAxchg d a b t h sc s
  | .afadd d a b h sc => Sys2Proof.Machine.execAfadd d a b h sc s
  | .afaddh d a b t h sc => Sys2Proof.Machine.execAfaddh d a b t h sc s
  | .afmax d a b t h sc => Sys2Proof.Machine.execAfmax d a b t h sc s
  | .acas d a b t h sc => Sys2Proof.Machine.execAcas d a b t h sc s
  | .fence h sc => Sys2Proof.Machine.execFence h sc s
  | .lbfenc h => Sys2Proof.Machine.execLbfenc h s
  | .ifenc h => Sys2Proof.Machine.execIfenc h s
  | .efenc h => Sys2Proof.Machine.execEfenc h s
  | .brld d a h => Sys2Proof.Machine.execBrld d a h s
  | .brst d a h => Sys2Proof.Machine.execBrst d a h s
  | .brsetf d a f h => Sys2Proof.Machine.execBrsetf d a f h s
  | .brgetf d a f h => Sys2Proof.Machine.execBrgetf d a f h s
  | .brcpy d a h => Sys2Proof.Machine.execBrcpy d a h s
  | .qrd d h q => Sys2Proof.Machine.execQrd d h q s
  | .qwr a h q => Sys2Proof.Machine.execQwr a h q s
  | .qtry d a h q => Sys2Proof.Machine.execQtry d a h q s
  | .qcnt d h q => Sys2Proof.Machine.execQcnt d h q s
  | .qpair a h => Sys2Proof.Machine.execQpair a h s
  | .vadd d a b m t => Sys2Proof.Machine.execVadd d a b m t s
  | .vsub d a b m t => Sys2Proof.Machine.execVsub d a b m t s
  | .vmul d a b m t => Sys2Proof.Machine.execVmul d a b m t s
  | .vmulh d a b m t => Sys2Proof.Machine.execVmulh d a b m t s
  | .vmin d a b m t => Sys2Proof.Machine.execVmin d a b m t s
  | .vmax d a b m t => Sys2Proof.Machine.execVmax d a b m t s
  | .vand d a b m t => Sys2Proof.Machine.execVand d a b m t s
  | .vor d a b m t => Sys2Proof.Machine.execVor d a b m t s
  | .vxor d a b m t => Sys2Proof.Machine.execVxor d a b m t s
  | .vshl d a b m t => Sys2Proof.Machine.execVshl d a b m t s
  | .vshr d a b m t => Sys2Proof.Machine.execVshr d a b m t s
  | .vsha d a b m t => Sys2Proof.Machine.execVsha d a b m t s
  | .vabs d a m t => Sys2Proof.Machine.execVabs d a m t s
  | .vneg d a m t => Sys2Proof.Machine.execVneg d a m t s
  | .vadds d a b m t => Sys2Proof.Machine.execVadds d a b m t s
  | .vsubs d a b m t => Sys2Proof.Machine.execVsubs d a b m t s
  | .vcmpeq d a b m t => Sys2Proof.Machine.execVcmpeq d a b m t s
  | .vcmplt d a b m t => Sys2Proof.Machine.execVcmplt d a b m t s
  | .vcmple d a b m t => Sys2Proof.Machine.execVcmple d a b m t s
  | .vsel d a b m t => Sys2Proof.Machine.execVsel d a b m t s
  | .vfadd d a b m t => Sys2Proof.Machine.execVfadd d a b m t s
  | .vfsub d a b m t => Sys2Proof.Machine.execVfsub d a b m t s
  | .vfmul d a b m t => Sys2Proof.Machine.execVfmul d a b m t s
  | .vfma d a b m t => Sys2Proof.Machine.execVfma d a b m t s
  | .vfms d a b m t => Sys2Proof.Machine.execVfms d a b m t s
  | .vfnma d a b m t => Sys2Proof.Machine.execVfnma d a b m t s
  | .vfmin d a b m t => Sys2Proof.Machine.execVfmin d a b m t s
  | .vfmax d a b m t => Sys2Proof.Machine.execVfmax d a b m t s
  | .vfabs d a m t => Sys2Proof.Machine.execVfabs d a m t s
  | .vfneg d a m t => Sys2Proof.Machine.execVfneg d a m t s
  | .vfrcp d a m t => Sys2Proof.Machine.execVfrcp d a m t s
  | .vfrsq d a m t => Sys2Proof.Machine.execVfrsq d a m t s
  | .vfceq d a b m t => Sys2Proof.Machine.execVfceq d a b m t s
  | .vfclt d a b m t => Sys2Proof.Machine.execVfclt d a b m t s
  | .vfcle d a b m t => Sys2Proof.Machine.execVfcle d a b m t s
  | .vfclass d a m t => Sys2Proof.Machine.execVfclass d a m t s
  | .vcvt d a b m g r => Sys2Proof.Machine.execVcvt d a b m g r s
  | .vqblk d a b k t => Sys2Proof.Machine.execVqblk d a b k t s
  | .vdqblk d a b k t => Sys2Proof.Machine.execVdqblk d a b k t s
  | .vbaddq d a k t => Sys2Proof.Machine.execVbaddq d a k t s
  | .vbscal a k t => Sys2Proof.Machine.execVbscal a k t s
  | .vbcast d a m t => Sys2Proof.Machine.execVbcast d a m t s
  | .vext d a b t => Sys2Proof.Machine.execVext d a b t s
  | .vins d a b t => Sys2Proof.Machine.execVins d a b t s
  | .vperm d a b m t => Sys2Proof.Machine.execVperm d a b m t s
  | .vcomp d a b m t => Sys2Proof.Machine.execVcomp d a b m t s
  | .vexpd d a m t => Sys2Proof.Machine.execVexpd d a m t s
  | .viota d a m t => Sys2Proof.Machine.execViota d a m t s
  | .vslide d a b m t => Sys2Proof.Machine.execVslide d a b m t s
  | .vmov d a m t => Sys2Proof.Machine.execVmov d a m t s
  | .vredadd d a m t => Sys2Proof.Machine.execVredadd d a m t s
  | .vredmax d a m t => Sys2Proof.Machine.execVredmax d a m t s
  | .vredmin d a m t => Sys2Proof.Machine.execVredmin d a m t s
  | .vfredadd d a m t => Sys2Proof.Machine.execVfredadd d a m t s
  | .vfredmax d a m t => Sys2Proof.Machine.execVfredmax d a m t s
  | .vscanadd d a m t => Sys2Proof.Machine.execVscanadd d a m t s
  | .vfscanadd d a m t => Sys2Proof.Machine.execVfscanadd d a m t s
  | .kand d a b => Sys2Proof.Machine.execKand d a b s
  | .kor d a b => Sys2Proof.Machine.execKor d a b s
  | .kxor d a b => Sys2Proof.Machine.execKxor d a b s
  | .knot d a => Sys2Proof.Machine.execKnot d a s
  | .kmov d a => Sys2Proof.Machine.execKmov d a s
  | .kget d a => Sys2Proof.Machine.execKget d a s
  | .kpopc d a => Sys2Proof.Machine.execKpopc d a s
  | .kfirst d a => Sys2Proof.Machine.execKfirst d a s
  | .vrand d a b m => Sys2Proof.Machine.execVrand d a b m s
  | .vlive a => Sys2Proof.Machine.execVlive a s
  | .fork d a b h => Sys2Proof.Machine.execFork d a b h s
  | .forkP d a b h p => Sys2Proof.Machine.execForkP d a b h p s
  | .done n h => Sys2Proof.Machine.execDone n h s
  | .yield h => Sys2Proof.Machine.execYield h s
  | .jcinit d a b h => Sys2Proof.Machine.execJcinit d a b h s
  | .jcinitForce d a b h => Sys2Proof.Machine.execJcinitForce d a b h s
  | .jcdec d a n h => Sys2Proof.Machine.execJcdec d a n h s
  | .jcwait a h => Sys2Proof.Machine.execJcwait a h s
  | .jcrd d a h sc => Sys2Proof.Machine.execJcrd d a h sc s
  | .sealg d a b h => Sys2Proof.Machine.execSealg d a b h s
  | .sealq d a h => Sys2Proof.Machine.execSealq d a h s
  | .self d a h => Sys2Proof.Machine.execSelf d a h s
  | .gate h => Sys2Proof.Machine.execGate h s
  | .migr d a h => Sys2Proof.Machine.execMigr d a h s
  | .csrrd d c => Sys2Proof.Machine.execCsrrd d c s
  | .csrwr d a c => Sys2Proof.Machine.execCsrwr d a c s
  | .csrset d a c => Sys2Proof.Machine.execCsrset d a c s
  | .csrclr d a c => Sys2Proof.Machine.execCsrclr d a c s
  | .sysc c => Sys2Proof.Machine.execSysc c s
  | .trap c => Sys2Proof.Machine.execTrap c s
  | .eret => Sys2Proof.Machine.execEret s
  | .brk => Sys2Proof.Machine.execBrk s
  | .haltg g => Sys2Proof.Machine.execHaltg g s
  | .wfi => Sys2Proof.Machine.execWfi s
  | .rkset a b h => Sys2Proof.Machine.execRkset a b h s
  | .rktrn a b h => Sys2Proof.Machine.execRktrn a b h s
  | .tlbinv a h => Sys2Proof.Machine.execTlbinv a h s
  | .tlbinvRng a h => Sys2Proof.Machine.execTlbinvRng a h s
  | .tlbinvAll h => Sys2Proof.Machine.execTlbinvAll h s
  | .ptsync h => Sys2Proof.Machine.execPtsync h s
  | .part d a b h => Sys2Proof.Machine.execPart d a b h s
  | .preemptSave d a h => Sys2Proof.Machine.execPreemptSave d a h s
  | .preemptRest d a h => Sys2Proof.Machine.execPreemptRest d a h s
  | .lmm rc ra n f h c w u cs => Sys2Proof.Machine.execLmm rc ra n f h c w u cs s
  | .lmmg rc ra ro c h w u cs => Sys2Proof.Machine.execLmmg rc ra ro c h w u cs s
  | .lmms rc ra n f h c w u cs => Sys2Proof.Machine.execLmms rc ra n f h c w u cs s
  | .lbld rb p c h => Sys2Proof.Machine.execLbld rb p c h s
  | .lbswp h => Sys2Proof.Machine.execLbswp h s
  | .laini rc c h w => Sys2Proof.Machine.execLaini rc c h w s
  | .ladr rd rc c h rm => Sys2Proof.Machine.execLadr rd rc c h rm s
  | .lsemi a h w => Sys2Proof.Machine.execLsemi a h w s
  | .lstat d h => Sys2Proof.Machine.execLstat d h s
  | .topk ro rs p c h sb mn ky sp cl => Sys2Proof.Machine.execTopk ro rs p c h sb mn ky sp cl s
  | .rcsnap rd a h => Sys2Proof.Machine.execRcsnap rd a h s
  | .rcrd d a h x => Sys2Proof.Machine.execRcrd d a h x s
  | .rfork j c f t h g => Sys2Proof.Machine.execRfork j c f t h g s
  | .mfork p h => Sys2Proof.Machine.execMfork p h s
  | .send d hd h n => Sys2Proof.Machine.execSend d hd h n s
  | .sendm d hd m h n => Sys2Proof.Machine.execSendm d hd m h n s
  | .rread d rl sr c h => Sys2Proof.Machine.execRread d rl sr c h s
  | .halo rt nb h hw => Sys2Proof.Machine.execHalo rt nb h hw s
  | .rwrite d rs rt c h => Sys2Proof.Machine.execRwrite d rs rt c h s
  | .shdw r h => Sys2Proof.Machine.execShdw r h s
  | .publ r h => Sys2Proof.Machine.execPubl r h s
  | .disc r h => Sys2Proof.Machine.execDisc r h s
  | .cpyt a t h => Sys2Proof.Machine.execCpyt a t h s
  | .wmrd d a h => Sys2Proof.Machine.execWmrd d a h s
  | .digest rd rs h => Sys2Proof.Machine.execDigest rd rs h s
  | .tmplinv t h al => Sys2Proof.Machine.execTmplinv t h al s
  | .spec d sr ra h => Sys2Proof.Machine.execSpec d sr ra h s
  | .hrel hd h => Sys2Proof.Machine.execHrel hd h s
  | .href hd h => Sys2Proof.Machine.execHref hd h s
  | .hcall hd h => Sys2Proof.Machine.execHcall hd h s
  | .hstat d hd h => Sys2Proof.Machine.execHstat d hd h s
  | .stgdef a r h => Sys2Proof.Machine.execStgdef a r h s
  | .stgput st im h => Sys2Proof.Machine.execStgput st im h s
  | .stgend st im o h => Sys2Proof.Machine.execStgend st im o h s
  | .stgsnap rd st w h => Sys2Proof.Machine.execStgsnap rd st w h s
  | .stgseq st im h => Sys2Proof.Machine.execStgseq st im h s
  | .glnch rt dd h => Sys2Proof.Machine.execGlnch rt dd h s
  | .gres a h => Sys2Proof.Machine.execGres a h s
  | .gstat d a h => Sys2Proof.Machine.execGstat d a h s
  | .load t n j => Sys2Proof.Machine.execLoad t n j s
  | .enter t n => Sys2Proof.Machine.execEnter t n s
  | .drain t n home => Sys2Proof.Machine.execDrain t n home s
  | .loopBack t n => Sys2Proof.Machine.execLoopBack t n s
  | .fill core line => Sys2Proof.Machine.execFill core line s
  | .writeBack core line => Sys2Proof.Machine.execWriteBack core line s
  | .drop core line => Sys2Proof.Machine.execDrop core line s
  | .atomic t n => Sys2Proof.Machine.execAtomic t n s
  | .fetch t => Sys2Proof.Machine.execFetch t s
  | .fenceComplete t => Sys2Proof.Machine.execFenceComplete t s
  | .lbfencComplete t => Sys2Proof.Machine.execLbfencComplete t s
  | .ifencComplete t => Sys2Proof.Machine.execIfencComplete t s
  | .efencComplete t => Sys2Proof.Machine.execEfencComplete t s
  | .accept t => Sys2Proof.Machine.execAccept t s
  | .engineRead id im => Sys2Proof.Machine.execEngineRead id im s
  | .engineWrite id im => Sys2Proof.Machine.execEngineWrite id im s
  | .complete id => Sys2Proof.Machine.execComplete id s
  | .publishStep t => Sys2Proof.Machine.execPublishStep t s
  | .discardStep t => Sys2Proof.Machine.execDiscardStep t s
  | .shadowOpen t => Sys2Proof.Machine.execShadowOpen t s
  | .park id im => Sys2Proof.Machine.execPark id im s
  | .replay p n => Sys2Proof.Machine.execReplay p n s
  | .walk core va => Sys2Proof.Machine.execWalk core va s
  | .niEntryDrop core rank => Sys2Proof.Machine.execNiEntryDrop core rank s
  | .decrement n => Sys2Proof.Machine.execDecrement n s
  | .taskRecordArrival n => Sys2Proof.Machine.execTaskRecordArrival n s
  | .queueEntryArrival n => Sys2Proof.Machine.execQueueEntryArrival n s
  | .handoverInstall n => Sys2Proof.Machine.execHandoverInstall n s
  | .messageForward n => Sys2Proof.Machine.execMessageForward n s
  | .forwardingEntryDrop t => Sys2Proof.Machine.execForwardingEntryDrop t s
  | .liveMigration t core => Sys2Proof.Machine.execLiveMigration t core s
  | .migrationComplete t => Sys2Proof.Machine.execMigrationComplete t s
  | .taskAssign core => Sys2Proof.Machine.execTaskAssign core s
  | .recordAging core prio => Sys2Proof.Machine.execRecordAging core prio s
  | .steal core => Sys2Proof.Machine.execSteal core s
  | .residenceEnter core => Sys2Proof.Machine.execResidenceEnter core s
  | .residenceLeave t => Sys2Proof.Machine.execResidenceLeave t s
  | .blockedTimeout t => Sys2Proof.Machine.execBlockedTimeout t s
  | .wfiTimeout t => Sys2Proof.Machine.execWfiTimeout t s
  | .interruptTake t => Sys2Proof.Machine.execInterruptTake t s
  | .gateClosing core => Sys2Proof.Machine.execGateClosing core s
  | .gateClosed core => Sys2Proof.Machine.execGateClosed core s
  | .wake core => Sys2Proof.Machine.execWake core s
  | .powerRestored core => Sys2Proof.Machine.execPowerRestored core s
  | .pteCountUpdate p pte => Sys2Proof.Machine.execPteCountUpdate p pte s
  | .tierSweep p => Sys2Proof.Machine.execTierSweep p s
  | .tierSwapComplete p => Sys2Proof.Machine.execTierSwapComplete p s
  | .tierSwapAbandon p victim => Sys2Proof.Machine.execTierSwapAbandon p victim s
  | .launchPacketAccept path p slot packet => Sys2Proof.Machine.execLaunchPacketAccept path p slot packet s
  | .launchGrant p => Sys2Proof.Machine.execLaunchGrant p s
  | .forgeRun die => Sys2Proof.Machine.execForgeRun die s
  | .routingDecision p st record => Sys2Proof.Machine.execRoutingDecision p st record s
  | .assayTileDecide p launch tile => Sys2Proof.Machine.execAssayTileDecide p launch tile s
  | .lbswpExchange id => Sys2Proof.Machine.execLbswpExchange id s
  | .gangStop p why => Sys2Proof.Machine.execGangStop p why s
  | .chaltQuiet p => Sys2Proof.Machine.execChaltQuiet p s
  | .haltGroupStop core g => Sys2Proof.Machine.execHaltGroupStop core g s
  | .ctrigHalt p g => Sys2Proof.Machine.execCtrigHalt p g s
  | .ctrigRel p g => Sys2Proof.Machine.execCtrigRel p g s
  | .hstopStop p => Sys2Proof.Machine.execHstopStop p s
  | .hstopRel p => Sys2Proof.Machine.execHstopRel p s
  | .replicaCompare p slot => Sys2Proof.Machine.execReplicaCompare p slot s
  | .machineCheck code site addr => Sys2Proof.Machine.execMachineCheck code site addr s
  | .correctedError cluster => Sys2Proof.Machine.execCorrectedError cluster s
  | .dieLinkFail die1 die2 => Sys2Proof.Machine.execDieLinkFail die1 die2 s
  | .nictlFlush core => Sys2Proof.Machine.execNictlFlush core s
  | .fqctlReplay p => Sys2Proof.Machine.execFqctlReplay p s
  | .wmwinOwn t n value => Sys2Proof.Machine.execWmwinOwn t n value s
  | .dnoteWrite p pc => Sys2Proof.Machine.execDnoteWrite p pc s
  | .dmodeWrite p value => Sys2Proof.Machine.execDmodeWrite p value s
  | .dsaltWrite p value => Sys2Proof.Machine.execDsaltWrite p value s
  | .dcauseClear p n => Sys2Proof.Machine.execDcauseClear p n s
  | .alevelWrite p value => Sys2Proof.Machine.execAlevelWrite p value s
  | .tierctlWrite p value => Sys2Proof.Machine.execTierctlWrite p value s
  | .cstageWrite core value => Sys2Proof.Machine.execCstageWrite core value s
  | .cschedStrandsWrite core value => Sys2Proof.Machine.execCschedStrandsWrite core value s
  | .frameStateStore t value => Sys2Proof.Machine.execFrameStateStore t value s
  | .frameRegisterStore t off value => Sys2Proof.Machine.execFrameRegisterStore t off value s
  | .registerWrite reg value => Sys2Proof.Machine.execRegisterWrite reg value s
  | .bar2Access path p off size data => Sys2Proof.Machine.execBar2Access path p off size data s
  | .pcmaskWrite p mask => Sys2Proof.Machine.execPcmaskWrite p mask s
  | .csrWindowWrite p csr value => Sys2Proof.Machine.execCsrWindowWrite p csr value s
  | .pcbootGo p => Sys2Proof.Machine.execPcbootGo p s
  | .identify tag len => Sys2Proof.Machine.execIdentify tag len s
  | .readSensors tag len temps power coolant => Sys2Proof.Machine.execReadSensors tag len temps power coolant s
  | .readErrorCounts tag len io0 io1 => Sys2Proof.Machine.execReadErrorCounts tag len io0 io1 s
  | .stageFirmwareBlock tag len => Sys2Proof.Machine.execStageFirmwareBlock tag len s
  | .commitStagedImage tag len => Sys2Proof.Machine.execCommitStagedImage tag len s
  | .readMeasurement tag len => Sys2Proof.Machine.execReadMeasurement tag len s
  | .mailboxOperationEnd => Sys2Proof.Machine.execMailboxOperationEnd s
  | .resetRelease => Sys2Proof.Machine.execResetRelease s
  | .stage2 => Sys2Proof.Machine.execStage2 s
  | .stage3 => Sys2Proof.Machine.execStage3 s
  | .stageFailure code => Sys2Proof.Machine.execStageFailure code s
  | .spdmRequest request => Sys2Proof.Machine.execSpdmRequest request s
  | .tdiConfigLock p link run => Sys2Proof.Machine.execTdiConfigLock p link run s
  | .stopInterface p => Sys2Proof.Machine.execStopInterface p s
  | .thermalTrip => Sys2Proof.Machine.execThermalTrip s
  | .throttle => Sys2Proof.Machine.execThrottle s
  | .slenEnable port => Sys2Proof.Machine.execSlenEnable port s
  | .receiveBlock port data scales => Sys2Proof.Machine.execReceiveBlock port data scales s
  | .sltxdReady port slot => Sys2Proof.Machine.execSltxdReady port slot s
  | .transmitBlock port => Sys2Proof.Machine.execTransmitBlock port s
  | .linkUp port peer lanes => Sys2Proof.Machine.execLinkUp port peer lanes s
  | .linkDown port => Sys2Proof.Machine.execLinkDown port s
  | .peerAcknowledgement port block => Sys2Proof.Machine.execPeerAcknowledgement port block s
  | .apertureWrite path p off => Sys2Proof.Machine.execApertureWrite path p off s

end Sys2Proof.Machine
end

