-- ==== Sys2Proof/Machine/Schedule.lean ====
section
/-! DEFINITION. The order the model takes when the schedule names no move: steps of the device that are possible, then the next
strand that can issue (R206), then steps that the spec makes wait for a time the model does not count (log 8). -/

namespace Sys2Proof.Machine

/-- Steps of a strand's accesses, fences, commands, shadows and moves. -/
def State.strandMoves (s : State) (t : Nat) : List (State → Out1) :=
  let x := s.strand t
  (List.range x.port.length).map (execLoopBack t ·)
  ++ (List.range x.out.length).map (execDrain t · true)
  ++ x.pend.zipIdx.flatMap (fun (y : Pend × Nat) =>
      (List.range y.1.parts.length).map (execLoad t y.2 ·) ++ [execEnter t y.2, execAtomic t y.2])
  ++ (if x.fences.isEmpty then [] else [execFenceComplete t, execLbfencComplete t, execIfencComplete t, execEfencComplete t])
  ++ (match x.wait with
      | .accept => [execAccept t]
      | .publ _ => [execPublishStep t]
      | .disc _ => [execDiscardStep t]
      | .shadow _ => [execShadowOpen t]
      | _ => [])
  ++ (if x.fwd.isSome then [execMigrationComplete t, execForwardingEntryDrop t] else [])

/-- Steps of a command: what it has yet to read and to write, and its completion. -/
def Cmd.moves (c : Cmd) : List (State → Out1) :=
  ((List.range c.op.readCount).filter fun i => !c.got.has i).flatMap (fun (i : Nat) => [execEngineRead c.id i, execPark c.id (2 * i)])
  ++ ((List.range c.op.writeCount).filter fun j => !c.wrote.has j).flatMap (fun (j : Nat) => [execEngineWrite c.id j, execPark c.id (2 * j + 1)])
  ++ [execLbswpExchange c.id, execComplete c.id]

/-- Steps of item n of the network. -/
def itemMoves (n : Nat) (m : Msg) : List (State → Out1) :=
  [match m.body with
    | .decrement _ _ _ _ _ => execDecrement n
    | .record _ => execTaskRecordArrival n
    | .entry _ _ => execQueueEntryArrival n
    | .handover _ _ _ _ => execHandoverInstall n,
   execMessageForward n]

/-- Steps of a core. -/
def State.coreMoves (s : State) (core : Nat) : List (State → Out1) :=
  (if (s.core core).gate = 0 then [] else [execGateClosed core, execWake core, execPowerRestored core])
  ++ (if (s.core core).sig = 0 then [] else (List.range 16).map fun g => execHaltGroupStop core (BitVec.ofNat 4 g))
  ++ [execResidenceEnter core, execTaskAssign core]

/-- Steps of a partition. -/
def State.partMoves (s : State) (p : Nat) : List (State → Out1) :=
  let x := s.part p
  let b : BitVec 3 := BitVec.ofNat 3 p
  (List.range x.parkq.length).map (execReplay b ·)
  ++ (if x.swap.isSome then [execTierSwapComplete b] else [])
  ++ (if x.launches.isEmpty then [] else [execLaunchGrant b])
  ++ x.sets.flatMap (fun (y : Nat × BoltSet) => y.2.records.map fun (r : Nat × BoltRec) => execRoutingDecision b (BitVec.ofNat 4 y.1) r.1)
  ++ x.assays.flatMap (fun a => (List.range a.tiles.length).map (execAssayTileDecide b a.id ·))
  ++ x.slots.map (fun (y : Nat × BitVec 256) => execReplicaCompare b (BitVec.ofNat 11 y.1))
  ++ (if x.gang.isSome then [execChaltQuiet b] else [])

/-- Steps of the device to try, in order. Log 8 (DESIGN CHOICE). -/
def State.candidates (s : State) : List (State → Out1) :=
  s.strands.flatMap (fun (x : Nat × Strand) => s.strandMoves x.1)
  ++ s.cmds.flatMap Cmd.moves
  ++ s.net.zipIdx.flatMap (fun (x : Msg × Nat) => itemMoves x.2 x.1)
  ++ s.cores.flatMap (fun (x : Nat × Core) => s.coreMoves x.1)
  ++ s.cores.flatMap (fun (x : Nat × Core) =>
      if x.2.stealable.isSome then (List.range 48).map fun i => execSteal (clusterOf x.1 * 48 + i) else [])
  ++ s.parts.flatMap (fun (x : Nat × Part) => s.partMoves x.1)
  ++ s.dies.flatMap (fun (x : Nat × Die) => if x.2.forge.isEmpty then [] else [execForgeRun (BitVec.ofNat 3 x.1)])
  ++ s.ptePend.map (fun (x : Nat × Nat) => execPteCountUpdate (BitVec.ofNat 3 x.1) x.2)
  ++ s.ports.flatMap (fun (x : Nat × Port) => if h : x.1 < 12 then [execTransmitBlock ⟨x.1, h⟩] else [])
  ++ (if s.io.mbrun.isSome then [execMailboxOperationEnd] else [])
  ++ (if s.io.stage = 3 then [] else [execStage2, execStage3])

/-- Steps to try when no strand can issue. Log 8 (DESIGN CHOICE). -/
def State.lastCandidates (s : State) : List (State → Out1) :=
  s.strands.flatMap (fun (x : Nat × Strand) =>
    (if x.2.wait = .wfi then [execWfiTimeout x.1] else []) ++ (if x.2.st = .blocked then [execBlockedTimeout x.1] else [])
    ++ (if x.2.resident then [execResidenceLeave x.1] else []))
  ++ s.cores.flatMap (fun (x : Nat × Core) =>
      execGateClosing x.1 :: (List.range 3).map (execRecordAging x.1 ·))

/-- The strand of a core that issues next: the first that can in ascending frame order after the frame that issued last, wrapping (R206). -/
def State.coreNext (s : State) (core : Nat) : Option Nat :=
  ((List.range 16).map fun i => core * 16 + ((s.core core).last + 1 + i) % 16).find? fun t => s.issuable t || s.interrupted t

/-- The strand that issues next: cores take turns in ascending order. Log 8 (DESIGN CHOICE). -/
def State.nextStrand (s : State) : Option Nat :=
  let cs := (s.strands.map fun x => coreOf x.1).eraseDups
  ((cs.filter (coreOf s.cur < ·)) ++ cs.filter (· ≤ coreOf s.cur)).findSome? s.coreNext

end Sys2Proof.Machine
end

