-- ==== Sys2Proof/Machine/Step.lean ====
section
/-! DEFINITION. One step of the machine: a move of the schedule, or of the default order when the schedule is empty. -/

namespace Sys2Proof.Machine

/-- A strand issues: it takes an interrupt, a fetch fault, or executes the instruction its words decode to (R238). -/
def issue (t : Nat) (late : Bool) (s : State) : Out1 :=
  match s.prepare t late with
  | .idle => .next s
  | .taken s => .next s
  | .words w x s =>
    match decode w x with
    | .ok i => exec i s
    | .error _ => s.trapIr 0x01

/-- Perform an act. A step of the device is never an instruction word, nor the reverse. -/
def act (a : Act) (s : State) : Out1 :=
  match a with
  | .issue t => issue t false s
  | .issueLate t => issue t true s
  | .event i => if (encode i).isEmpty then exec i s else .fault .notEnabled
  | .idle => .next s

/-- The first of several steps that is possible. Log 8 (DESIGN CHOICE). -/
def firstEnabled : List (State → Out1) → State → Option State
  | [], _ => none
  | f :: fs, s =>
    match f s with
    | .next s' => some s'
    | _ => firstEnabled fs s

/-- One step: the instructions of registers alone that waited for a value and now know it run first (R116). -/
def step (s : State) : Host.Outcome State Fault Refusal :=
  let s := s.settleHeld exec
  match s.agenda with
  | m :: rest => act m.act { s with agenda := rest, cycle := s.cycle + BitVec.ofNat 64 m.dt, slip := m.slip }
  | [] =>
    let s := { s with cycle := s.cycle + 1, slip := false }
    match firstEnabled s.candidates s with
    | some s' => .next s'
    | none =>
      match s.nextStrand with
      | some t => issue t false s
      | none =>
        match firstEnabled s.lastCandidates s with
        | some s' => .next s'
        | none => .next s

/-- The local offset at which `withFetchWord` places an instruction. Log 5 (DEDUCED). -/
def fetchHome : Nat := 0x1000

/-- The state in which the next step fetches and runs the instruction whose low `nbits` bits are those of `w`: partition 0 holds
die 0, strand 0 runs there at master level, and the words stand in its core's local memory (log 5). -/
def State.withFetchWord (s : State) (nbits w : Nat) : State :=
  let s := { s with mem := Memory.writeN s.mem (coreAddr 0 fetchHome) 8 (w % 2 ^ nbits) }
  let s := { s with parts := s.parts.set 0 { s.part 0 with mask := 1, gang := none } }
  let s := { s with dies := s.dies.set 0 { s.die 0 with frames := 16 } }
  let s := s.setStrand 0 { s.strand 0 with
    pc := BitVec.ofNat 64 fetchHome, st := .ready, level := 2, resident := true, wait := .none, again := false, fbuf := [], pend := [], fences := [],
    tags := [], held := [], tagRet := none, irq := none, vecFetch := false }
  { s with agenda := [⟨0, .issue 0, false⟩] }

end Sys2Proof.Machine
end

