-- ==== Sys2Proof/Laws/PerInstr.lean ====
section
/-! SUPPORT. Claims made for every instruction as syntax, one lemma per constructor: the words of a well-formed instruction decode to it. -/

set_option linter.unusedSimpArgs false

namespace Sys2Proof.Laws.RoundTrip

set_option Elab.async false

/-- The words of an instruction decode to it, and its first word alone says how many there are. A device step has none. -/
def Good (i : Instr) : List IWord → Prop
  | [] => True
  | [w] => isLong w = false ∧ ∀ x, decode w x = .ok i
  | [w, x] => isLong w = true ∧ decode w x = .ok i
  | _ => False

def Statement (i : Instr) : Prop := i.wf = true → Good i (encode i)

/-! ## Fields of joined bit vectors -/

theorem ext_lo {m n : Nat} (x : BitVec m) (y : BitVec n) (k w : Nat) (h : k + w ≤ n) :
    (@HAppend.hAppend (BitVec m) (BitVec n) (no_index (BitVec (m + n))) _ x y).extractLsb' k w = y.extractLsb' k w := by
  apply BitVec.eq_of_getLsbD_eq
  intro i hi
  simp only [BitVec.getLsbD_extractLsb', BitVec.getLsbD_append]
  rw [if_pos (by omega)]

theorem ext_hi {m n : Nat} (x : BitVec m) (y : BitVec n) (k w : Nat) (h : n ≤ k) :
    (@HAppend.hAppend (BitVec m) (BitVec n) (no_index (BitVec (m + n))) _ x y).extractLsb' k w = x.extractLsb' (k - n) w := by
  apply BitVec.eq_of_getLsbD_eq
  intro i hi
  simp only [BitVec.getLsbD_extractLsb', BitVec.getLsbD_append]
  rw [if_neg (by omega), show k + i - n = k - n + i by omega]

theorem ext_all {n : Nat} (x : BitVec n) : x.extractLsb' 0 n = x := by simp

theorem good_one {i : Instr} {w : IWord} (e : encode i = [w]) (h : isLong w = false) (k : ∀ x, decode w x = .ok i) : Good i (encode i) := by
  rw [e]; exact ⟨h, k⟩

theorem good_two {i : Instr} {w x : IWord} (e : encode i = [w, x]) (h : isLong w = true) (k : decode w x = .ok i) : Good i (encode i) := by
  rw [e]; exact ⟨h, k⟩

theorem fork_p_sub (x : BitVec 29) (p : BitVec 2) :
    (@HAppend.hAppend (BitVec 30) (BitVec 2) (no_index (BitVec 32)) _ (@HAppend.hAppend (BitVec 29) (BitVec 1) (no_index (BitVec 30)) _ x 1#1) p).extractLsb' 0 3
      = 1#1 ++ p := by
  apply BitVec.eq_of_toNat_eq
  have h : ((x ++ 1#1 : BitVec 30) ++ p : BitVec 32).toNat = (x.toNat * 2 + 1) * 4 + p.toNat := by
    rw [BitVec.toNat_append, BitVec.toNat_append, ← Nat.shiftLeft_add_eq_or_of_lt p.isLt,
      ← Nat.shiftLeft_add_eq_or_of_lt (show (1#1).toNat < 2 ^ 1 by decide), Nat.shiftLeft_eq, Nat.shiftLeft_eq]
    rfl
  have h2 : ∀ q : BitVec 2, (1#1 ++ q : BitVec 3).toNat = 4 + q.toNat := by decide
  have := p.isLt
  rw [BitVec.extractLsb'_toNat, h2]
  show ((x ++ 1#1 : BitVec 30) ++ p : BitVec 32).toNat >>> 0 % 2 ^ 3 = _
  rw [h]; omega

theorem fork_p_ne (p : BitVec 2) : (1#1 ++ p == 0#3) = false := by revert p; decide

/-! ## The majors with selectors of their own -/

theorem decode01_of {w : IWord} (x : IWord) (h : w.extractLsb' 26 6 = 1#6) : decode w x = decode01 w := by
  simp only [decode, h]; rfl

theorem decode20_of {w : IWord} (x : IWord) (h : w.extractLsb' 26 6 = 32#6) : decode w x = decode20 w := by
  simp only [decode, h]; rfl

theorem decode21_of {w : IWord} (x : IWord) (h : w.extractLsb' 26 6 = 33#6) : decode w x = decode21 w := by
  simp only [decode, h]; rfl

theorem decode22_of {w : IWord} (x : IWord) (h : w.extractLsb' 26 6 = 34#6) : decode w x = decode22 w := by
  simp only [decode, h]; rfl

theorem decode23_of {w : IWord} (x : IWord) (h : w.extractLsb' 26 6 = 35#6) : decode w x = decode23 w := by
  simp only [decode, h]; rfl

theorem decode25_of {w : IWord} (x : IWord) (h : w.extractLsb' 26 6 = 37#6) : decode w x = decode25 w := by
  simp only [decode, h]; rfl

theorem decode26_of {w : IWord} (x : IWord) (h : w.extractLsb' 26 6 = 38#6) : decode w x = decode26 w := by
  simp only [decode, h]; rfl

theorem decode27_of {w : IWord} (x : IWord) (h : w.extractLsb' 26 6 = 39#6) : decode w x = decode27 w := by
  simp only [decode, h]; rfl

theorem decode29_of {w : IWord} (x : IWord) (h : w.extractLsb' 26 6 = 41#6) : decode w x = decode29 w := by
  simp only [decode, h]; rfl

theorem decode2A_of {w : IWord} (x : IWord) (h : w.extractLsb' 26 6 = 42#6) : decode w x = decode2A w := by
  simp only [decode, h]; rfl

theorem decode2B_of {w : IWord} (x : IWord) (h : w.extractLsb' 26 6 = 43#6) : decode w x = decode2B w := by
  simp only [decode, h]; rfl

theorem decode2C_of {w : IWord} (x : IWord) (h : w.extractLsb' 26 6 = 44#6) : decode w x = decode2C w := by
  simp only [decode, h]; rfl

theorem decode2D_of {w : IWord} (x : IWord) (h : w.extractLsb' 26 6 = 45#6) : decode w x = decode2D w := by
  simp only [decode, h]; rfl

theorem decode2E_of {w : IWord} (x : IWord) (h : w.extractLsb' 26 6 = 46#6) : decode w x = decode2E w := by
  simp only [decode, h]; rfl

theorem decode30_of {w : IWord} (x : IWord) (h : w.extractLsb' 26 6 = 48#6) : decode w x = decode30 w := by
  simp only [decode, h]; rfl

theorem decode31_of {w : IWord} (x : IWord) (h : w.extractLsb' 26 6 = 49#6) : decode w x = decode31 w := by
  simp only [decode, h]; rfl

theorem decode38_of {w : IWord} (x : IWord) (h : w.extractLsb' 26 6 = 56#6) : decode w x = decode38 w x := by
  simp only [decode, h]; rfl

theorem decode39_of {w : IWord} (x : IWord) (h : w.extractLsb' 26 6 = 57#6) : decode w x = decode39 w x := by
  simp only [decode, h]; rfl

theorem decode3A_of {w : IWord} (x : IWord) (h : w.extractLsb' 26 6 = 58#6) : decode w x = decode3A w x := by
  simp only [decode, h]; rfl

theorem decode3B_of {w : IWord} (x : IWord) (h : w.extractLsb' 26 6 = 59#6) : decode w x = decode3B w x := by
  simp only [decode, h]; rfl

theorem decode3C_of {w : IWord} (x : IWord) (h : w.extractLsb' 26 6 = 60#6) : decode w x = decode3C w x := by
  simp only [decode, h]; rfl

theorem decode3D_of {w : IWord} (x : IWord) (h : w.extractLsb' 26 6 = 61#6) : decode w x = decode3D w x := by
  simp only [decode, h]; rfl

theorem decode3E_of {w : IWord} (x : IWord) (h : w.extractLsb' 26 6 = 62#6) : decode w x = decode3E w x := by
  simp only [decode, h]; rfl

theorem decode3F_of {w : IWord} (x : IWord) (h : w.extractLsb' 26 6 = 63#6) : decode w x = decode3F w x := by
  simp only [decode, h]; rfl

/-! ## One lemma per constructor -/

theorem add (d : BitVec 5) (a : BitVec 5) (b : BitVec 5) (h : BitVec 2) : Statement (.add d a b h) := by
  intro hw
  refine good_one rfl ?_ fun x => ?_
  · simp only [isLong, ext_hi, ext_lo, Nat.reduceLeDiff, Nat.reduceSub, Nat.reduceAdd, BitVec.reduceExtractLsb']; decide
  · rw [decode01_of _ (by simp only [ext_hi, ext_lo, ext_all, Nat.reduceLeDiff, Nat.reduceSub, Nat.reduceAdd, BitVec.reduceExtractLsb'])]
    simp only [decode01, ext_hi, ext_lo, ext_all, Nat.reduceLeDiff, Nat.reduceSub, Nat.reduceAdd, BitVec.reduceToNat, BitVec.reduceExtractLsb', fieldsOk, hw, beq_self_eq_true,
      Bool.and_self, if_true]
theorem sub (d : BitVec 5) (a : BitVec 5) (b : BitVec 5) (h : BitVec 2) : Statement (.sub d a b h) := by
  intro hw
  refine good_one rfl ?_ fun x => ?_
  · simp only [isLong, ext_hi, ext_lo, Nat.reduceLeDiff, Nat.reduceSub, Nat.reduceAdd, BitVec.reduceExtractLsb']; decide
  · rw [decode01_of _ (by simp only [ext_hi, ext_lo, ext_all, Nat.reduceLeDiff, Nat.reduceSub, Nat.reduceAdd, BitVec.reduceExtractLsb'])]
    simp only [decode01, ext_hi, ext_lo, ext_all, Nat.reduceLeDiff, Nat.reduceSub, Nat.reduceAdd, BitVec.reduceToNat, BitVec.reduceExtractLsb', fieldsOk, hw, beq_self_eq_true,
      Bool.and_self, if_true]
theorem and (d : BitVec 5) (a : BitVec 5) (b : BitVec 5) (h : BitVec 2) : Statement (.and d a b h) := by
  intro hw
  refine good_one rfl ?_ fun x => ?_
  · simp only [isLong, ext_hi, ext_lo, Nat.reduceLeDiff, Nat.reduceSub, Nat.reduceAdd, BitVec.reduceExtractLsb']; decide
  · rw [decode01_of _ (by simp only [ext_hi, ext_lo, ext_all, Nat.reduceLeDiff, Nat.reduceSub, Nat.reduceAdd, BitVec.reduceExtractLsb'])]
    simp only [decode01, ext_hi, ext_lo, ext_all, Nat.reduceLeDiff, Nat.reduceSub, Nat.reduceAdd, BitVec.reduceToNat, BitVec.reduceExtractLsb', fieldsOk, hw, beq_self_eq_true,
      Bool.and_self, if_true]
theorem or (d : BitVec 5) (a : BitVec 5) (b : BitVec 5) (h : BitVec 2) : Statement (.or d a b h) := by
  intro hw
  refine good_one rfl ?_ fun x => ?_
  · simp only [isLong, ext_hi, ext_lo, Nat.reduceLeDiff, Nat.reduceSub, Nat.reduceAdd, BitVec.reduceExtractLsb']; decide
  · rw [decode01_of _ (by simp only [ext_hi, ext_lo, ext_all, Nat.reduceLeDiff, Nat.reduceSub, Nat.reduceAdd, BitVec.reduceExtractLsb'])]
    simp only [decode01, ext_hi, ext_lo, ext_all, Nat.reduceLeDiff, Nat.reduceSub, Nat.reduceAdd, BitVec.reduceToNat, BitVec.reduceExtractLsb', fieldsOk, hw, beq_self_eq_true,
      Bool.and_self, if_true]
theorem xor (d : BitVec 5) (a : BitVec 5) (b : BitVec 5) (h : BitVec 2) : Statement (.xor d a b h) := by
  intro hw
  refine good_one rfl ?_ fun x => ?_
  · simp only [isLong, ext_hi, ext_lo, Nat.reduceLeDiff, Nat.reduceSub, Nat.reduceAdd, BitVec.reduceExtractLsb']; decide
  · rw [decode01_of _ (by simp only [ext_hi, ext_lo, ext_all, Nat.reduceLeDiff, Nat.reduceSub, Nat.reduceAdd, BitVec.reduceExtractLsb'])]
    simp only [decode01, ext_hi, ext_lo, ext_all, Nat.reduceLeDiff, Nat.reduceSub, Nat.reduceAdd, BitVec.reduceToNat, BitVec.reduceExtractLsb', fieldsOk, hw, beq_self_eq_true,
      Bool.and_self, if_true]
theorem andn (d : BitVec 5) (a : BitVec 5) (b : BitVec 5) (h : BitVec 2) : Statement (.andn d a b h) := by
  intro hw
  refine good_one rfl ?_ fun x => ?_
  · simp only [isLong, ext_hi, ext_lo, Nat.reduceLeDiff, Nat.reduceSub, Nat.reduceAdd, BitVec.reduceExtractLsb']; decide
  · rw [decode01_of _ (by simp only [ext_hi, ext_lo, ext_all, Nat.reduceLeDiff, Nat.reduceSub, Nat.reduceAdd, BitVec.reduceExtractLsb'])]
    simp only [decode01, ext_hi, ext_lo, ext_all, Nat.reduceLeDiff, Nat.reduceSub, Nat.reduceAdd, BitVec.reduceToNat, BitVec.reduceExtractLsb', fieldsOk, hw, beq_self_eq_true,
      Bool.and_self, if_true]
theorem shl (d : BitVec 5) (a : BitVec 5) (b : BitVec 5) (h : BitVec 2) : Statement (.shl d a b h) := by
  intro hw
  refine good_one rfl ?_ fun x => ?_
  · simp only [isLong, ext_hi, ext_lo, Nat.reduceLeDiff, Nat.reduceSub, Nat.reduceAdd, BitVec.reduceExtractLsb']; decide
  · rw [decode01_of _ (by simp only [ext_hi, ext_lo, ext_all, Nat.reduceLeDiff, Nat.reduceSub, Nat.reduceAdd, BitVec.reduceExtractLsb'])]
    simp only [decode01, ext_hi, ext_lo, ext_all, Nat.reduceLeDiff, Nat.reduceSub, Nat.reduceAdd, BitVec.reduceToNat, BitVec.reduceExtractLsb', fieldsOk, hw, beq_self_eq_true,
      Bool.and_self, if_true]
theorem shr (d : BitVec 5) (a : BitVec 5) (b : BitVec 5) (h : BitVec 2) : Statement (.shr d a b h) := by
  intro hw
  refine good_one rfl ?_ fun x => ?_
  · simp only [isLong, ext_hi, ext_lo, Nat.reduceLeDiff, Nat.reduceSub, Nat.reduceAdd, BitVec.reduceExtractLsb']; decide
  · rw [decode01_of _ (by simp only [ext_hi, ext_lo, ext_all, Nat.reduceLeDiff, Nat.reduceSub, Nat.reduceAdd, BitVec.reduceExtractLsb'])]
    simp only [decode01, ext_hi, ext_lo, ext_all, Nat.reduceLeDiff, Nat.reduceSub, Nat.reduceAdd, BitVec.reduceToNat, BitVec.reduceExtractLsb', fieldsOk, hw, beq_self_eq_true,
      Bool.and_self, if_true]
theorem sha (d : BitVec 5) (a : BitVec 5) (b : BitVec 5) (h : BitVec 2) : Statement (.sha d a b h) := by
  intro hw
  refine good_one rfl ?_ fun x => ?_
  · simp only [isLong, ext_hi, ext_lo, Nat.reduceLeDiff, Nat.reduceSub, Nat.reduceAdd, BitVec.reduceExtractLsb']; decide
  · rw [decode01_of _ (by simp only [ext_hi, ext_lo, ext_all, Nat.reduceLeDiff, Nat.reduceSub, Nat.reduceAdd, BitVec.reduceExtractLsb'])]
    simp only [decode01, ext_hi, ext_lo, ext_all, Nat.reduceLeDiff, Nat.reduceSub, Nat.reduceAdd, BitVec.reduceToNat, BitVec.reduceExtractLsb', fieldsOk, hw, beq_self_eq_true,
      Bool.and_self, if_true]
theorem rotl (d : BitVec 5) (a : BitVec 5) (b : BitVec 5) (h : BitVec 2) : Statement (.rotl d a b h) := by
  intro hw
  refine good_one rfl ?_ fun x => ?_
  · simp only [isLong, ext_hi, ext_lo, Nat.reduceLeDiff, Nat.reduceSub, Nat.reduceAdd, BitVec.reduceExtractLsb']; decide
  · rw [decode01_of _ (by simp only [ext_hi, ext_lo, ext_all, Nat.reduceLeDiff, Nat.reduceSub, Nat.reduceAdd, BitVec.reduceExtractLsb'])]
    simp only [decode01, ext_hi, ext_lo, ext_all, Nat.reduceLeDiff, Nat.reduceSub, Nat.reduceAdd, BitVec.reduceToNat, BitVec.reduceExtractLsb', fieldsOk, hw, beq_self_eq_true,
      Bool.and_self, if_true]
theorem min (d : BitVec 5) (a : BitVec 5) (b : BitVec 5) (h : BitVec 2) : Statement (.min d a b h) := by
  intro hw
  refine good_one rfl ?_ fun x => ?_
  · simp only [isLong, ext_hi, ext_lo, Nat.reduceLeDiff, Nat.reduceSub, Nat.reduceAdd, BitVec.reduceExtractLsb']; decide
  · rw [decode01_of _ (by simp only [ext_hi, ext_lo, ext_all, Nat.reduceLeDiff, Nat.reduceSub, Nat.reduceAdd, BitVec.reduceExtractLsb'])]
    simp only [decode01, ext_hi, ext_lo, ext_all, Nat.reduceLeDiff, Nat.reduceSub, Nat.reduceAdd, BitVec.reduceToNat, BitVec.reduceExtractLsb', fieldsOk, hw, beq_self_eq_true,
      Bool.and_self, if_true]
theorem max (d : BitVec 5) (a : BitVec 5) (b : BitVec 5) (h : BitVec 2) : Statement (.max d a b h) := by
  intro hw
  refine good_one rfl ?_ fun x => ?_
  · simp only [isLong, ext_hi, ext_lo, Nat.reduceLeDiff, Nat.reduceSub, Nat.reduceAdd, BitVec.reduceExtractLsb']; decide
  · rw [decode01_of _ (by simp only [ext_hi, ext_lo, ext_all, Nat.reduceLeDiff, Nat.reduceSub, Nat.reduceAdd, BitVec.reduceExtractLsb'])]
    simp only [decode01, ext_hi, ext_lo, ext_all, Nat.reduceLeDiff, Nat.reduceSub, Nat.reduceAdd, BitVec.reduceToNat, BitVec.reduceExtractLsb', fieldsOk, hw, beq_self_eq_true,
      Bool.and_self, if_true]
theorem minn (d : BitVec 5) (a : BitVec 5) (b : BitVec 5) (h : BitVec 2) : Statement (.minn d a b h) := by
  intro hw
  refine good_one rfl ?_ fun x => ?_
  · simp only [isLong, ext_hi, ext_lo, Nat.reduceLeDiff, Nat.reduceSub, Nat.reduceAdd, BitVec.reduceExtractLsb']; decide
  · rw [decode01_of _ (by simp only [ext_hi, ext_lo, ext_all, Nat.reduceLeDiff, Nat.reduceSub, Nat.reduceAdd, BitVec.reduceExtractLsb'])]
    simp only [decode01, ext_hi, ext_lo, ext_all, Nat.reduceLeDiff, Nat.reduceSub, Nat.reduceAdd, BitVec.reduceToNat, BitVec.reduceExtractLsb', fieldsOk, hw, beq_self_eq_true,
      Bool.and_self, if_true]
theorem maxn (d : BitVec 5) (a : BitVec 5) (b : BitVec 5) (h : BitVec 2) : Statement (.maxn d a b h) := by
  intro hw
  refine good_one rfl ?_ fun x => ?_
  · simp only [isLong, ext_hi, ext_lo, Nat.reduceLeDiff, Nat.reduceSub, Nat.reduceAdd, BitVec.reduceExtractLsb']; decide
  · rw [decode01_of _ (by simp only [ext_hi, ext_lo, ext_all, Nat.reduceLeDiff, Nat.reduceSub, Nat.reduceAdd, BitVec.reduceExtractLsb'])]
    simp only [decode01, ext_hi, ext_lo, ext_all, Nat.reduceLeDiff, Nat.reduceSub, Nat.reduceAdd, BitVec.reduceToNat, BitVec.reduceExtractLsb', fieldsOk, hw, beq_self_eq_true,
      Bool.and_self, if_true]
theorem slt (d : BitVec 5) (a : BitVec 5) (b : BitVec 5) (h : BitVec 2) : Statement (.slt d a b h) := by
  intro hw
  refine good_one rfl ?_ fun x => ?_
  · simp only [isLong, ext_hi, ext_lo, Nat.reduceLeDiff, Nat.reduceSub, Nat.reduceAdd, BitVec.reduceExtractLsb']; decide
  · rw [decode01_of _ (by simp only [ext_hi, ext_lo, ext_all, Nat.reduceLeDiff, Nat.reduceSub, Nat.reduceAdd, BitVec.reduceExtractLsb'])]
    simp only [decode01, ext_hi, ext_lo, ext_all, Nat.reduceLeDiff, Nat.reduceSub, Nat.reduceAdd, BitVec.reduceToNat, BitVec.reduceExtractLsb', fieldsOk, hw, beq_self_eq_true,
      Bool.and_self, if_true]
theorem sltn (d : BitVec 5) (a : BitVec 5) (b : BitVec 5) (h : BitVec 2) : Statement (.sltn d a b h) := by
  intro hw
  refine good_one rfl ?_ fun x => ?_
  · simp only [isLong, ext_hi, ext_lo, Nat.reduceLeDiff, Nat.reduceSub, Nat.reduceAdd, BitVec.reduceExtractLsb']; decide
  · rw [decode01_of _ (by simp only [ext_hi, ext_lo, ext_all, Nat.reduceLeDiff, Nat.reduceSub, Nat.reduceAdd, BitVec.reduceExtractLsb'])]
    simp only [decode01, ext_hi, ext_lo, ext_all, Nat.reduceLeDiff, Nat.reduceSub, Nat.reduceAdd, BitVec.reduceToNat, BitVec.reduceExtractLsb', fieldsOk, hw, beq_self_eq_true,
      Bool.and_self, if_true]
theorem seq (d : BitVec 5) (a : BitVec 5) (b : BitVec 5) (h : BitVec 2) : Statement (.seq d a b h) := by
  intro hw
  refine good_one rfl ?_ fun x => ?_
  · simp only [isLong, ext_hi, ext_lo, Nat.reduceLeDiff, Nat.reduceSub, Nat.reduceAdd, BitVec.reduceExtractLsb']; decide
  · rw [decode01_of _ (by simp only [ext_hi, ext_lo, ext_all, Nat.reduceLeDiff, Nat.reduceSub, Nat.reduceAdd, BitVec.reduceExtractLsb'])]
    simp only [decode01, ext_hi, ext_lo, ext_all, Nat.reduceLeDiff, Nat.reduceSub, Nat.reduceAdd, BitVec.reduceToNat, BitVec.reduceExtractLsb', fieldsOk, hw, beq_self_eq_true,
      Bool.and_self, if_true]
theorem clz (d : BitVec 5) (a : BitVec 5) (h : BitVec 2) : Statement (.clz d a h) := by
  intro hw
  refine good_one rfl ?_ fun x => ?_
  · simp only [isLong, ext_hi, ext_lo, Nat.reduceLeDiff, Nat.reduceSub, Nat.reduceAdd, BitVec.reduceExtractLsb']; decide
  · rw [decode01_of _ (by simp only [ext_hi, ext_lo, ext_all, Nat.reduceLeDiff, Nat.reduceSub, Nat.reduceAdd, BitVec.reduceExtractLsb'])]
    simp only [decode01, ext_hi, ext_lo, ext_all, Nat.reduceLeDiff, Nat.reduceSub, Nat.reduceAdd, BitVec.reduceToNat, BitVec.reduceExtractLsb', fieldsOk, hw, beq_self_eq_true,
      Bool.and_self, if_true]
theorem ctz (d : BitVec 5) (a : BitVec 5) (h : BitVec 2) : Statement (.ctz d a h) := by
  intro hw
  refine good_one rfl ?_ fun x => ?_
  · simp only [isLong, ext_hi, ext_lo, Nat.reduceLeDiff, Nat.reduceSub, Nat.reduceAdd, BitVec.reduceExtractLsb']; decide
  · rw [decode01_of _ (by simp only [ext_hi, ext_lo, ext_all, Nat.reduceLeDiff, Nat.reduceSub, Nat.reduceAdd, BitVec.reduceExtractLsb'])]
    simp only [decode01, ext_hi, ext_lo, ext_all, Nat.reduceLeDiff, Nat.reduceSub, Nat.reduceAdd, BitVec.reduceToNat, BitVec.reduceExtractLsb', fieldsOk, hw, beq_self_eq_true,
      Bool.and_self, if_true]
theorem popc (d : BitVec 5) (a : BitVec 5) (h : BitVec 2) : Statement (.popc d a h) := by
  intro hw
  refine good_one rfl ?_ fun x => ?_
  · simp only [isLong, ext_hi, ext_lo, Nat.reduceLeDiff, Nat.reduceSub, Nat.reduceAdd, BitVec.reduceExtractLsb']; decide
  · rw [decode01_of _ (by simp only [ext_hi, ext_lo, ext_all, Nat.reduceLeDiff, Nat.reduceSub, Nat.reduceAdd, BitVec.reduceExtractLsb'])]
    simp only [decode01, ext_hi, ext_lo, ext_all, Nat.reduceLeDiff, Nat.reduceSub, Nat.reduceAdd, BitVec.reduceToNat, BitVec.reduceExtractLsb', fieldsOk, hw, beq_self_eq_true,
      Bool.and_self, if_true]
theorem sext (d : BitVec 5) (a : BitVec 5) (h : BitVec 2) (s : BitVec 3) : Statement (.sext d a h s) := by
  intro hw
  refine good_one rfl ?_ fun x => ?_
  · simp only [isLong, ext_hi, ext_lo, Nat.reduceLeDiff, Nat.reduceSub, Nat.reduceAdd, BitVec.reduceExtractLsb']; decide
  · rw [decode01_of _ (by simp only [ext_hi, ext_lo, ext_all, Nat.reduceLeDiff, Nat.reduceSub, Nat.reduceAdd, BitVec.reduceExtractLsb'])]
    simp only [decode01, ext_hi, ext_lo, ext_all, Nat.reduceLeDiff, Nat.reduceSub, Nat.reduceAdd, BitVec.reduceToNat, BitVec.reduceExtractLsb', fieldsOk, hw, beq_self_eq_true,
      Bool.and_self, if_true]
theorem zext (d : BitVec 5) (a : BitVec 5) (h : BitVec 2) (s : BitVec 3) : Statement (.zext d a h s) := by
  intro hw
  refine good_one rfl ?_ fun x => ?_
  · simp only [isLong, ext_hi, ext_lo, Nat.reduceLeDiff, Nat.reduceSub, Nat.reduceAdd, BitVec.reduceExtractLsb']; decide
  · rw [decode01_of _ (by simp only [ext_hi, ext_lo, ext_all, Nat.reduceLeDiff, Nat.reduceSub, Nat.reduceAdd, BitVec.reduceExtractLsb'])]
    simp only [decode01, ext_hi, ext_lo, ext_all, Nat.reduceLeDiff, Nat.reduceSub, Nat.reduceAdd, BitVec.reduceToNat, BitVec.reduceExtractLsb', fieldsOk, hw, beq_self_eq_true,
      Bool.and_self, if_true]
theorem lea (d : BitVec 5) (a : BitVec 5) (b : BitVec 5) (h : BitVec 2) (s : BitVec 3) : Statement (.lea d a b h s) := by
  intro hw
  refine good_one rfl ?_ fun x => ?_
  · simp only [isLong, ext_hi, ext_lo, Nat.reduceLeDiff, Nat.reduceSub, Nat.reduceAdd, BitVec.reduceExtractLsb']; decide
  · rw [decode01_of _ (by simp only [ext_hi, ext_lo, ext_all, Nat.reduceLeDiff, Nat.reduceSub, Nat.reduceAdd, BitVec.reduceExtractLsb'])]
    simp only [decode01, ext_hi, ext_lo, ext_all, Nat.reduceLeDiff, Nat.reduceSub, Nat.reduceAdd, BitVec.reduceToNat, BitVec.reduceExtractLsb', fieldsOk, hw, beq_self_eq_true,
      Bool.and_self, if_true]
theorem mul (d : BitVec 5) (a : BitVec 5) (b : BitVec 5) (h : BitVec 2) : Statement (.mul d a b h) := by
  intro hw
  refine good_one rfl ?_ fun x => ?_
  · simp only [isLong, ext_hi, ext_lo, Nat.reduceLeDiff, Nat.reduceSub, Nat.reduceAdd, BitVec.reduceExtractLsb']; decide
  · rw [decode01_of _ (by simp only [ext_hi, ext_lo, ext_all, Nat.reduceLeDiff, Nat.reduceSub, Nat.reduceAdd, BitVec.reduceExtractLsb'])]
    simp only [decode01, ext_hi, ext_lo, ext_all, Nat.reduceLeDiff, Nat.reduceSub, Nat.reduceAdd, BitVec.reduceToNat, BitVec.reduceExtractLsb', fieldsOk, hw, beq_self_eq_true,
      Bool.and_self, if_true]
theorem mulh (d : BitVec 5) (a : BitVec 5) (b : BitVec 5) (h : BitVec 2) : Statement (.mulh d a b h) := by
  intro hw
  refine good_one rfl ?_ fun x => ?_
  · simp only [isLong, ext_hi, ext_lo, Nat.reduceLeDiff, Nat.reduceSub, Nat.reduceAdd, BitVec.reduceExtractLsb']; decide
  · rw [decode01_of _ (by simp only [ext_hi, ext_lo, ext_all, Nat.reduceLeDiff, Nat.reduceSub, Nat.reduceAdd, BitVec.reduceExtractLsb'])]
    simp only [decode01, ext_hi, ext_lo, ext_all, Nat.reduceLeDiff, Nat.reduceSub, Nat.reduceAdd, BitVec.reduceToNat, BitVec.reduceExtractLsb', fieldsOk, hw, beq_self_eq_true,
      Bool.and_self, if_true]
theorem mulhn (d : BitVec 5) (a : BitVec 5) (b : BitVec 5) (h : BitVec 2) : Statement (.mulhn d a b h) := by
  intro hw
  refine good_one rfl ?_ fun x => ?_
  · simp only [isLong, ext_hi, ext_lo, Nat.reduceLeDiff, Nat.reduceSub, Nat.reduceAdd, BitVec.reduceExtractLsb']; decide
  · rw [decode01_of _ (by simp only [ext_hi, ext_lo, ext_all, Nat.reduceLeDiff, Nat.reduceSub, Nat.reduceAdd, BitVec.reduceExtractLsb'])]
    simp only [decode01, ext_hi, ext_lo, ext_all, Nat.reduceLeDiff, Nat.reduceSub, Nat.reduceAdd, BitVec.reduceToNat, BitVec.reduceExtractLsb', fieldsOk, hw, beq_self_eq_true,
      Bool.and_self, if_true]
theorem div (d : BitVec 5) (a : BitVec 5) (b : BitVec 5) (h : BitVec 2) : Statement (.div d a b h) := by
  intro hw
  refine good_one rfl ?_ fun x => ?_
  · simp only [isLong, ext_hi, ext_lo, Nat.reduceLeDiff, Nat.reduceSub, Nat.reduceAdd, BitVec.reduceExtractLsb']; decide
  · rw [decode01_of _ (by simp only [ext_hi, ext_lo, ext_all, Nat.reduceLeDiff, Nat.reduceSub, Nat.reduceAdd, BitVec.reduceExtractLsb'])]
    simp only [decode01, ext_hi, ext_lo, ext_all, Nat.reduceLeDiff, Nat.reduceSub, Nat.reduceAdd, BitVec.reduceToNat, BitVec.reduceExtractLsb', fieldsOk, hw, beq_self_eq_true,
      Bool.and_self, if_true]
theorem divn (d : BitVec 5) (a : BitVec 5) (b : BitVec 5) (h : BitVec 2) : Statement (.divn d a b h) := by
  intro hw
  refine good_one rfl ?_ fun x => ?_
  · simp only [isLong, ext_hi, ext_lo, Nat.reduceLeDiff, Nat.reduceSub, Nat.reduceAdd, BitVec.reduceExtractLsb']; decide
  · rw [decode01_of _ (by simp only [ext_hi, ext_lo, ext_all, Nat.reduceLeDiff, Nat.reduceSub, Nat.reduceAdd, BitVec.reduceExtractLsb'])]
    simp only [decode01, ext_hi, ext_lo, ext_all, Nat.reduceLeDiff, Nat.reduceSub, Nat.reduceAdd, BitVec.reduceToNat, BitVec.reduceExtractLsb', fieldsOk, hw, beq_self_eq_true,
      Bool.and_self, if_true]
theorem rem (d : BitVec 5) (a : BitVec 5) (b : BitVec 5) (h : BitVec 2) : Statement (.rem d a b h) := by
  intro hw
  refine good_one rfl ?_ fun x => ?_
  · simp only [isLong, ext_hi, ext_lo, Nat.reduceLeDiff, Nat.reduceSub, Nat.reduceAdd, BitVec.reduceExtractLsb']; decide
  · rw [decode01_of _ (by simp only [ext_hi, ext_lo, ext_all, Nat.reduceLeDiff, Nat.reduceSub, Nat.reduceAdd, BitVec.reduceExtractLsb'])]
    simp only [decode01, ext_hi, ext_lo, ext_all, Nat.reduceLeDiff, Nat.reduceSub, Nat.reduceAdd, BitVec.reduceToNat, BitVec.reduceExtractLsb', fieldsOk, hw, beq_self_eq_true,
      Bool.and_self, if_true]
theorem remn (d : BitVec 5) (a : BitVec 5) (b : BitVec 5) (h : BitVec 2) : Statement (.remn d a b h) := by
  intro hw
  refine good_one rfl ?_ fun x => ?_
  · simp only [isLong, ext_hi, ext_lo, Nat.reduceLeDiff, Nat.reduceSub, Nat.reduceAdd, BitVec.reduceExtractLsb']; decide
  · rw [decode01_of _ (by simp only [ext_hi, ext_lo, ext_all, Nat.reduceLeDiff, Nat.reduceSub, Nat.reduceAdd, BitVec.reduceExtractLsb'])]
    simp only [decode01, ext_hi, ext_lo, ext_all, Nat.reduceLeDiff, Nat.reduceSub, Nat.reduceAdd, BitVec.reduceToNat, BitVec.reduceExtractLsb', fieldsOk, hw, beq_self_eq_true,
      Bool.and_self, if_true]
theorem cmov (d : BitVec 5) (a : BitVec 5) (b : BitVec 5) (h : BitVec 2) : Statement (.cmov d a b h) := by
  intro hw
  refine good_one rfl ?_ fun x => ?_
  · simp only [isLong, ext_hi, ext_lo, Nat.reduceLeDiff, Nat.reduceSub, Nat.reduceAdd, BitVec.reduceExtractLsb']; decide
  · rw [decode01_of _ (by simp only [ext_hi, ext_lo, ext_all, Nat.reduceLeDiff, Nat.reduceSub, Nat.reduceAdd, BitVec.reduceExtractLsb'])]
    simp only [decode01, ext_hi, ext_lo, ext_all, Nat.reduceLeDiff, Nat.reduceSub, Nat.reduceAdd, BitVec.reduceToNat, BitVec.reduceExtractLsb', fieldsOk, hw, beq_self_eq_true,
      Bool.and_self, if_true]
theorem addi (d : BitVec 5) (a : BitVec 5) (i : BitVec 16) : Statement (.addi d a i) := by
  intro hw
  refine good_one rfl ?_ fun x => ?_
  · simp only [isLong, ext_hi, ext_lo, Nat.reduceLeDiff, Nat.reduceSub, Nat.reduceAdd, BitVec.reduceExtractLsb']; decide
  · simp only [decode, ext_hi, ext_lo, ext_all, Nat.reduceLeDiff, Nat.reduceSub, Nat.reduceAdd, BitVec.reduceToNat, BitVec.reduceExtractLsb', fieldsOk, hw, beq_self_eq_true,
      Bool.and_self, if_true]
theorem andi (d : BitVec 5) (a : BitVec 5) (i : BitVec 16) : Statement (.andi d a i) := by
  intro hw
  refine good_one rfl ?_ fun x => ?_
  · simp only [isLong, ext_hi, ext_lo, Nat.reduceLeDiff, Nat.reduceSub, Nat.reduceAdd, BitVec.reduceExtractLsb']; decide
  · simp only [decode, ext_hi, ext_lo, ext_all, Nat.reduceLeDiff, Nat.reduceSub, Nat.reduceAdd, BitVec.reduceToNat, BitVec.reduceExtractLsb', fieldsOk, hw, beq_self_eq_true,
      Bool.and_self, if_true]
theorem ori (d : BitVec 5) (a : BitVec 5) (i : BitVec 16) : Statement (.ori d a i) := by
  intro hw
  refine good_one rfl ?_ fun x => ?_
  · simp only [isLong, ext_hi, ext_lo, Nat.reduceLeDiff, Nat.reduceSub, Nat.reduceAdd, BitVec.reduceExtractLsb']; decide
  · simp only [decode, ext_hi, ext_lo, ext_all, Nat.reduceLeDiff, Nat.reduceSub, Nat.reduceAdd, BitVec.reduceToNat, BitVec.reduceExtractLsb', fieldsOk, hw, beq_self_eq_true,
      Bool.and_self, if_true]
theorem xori (d : BitVec 5) (a : BitVec 5) (i : BitVec 16) : Statement (.xori d a i) := by
  intro hw
  refine good_one rfl ?_ fun x => ?_
  · simp only [isLong, ext_hi, ext_lo, Nat.reduceLeDiff, Nat.reduceSub, Nat.reduceAdd, BitVec.reduceExtractLsb']; decide
  · simp only [decode, ext_hi, ext_lo, ext_all, Nat.reduceLeDiff, Nat.reduceSub, Nat.reduceAdd, BitVec.reduceToNat, BitVec.reduceExtractLsb', fieldsOk, hw, beq_self_eq_true,
      Bool.and_self, if_true]
theorem slti (d : BitVec 5) (a : BitVec 5) (i : BitVec 16) : Statement (.slti d a i) := by
  intro hw
  refine good_one rfl ?_ fun x => ?_
  · simp only [isLong, ext_hi, ext_lo, Nat.reduceLeDiff, Nat.reduceSub, Nat.reduceAdd, BitVec.reduceExtractLsb']; decide
  · simp only [decode, ext_hi, ext_lo, ext_all, Nat.reduceLeDiff, Nat.reduceSub, Nat.reduceAdd, BitVec.reduceToNat, BitVec.reduceExtractLsb', fieldsOk, hw, beq_self_eq_true,
      Bool.and_self, if_true]
theorem shi (d : BitVec 5) (a : BitVec 5) (k : BitVec 2) (c : BitVec 6) : Statement (.shi d a k c) := by
  intro hw
  refine good_one rfl ?_ fun x => ?_
  · simp only [isLong, ext_hi, ext_lo, Nat.reduceLeDiff, Nat.reduceSub, Nat.reduceAdd, BitVec.reduceExtractLsb']; decide
  · simp only [decode, ext_hi, ext_lo, ext_all, Nat.reduceLeDiff, Nat.reduceSub, Nat.reduceAdd, BitVec.reduceToNat, BitVec.reduceExtractLsb', fieldsOk, hw, beq_self_eq_true,
      Bool.and_self, if_true]
theorem lih (d : BitVec 5) (i : BitVec 16) : Statement (.lih d i) := by
  intro hw
  refine good_one rfl ?_ fun x => ?_
  · simp only [isLong, ext_hi, ext_lo, Nat.reduceLeDiff, Nat.reduceSub, Nat.reduceAdd, BitVec.reduceExtractLsb']; decide
  · simp only [decode, ext_hi, ext_lo, ext_all, Nat.reduceLeDiff, Nat.reduceSub, Nat.reduceAdd, BitVec.reduceToNat, BitVec.reduceExtractLsb', fieldsOk, hw, beq_self_eq_true,
      Bool.and_self, if_true]
theorem lix (d : BitVec 5) (a : BitVec 5) (i : BitVec 16) : Statement (.lix d a i) := by
  intro hw
  refine good_one rfl ?_ fun x => ?_
  · simp only [isLong, ext_hi, ext_lo, Nat.reduceLeDiff, Nat.reduceSub, Nat.reduceAdd, BitVec.reduceExtractLsb']; decide
  · simp only [decode, ext_hi, ext_lo, ext_all, Nat.reduceLeDiff, Nat.reduceSub, Nat.reduceAdd, BitVec.reduceToNat, BitVec.reduceExtractLsb', fieldsOk, hw, beq_self_eq_true,
      Bool.and_self, if_true]
theorem beq (a : BitVec 5) (b : BitVec 5) (i : BitVec 16) : Statement (.beq a b i) := by
  intro hw
  refine good_one rfl ?_ fun x => ?_
  · simp only [isLong, ext_hi, ext_lo, Nat.reduceLeDiff, Nat.reduceSub, Nat.reduceAdd, BitVec.reduceExtractLsb']; decide
  · simp only [decode, ext_hi, ext_lo, ext_all, Nat.reduceLeDiff, Nat.reduceSub, Nat.reduceAdd, BitVec.reduceToNat, BitVec.reduceExtractLsb', fieldsOk, hw, beq_self_eq_true,
      Bool.and_self, if_true]
theorem bne (a : BitVec 5) (b : BitVec 5) (i : BitVec 16) : Statement (.bne a b i) := by
  intro hw
  refine good_one rfl ?_ fun x => ?_
  · simp only [isLong, ext_hi, ext_lo, Nat.reduceLeDiff, Nat.reduceSub, Nat.reduceAdd, BitVec.reduceExtractLsb']; decide
  · simp only [decode, ext_hi, ext_lo, ext_all, Nat.reduceLeDiff, Nat.reduceSub, Nat.reduceAdd, BitVec.reduceToNat, BitVec.reduceExtractLsb', fieldsOk, hw, beq_self_eq_true,
      Bool.and_self, if_true]
theorem blt (a : BitVec 5) (b : BitVec 5) (i : BitVec 16) : Statement (.blt a b i) := by
  intro hw
  refine good_one rfl ?_ fun x => ?_
  · simp only [isLong, ext_hi, ext_lo, Nat.reduceLeDiff, Nat.reduceSub, Nat.reduceAdd, BitVec.reduceExtractLsb']; decide
  · simp only [decode, ext_hi, ext_lo, ext_all, Nat.reduceLeDiff, Nat.reduceSub, Nat.reduceAdd, BitVec.reduceToNat, BitVec.reduceExtractLsb', fieldsOk, hw, beq_self_eq_true,
      Bool.and_self, if_true]
theorem bge (a : BitVec 5) (b : BitVec 5) (i : BitVec 16) : Statement (.bge a b i) := by
  intro hw
  refine good_one rfl ?_ fun x => ?_
  · simp only [isLong, ext_hi, ext_lo, Nat.reduceLeDiff, Nat.reduceSub, Nat.reduceAdd, BitVec.reduceExtractLsb']; decide
  · simp only [decode, ext_hi, ext_lo, ext_all, Nat.reduceLeDiff, Nat.reduceSub, Nat.reduceAdd, BitVec.reduceToNat, BitVec.reduceExtractLsb', fieldsOk, hw, beq_self_eq_true,
      Bool.and_self, if_true]
theorem bltn (a : BitVec 5) (b : BitVec 5) (i : BitVec 16) : Statement (.bltn a b i) := by
  intro hw
  refine good_one rfl ?_ fun x => ?_
  · simp only [isLong, ext_hi, ext_lo, Nat.reduceLeDiff, Nat.reduceSub, Nat.reduceAdd, BitVec.reduceExtractLsb']; decide
  · simp only [decode, ext_hi, ext_lo, ext_all, Nat.reduceLeDiff, Nat.reduceSub, Nat.reduceAdd, BitVec.reduceToNat, BitVec.reduceExtractLsb', fieldsOk, hw, beq_self_eq_true,
      Bool.and_self, if_true]
theorem bgen (a : BitVec 5) (b : BitVec 5) (i : BitVec 16) : Statement (.bgen a b i) := by
  intro hw
  refine good_one rfl ?_ fun x => ?_
  · simp only [isLong, ext_hi, ext_lo, Nat.reduceLeDiff, Nat.reduceSub, Nat.reduceAdd, BitVec.reduceExtractLsb']; decide
  · simp only [decode, ext_hi, ext_lo, ext_all, Nat.reduceLeDiff, Nat.reduceSub, Nat.reduceAdd, BitVec.reduceToNat, BitVec.reduceExtractLsb', fieldsOk, hw, beq_self_eq_true,
      Bool.and_self, if_true]
theorem j (i : BitVec 26) : Statement (.j i) := by
  intro hw
  refine good_one rfl ?_ fun x => ?_
  · simp only [isLong, ext_hi, ext_lo, Nat.reduceLeDiff, Nat.reduceSub, Nat.reduceAdd, BitVec.reduceExtractLsb']; decide
  · simp only [decode, ext_hi, ext_lo, ext_all, Nat.reduceLeDiff, Nat.reduceSub, Nat.reduceAdd, BitVec.reduceToNat, BitVec.reduceExtractLsb', fieldsOk, hw, beq_self_eq_true,
      Bool.and_self, if_true]
theorem jl (i : BitVec 26) : Statement (.jl i) := by
  intro hw
  refine good_one rfl ?_ fun x => ?_
  · simp only [isLong, ext_hi, ext_lo, Nat.reduceLeDiff, Nat.reduceSub, Nat.reduceAdd, BitVec.reduceExtractLsb']; decide
  · simp only [decode, ext_hi, ext_lo, ext_all, Nat.reduceLeDiff, Nat.reduceSub, Nat.reduceAdd, BitVec.reduceToNat, BitVec.reduceExtractLsb', fieldsOk, hw, beq_self_eq_true,
      Bool.and_self, if_true]
theorem jlr (d : BitVec 5) (a : BitVec 5) (i : BitVec 16) : Statement (.jlr d a i) := by
  intro hw
  refine good_one rfl ?_ fun x => ?_
  · simp only [isLong, ext_hi, ext_lo, Nat.reduceLeDiff, Nat.reduceSub, Nat.reduceAdd, BitVec.reduceExtractLsb']; decide
  · simp only [decode, ext_hi, ext_lo, ext_all, Nat.reduceLeDiff, Nat.reduceSub, Nat.reduceAdd, BitVec.reduceToNat, BitVec.reduceExtractLsb', fieldsOk, hw, beq_self_eq_true,
      Bool.and_self, if_true]
theorem lds (d : BitVec 5) (a : BitVec 5) (w : BitVec 3) (i : BitVec 13) : Statement (.lds d a w i) := by
  intro hw
  refine good_one rfl ?_ fun x => ?_
  · simp only [isLong, ext_hi, ext_lo, Nat.reduceLeDiff, Nat.reduceSub, Nat.reduceAdd, BitVec.reduceExtractLsb']; decide
  · simp only [decode, ext_hi, ext_lo, ext_all, Nat.reduceLeDiff, Nat.reduceSub, Nat.reduceAdd, BitVec.reduceToNat, BitVec.reduceExtractLsb', fieldsOk, hw, beq_self_eq_true,
      Bool.and_self, if_true]
theorem sts (d : BitVec 5) (a : BitVec 5) (w : BitVec 3) (i : BitVec 13) : Statement (.sts d a w i) := by
  intro hw
  refine good_one rfl ?_ fun x => ?_
  · simp only [isLong, ext_hi, ext_lo, Nat.reduceLeDiff, Nat.reduceSub, Nat.reduceAdd, BitVec.reduceExtractLsb']; decide
  · simp only [decode, ext_hi, ext_lo, ext_all, Nat.reduceLeDiff, Nat.reduceSub, Nat.reduceAdd, BitVec.reduceToNat, BitVec.reduceExtractLsb', fieldsOk, hw, beq_self_eq_true,
      Bool.and_self, if_true]
theorem ldaq (d : BitVec 5) (a : BitVec 5) (w : BitVec 3) (c : BitVec 3) (i : BitVec 10) : Statement (.ldaq d a w c i) := by
  intro hw
  refine good_one rfl ?_ fun x => ?_
  · simp only [isLong, ext_hi, ext_lo, Nat.reduceLeDiff, Nat.reduceSub, Nat.reduceAdd, BitVec.reduceExtractLsb']; decide
  · simp only [decode, ext_hi, ext_lo, ext_all, Nat.reduceLeDiff, Nat.reduceSub, Nat.reduceAdd, BitVec.reduceToNat, BitVec.reduceExtractLsb', fieldsOk, hw, beq_self_eq_true,
      Bool.and_self, if_true]
theorem strl (d : BitVec 5) (a : BitVec 5) (w : BitVec 3) (c : BitVec 3) (i : BitVec 10) : Statement (.strl d a w c i) := by
  intro hw
  refine good_one rfl ?_ fun x => ?_
  · simp only [isLong, ext_hi, ext_lo, Nat.reduceLeDiff, Nat.reduceSub, Nat.reduceAdd, BitVec.reduceExtractLsb']; decide
  · simp only [decode, ext_hi, ext_lo, ext_all, Nat.reduceLeDiff, Nat.reduceSub, Nat.reduceAdd, BitVec.reduceToNat, BitVec.reduceExtractLsb', fieldsOk, hw, beq_self_eq_true,
      Bool.and_self, if_true]
theorem vld (d : BitVec 5) (r : BitVec 4) (o : BitVec 5) (i : BitVec 7) (h : BitVec 2) (s : BitVec 3) : Statement (.vld d r o i h s) := by
  intro hw
  refine good_one rfl ?_ fun x => ?_
  · simp only [isLong, ext_hi, ext_lo, Nat.reduceLeDiff, Nat.reduceSub, Nat.reduceAdd, BitVec.reduceExtractLsb']; decide
  · simp only [decode, ext_hi, ext_lo, ext_all, Nat.reduceLeDiff, Nat.reduceSub, Nat.reduceAdd, BitVec.reduceToNat, BitVec.reduceExtractLsb', fieldsOk, hw, beq_self_eq_true,
      Bool.and_self, if_true]
theorem vst (d : BitVec 5) (r : BitVec 4) (o : BitVec 5) (i : BitVec 7) (h : BitVec 2) (s : BitVec 3) : Statement (.vst d r o i h s) := by
  intro hw
  refine good_one rfl ?_ fun x => ?_
  · simp only [isLong, ext_hi, ext_lo, Nat.reduceLeDiff, Nat.reduceSub, Nat.reduceAdd, BitVec.reduceExtractLsb']; decide
  · simp only [decode, ext_hi, ext_lo, ext_all, Nat.reduceLeDiff, Nat.reduceSub, Nat.reduceAdd, BitVec.reduceToNat, BitVec.reduceExtractLsb', fieldsOk, hw, beq_self_eq_true,
      Bool.and_self, if_true]
theorem vldg (d : BitVec 5) (r : BitVec 4) (o : BitVec 5) (h : BitVec 2) (s : BitVec 3) : Statement (.vldg d r o h s) := by
  intro hw
  refine good_one rfl ?_ fun x => ?_
  · simp only [isLong, ext_hi, ext_lo, Nat.reduceLeDiff, Nat.reduceSub, Nat.reduceAdd, BitVec.reduceExtractLsb']; decide
  · simp only [decode, ext_hi, ext_lo, ext_all, Nat.reduceLeDiff, Nat.reduceSub, Nat.reduceAdd, BitVec.reduceToNat, BitVec.reduceExtractLsb', fieldsOk, hw, beq_self_eq_true,
      Bool.and_self, if_true]
theorem vsts (d : BitVec 5) (r : BitVec 4) (o : BitVec 5) (h : BitVec 2) (s : BitVec 3) : Statement (.vsts d r o h s) := by
  intro hw
  refine good_one rfl ?_ fun x => ?_
  · simp only [isLong, ext_hi, ext_lo, Nat.reduceLeDiff, Nat.reduceSub, Nat.reduceAdd, BitVec.reduceExtractLsb']; decide
  · simp only [decode, ext_hi, ext_lo, ext_all, Nat.reduceLeDiff, Nat.reduceSub, Nat.reduceAdd, BitVec.reduceToNat, BitVec.reduceExtractLsb', fieldsOk, hw, beq_self_eq_true,
      Bool.and_self, if_true]
theorem vldx (d : BitVec 5) (r : BitVec 4) (o : BitVec 5) (k : BitVec 3) (h : BitVec 2) : Statement (.vldx d r o k h) := by
  intro hw
  refine good_one rfl ?_ fun x => ?_
  · simp only [isLong, ext_hi, ext_lo, Nat.reduceLeDiff, Nat.reduceSub, Nat.reduceAdd, BitVec.reduceExtractLsb']; decide
  · simp only [decode, ext_hi, ext_lo, ext_all, Nat.reduceLeDiff, Nat.reduceSub, Nat.reduceAdd, BitVec.reduceToNat, BitVec.reduceExtractLsb', fieldsOk, hw, beq_self_eq_true,
      Bool.and_self, if_true]
theorem vstx (d : BitVec 5) (r : BitVec 4) (o : BitVec 5) (k : BitVec 3) (h : BitVec 2) : Statement (.vstx d r o k h) := by
  intro hw
  refine good_one rfl ?_ fun x => ?_
  · simp only [isLong, ext_hi, ext_lo, Nat.reduceLeDiff, Nat.reduceSub, Nat.reduceAdd, BitVec.reduceExtractLsb']; decide
  · simp only [decode, ext_hi, ext_lo, ext_all, Nat.reduceLeDiff, Nat.reduceSub, Nat.reduceAdd, BitVec.reduceToNat, BitVec.reduceExtractLsb', fieldsOk, hw, beq_self_eq_true,
      Bool.and_self, if_true]
theorem sld (d : BitVec 5) (r : BitVec 4) (o : BitVec 5) (i : BitVec 7) (h : BitVec 2) (s : BitVec 3) : Statement (.sld d r o i h s) := by
  intro hw
  refine good_one rfl ?_ fun x => ?_
  · simp only [isLong, ext_hi, ext_lo, Nat.reduceLeDiff, Nat.reduceSub, Nat.reduceAdd, BitVec.reduceExtractLsb']; decide
  · simp only [decode, ext_hi, ext_lo, ext_all, Nat.reduceLeDiff, Nat.reduceSub, Nat.reduceAdd, BitVec.reduceToNat, BitVec.reduceExtractLsb', fieldsOk, hw, beq_self_eq_true,
      Bool.and_self, if_true]
theorem sst (d : BitVec 5) (r : BitVec 4) (o : BitVec 5) (i : BitVec 7) (h : BitVec 2) (s : BitVec 3) : Statement (.sst d r o i h s) := by
  intro hw
  refine good_one rfl ?_ fun x => ?_
  · simp only [isLong, ext_hi, ext_lo, Nat.reduceLeDiff, Nat.reduceSub, Nat.reduceAdd, BitVec.reduceExtractLsb']; decide
  · simp only [decode, ext_hi, ext_lo, ext_all, Nat.reduceLeDiff, Nat.reduceSub, Nat.reduceAdd, BitVec.reduceToNat, BitVec.reduceExtractLsb', fieldsOk, hw, beq_self_eq_true,
      Bool.and_self, if_true]
theorem pfetch (r : BitVec 4) (o : BitVec 5) (i : BitVec 7) (h : BitVec 2) (s : BitVec 3) : Statement (.pfetch r o i h s) := by
  intro hw
  refine good_one rfl ?_ fun x => ?_
  · simp only [isLong, ext_hi, ext_lo, Nat.reduceLeDiff, Nat.reduceSub, Nat.reduceAdd, BitVec.reduceExtractLsb']; decide
  · simp only [decode, ext_hi, ext_lo, ext_all, Nat.reduceLeDiff, Nat.reduceSub, Nat.reduceAdd, BitVec.reduceToNat, BitVec.reduceExtractLsb', fieldsOk, hw, beq_self_eq_true,
      Bool.and_self, if_true]
theorem aadd (d : BitVec 5) (a : BitVec 5) (b : BitVec 5) (t : BitVec 2) (h : BitVec 2) (s : BitVec 3) : Statement (.aadd d a b t h s) := by
  intro hw
  refine good_one rfl ?_ fun x => ?_
  · simp only [isLong, ext_hi, ext_lo, Nat.reduceLeDiff, Nat.reduceSub, Nat.reduceAdd, BitVec.reduceExtractLsb']; decide
  · rw [decode20_of _ (by simp only [ext_hi, ext_lo, ext_all, Nat.reduceLeDiff, Nat.reduceSub, Nat.reduceAdd, BitVec.reduceExtractLsb'])]
    simp only [decode20, ext_hi, ext_lo, ext_all, Nat.reduceLeDiff, Nat.reduceSub, Nat.reduceAdd, BitVec.reduceToNat, BitVec.reduceExtractLsb', fieldsOk, hw, beq_self_eq_true,
      Bool.and_self, if_true]
theorem aand (d : BitVec 5) (a : BitVec 5) (b : BitVec 5) (t : BitVec 2) (h : BitVec 2) (s : BitVec 3) : Statement (.aand d a b t h s) := by
  intro hw
  refine good_one rfl ?_ fun x => ?_
  · simp only [isLong, ext_hi, ext_lo, Nat.reduceLeDiff, Nat.reduceSub, Nat.reduceAdd, BitVec.reduceExtractLsb']; decide
  · rw [decode20_of _ (by simp only [ext_hi, ext_lo, ext_all, Nat.reduceLeDiff, Nat.reduceSub, Nat.reduceAdd, BitVec.reduceExtractLsb'])]
    simp only [decode20, ext_hi, ext_lo, ext_all, Nat.reduceLeDiff, Nat.reduceSub, Nat.reduceAdd, BitVec.reduceToNat, BitVec.reduceExtractLsb', fieldsOk, hw, beq_self_eq_true,
      Bool.and_self, if_true]
theorem aor (d : BitVec 5) (a : BitVec 5) (b : BitVec 5) (t : BitVec 2) (h : BitVec 2) (s : BitVec 3) : Statement (.aor d a b t h s) := by
  intro hw
  refine good_one rfl ?_ fun x => ?_
  · simp only [isLong, ext_hi, ext_lo, Nat.reduceLeDiff, Nat.reduceSub, Nat.reduceAdd, BitVec.reduceExtractLsb']; decide
  · rw [decode20_of _ (by simp only [ext_hi, ext_lo, ext_all, Nat.reduceLeDiff, Nat.reduceSub, Nat.reduceAdd, BitVec.reduceExtractLsb'])]
    simp only [decode20, ext_hi, ext_lo, ext_all, Nat.reduceLeDiff, Nat.reduceSub, Nat.reduceAdd, BitVec.reduceToNat, BitVec.reduceExtractLsb', fieldsOk, hw, beq_self_eq_true,
      Bool.and_self, if_true]
theorem axor (d : BitVec 5) (a : BitVec 5) (b : BitVec 5) (t : BitVec 2) (h : BitVec 2) (s : BitVec 3) : Statement (.axor d a b t h s) := by
  intro hw
  refine good_one rfl ?_ fun x => ?_
  · simp only [isLong, ext_hi, ext_lo, Nat.reduceLeDiff, Nat.reduceSub, Nat.reduceAdd, BitVec.reduceExtractLsb']; decide
  · rw [decode20_of _ (by simp only [ext_hi, ext_lo, ext_all, Nat.reduceLeDiff, Nat.reduceSub, Nat.reduceAdd, BitVec.reduceExtractLsb'])]
    simp only [decode20, ext_hi, ext_lo, ext_all, Nat.reduceLeDiff, Nat.reduceSub, Nat.reduceAdd, BitVec.reduceToNat, BitVec.reduceExtractLsb', fieldsOk, hw, beq_self_eq_true,
      Bool.and_self, if_true]
theorem amin (d : BitVec 5) (a : BitVec 5) (b : BitVec 5) (t : BitVec 2) (h : BitVec 2) (s : BitVec 3) : Statement (.amin d a b t h s) := by
  intro hw
  refine good_one rfl ?_ fun x => ?_
  · simp only [isLong, ext_hi, ext_lo, Nat.reduceLeDiff, Nat.reduceSub, Nat.reduceAdd, BitVec.reduceExtractLsb']; decide
  · rw [decode20_of _ (by simp only [ext_hi, ext_lo, ext_all, Nat.reduceLeDiff, Nat.reduceSub, Nat.reduceAdd, BitVec.reduceExtractLsb'])]
    simp only [decode20, ext_hi, ext_lo, ext_all, Nat.reduceLeDiff, Nat.reduceSub, Nat.reduceAdd, BitVec.reduceToNat, BitVec.reduceExtractLsb', fieldsOk, hw, beq_self_eq_true,
      Bool.and_self, if_true]
theorem amax (d : BitVec 5) (a : BitVec 5) (b : BitVec 5) (t : BitVec 2) (h : BitVec 2) (s : BitVec 3) : Statement (.amax d a b t h s) := by
  intro hw
  refine good_one rfl ?_ fun x => ?_
  · simp only [isLong, ext_hi, ext_lo, Nat.reduceLeDiff, Nat.reduceSub, Nat.reduceAdd, BitVec.reduceExtractLsb']; decide
  · rw [decode20_of _ (by simp only [ext_hi, ext_lo, ext_all, Nat.reduceLeDiff, Nat.reduceSub, Nat.reduceAdd, BitVec.reduceExtractLsb'])]
    simp only [decode20, ext_hi, ext_lo, ext_all, Nat.reduceLeDiff, Nat.reduceSub, Nat.reduceAdd, BitVec.reduceToNat, BitVec.reduceExtractLsb', fieldsOk, hw, beq_self_eq_true,
      Bool.and_self, if_true]
theorem aminn (d : BitVec 5) (a : BitVec 5) (b : BitVec 5) (t : BitVec 2) (h : BitVec 2) (s : BitVec 3) : Statement (.aminn d a b t h s) := by
  intro hw
  refine good_one rfl ?_ fun x => ?_
  · simp only [isLong, ext_hi, ext_lo, Nat.reduceLeDiff, Nat.reduceSub, Nat.reduceAdd, BitVec.reduceExtractLsb']; decide
  · rw [decode20_of _ (by simp only [ext_hi, ext_lo, ext_all, Nat.reduceLeDiff, Nat.reduceSub, Nat.reduceAdd, BitVec.reduceExtractLsb'])]
    simp only [decode20, ext_hi, ext_lo, ext_all, Nat.reduceLeDiff, Nat.reduceSub, Nat.reduceAdd, BitVec.reduceToNat, BitVec.reduceExtractLsb', fieldsOk, hw, beq_self_eq_true,
      Bool.and_self, if_true]
theorem amaxn (d : BitVec 5) (a : BitVec 5) (b : BitVec 5) (t : BitVec 2) (h : BitVec 2) (s : BitVec 3) : Statement (.amaxn d a b t h s) := by
  intro hw
  refine good_one rfl ?_ fun x => ?_
  · simp only [isLong, ext_hi, ext_lo, Nat.reduceLeDiff, Nat.reduceSub, Nat.reduceAdd, BitVec.reduceExtractLsb']; decide
  · rw [decode20_of _ (by simp only [ext_hi, ext_lo, ext_all, Nat.reduceLeDiff, Nat.reduceSub, Nat.reduceAdd, BitVec.reduceExtractLsb'])]
    simp only [decode20, ext_hi, ext_lo, ext_all, Nat.reduceLeDiff, Nat.reduceSub, Nat.reduceAdd, BitVec.reduceToNat, BitVec.reduceExtractLsb', fieldsOk, hw, beq_self_eq_true,
      Bool.and_self, if_true]
theorem axchg (d : BitVec 5) (a : BitVec 5) (b : BitVec 5) (t : BitVec 2) (h : BitVec 2) (s : BitVec 3) : Statement (.axchg d a b t h s) := by
  intro hw
  refine good_one rfl ?_ fun x => ?_
  · simp only [isLong, ext_hi, ext_lo, Nat.reduceLeDiff, Nat.reduceSub, Nat.reduceAdd, BitVec.reduceExtractLsb']; decide
  · rw [decode20_of _ (by simp only [ext_hi, ext_lo, ext_all, Nat.reduceLeDiff, Nat.reduceSub, Nat.reduceAdd, BitVec.reduceExtractLsb'])]
    simp only [decode20, ext_hi, ext_lo, ext_all, Nat.reduceLeDiff, Nat.reduceSub, Nat.reduceAdd, BitVec.reduceToNat, BitVec.reduceExtractLsb', fieldsOk, hw, beq_self_eq_true,
      Bool.and_self, if_true]
theorem afadd (d : BitVec 5) (a : BitVec 5) (b : BitVec 5) (h : BitVec 2) (s : BitVec 3) : Statement (.afadd d a b h s) := by
  intro hw
  refine good_one rfl ?_ fun x => ?_
  · simp only [isLong, ext_hi, ext_lo, Nat.reduceLeDiff, Nat.reduceSub, Nat.reduceAdd, BitVec.reduceExtractLsb']; decide
  · rw [decode20_of _ (by simp only [ext_hi, ext_lo, ext_all, Nat.reduceLeDiff, Nat.reduceSub, Nat.reduceAdd, BitVec.reduceExtractLsb'])]
    simp only [decode20, ext_hi, ext_lo, ext_all, Nat.reduceLeDiff, Nat.reduceSub, Nat.reduceAdd, BitVec.reduceToNat, BitVec.reduceExtractLsb', fieldsOk, hw, beq_self_eq_true,
      Bool.and_self, if_true]
theorem afaddh (d : BitVec 5) (a : BitVec 5) (b : BitVec 5) (t : BitVec 2) (h : BitVec 2) (s : BitVec 3) : Statement (.afaddh d a b t h s) := by
  intro hw
  refine good_one rfl ?_ fun x => ?_
  · simp only [isLong, ext_hi, ext_lo, Nat.reduceLeDiff, Nat.reduceSub, Nat.reduceAdd, BitVec.reduceExtractLsb']; decide
  · rw [decode20_of _ (by simp only [ext_hi, ext_lo, ext_all, Nat.reduceLeDiff, Nat.reduceSub, Nat.reduceAdd, BitVec.reduceExtractLsb'])]
    simp only [decode20, ext_hi, ext_lo, ext_all, Nat.reduceLeDiff, Nat.reduceSub, Nat.reduceAdd, BitVec.reduceToNat, BitVec.reduceExtractLsb', fieldsOk, hw, beq_self_eq_true,
      Bool.and_self, if_true]
theorem afmax (d : BitVec 5) (a : BitVec 5) (b : BitVec 5) (t : BitVec 2) (h : BitVec 2) (s : BitVec 3) : Statement (.afmax d a b t h s) := by
  intro hw
  refine good_one rfl ?_ fun x => ?_
  · simp only [isLong, ext_hi, ext_lo, Nat.reduceLeDiff, Nat.reduceSub, Nat.reduceAdd, BitVec.reduceExtractLsb']; decide
  · rw [decode20_of _ (by simp only [ext_hi, ext_lo, ext_all, Nat.reduceLeDiff, Nat.reduceSub, Nat.reduceAdd, BitVec.reduceExtractLsb'])]
    simp only [decode20, ext_hi, ext_lo, ext_all, Nat.reduceLeDiff, Nat.reduceSub, Nat.reduceAdd, BitVec.reduceToNat, BitVec.reduceExtractLsb', fieldsOk, hw, beq_self_eq_true,
      Bool.and_self, if_true]
theorem acas (d : BitVec 5) (a : BitVec 5) (b : BitVec 5) (t : BitVec 2) (h : BitVec 2) (s : BitVec 3) : Statement (.acas d a b t h s) := by
  intro hw
  refine good_one rfl ?_ fun x => ?_
  · simp only [isLong, ext_hi, ext_lo, Nat.reduceLeDiff, Nat.reduceSub, Nat.reduceAdd, BitVec.reduceExtractLsb']; decide
  · rw [decode21_of _ (by simp only [ext_hi, ext_lo, ext_all, Nat.reduceLeDiff, Nat.reduceSub, Nat.reduceAdd, BitVec.reduceExtractLsb'])]
    simp only [decode21, ext_hi, ext_lo, ext_all, Nat.reduceLeDiff, Nat.reduceSub, Nat.reduceAdd, BitVec.reduceToNat, BitVec.reduceExtractLsb', fieldsOk, hw, beq_self_eq_true,
      Bool.and_self, if_true]
theorem fence (h : BitVec 2) (s : BitVec 3) : Statement (.fence h s) := by
  intro hw
  refine good_one rfl ?_ fun x => ?_
  · simp only [isLong, ext_hi, ext_lo, Nat.reduceLeDiff, Nat.reduceSub, Nat.reduceAdd, BitVec.reduceExtractLsb']; decide
  · rw [decode22_of _ (by simp only [ext_hi, ext_lo, ext_all, Nat.reduceLeDiff, Nat.reduceSub, Nat.reduceAdd, BitVec.reduceExtractLsb'])]
    simp only [decode22, ext_hi, ext_lo, ext_all, Nat.reduceLeDiff, Nat.reduceSub, Nat.reduceAdd, BitVec.reduceToNat, BitVec.reduceExtractLsb', fieldsOk, hw, beq_self_eq_true,
      Bool.and_self, if_true]
theorem lbfenc (h : BitVec 2) : Statement (.lbfenc h) := by
  intro hw
  refine good_one rfl ?_ fun x => ?_
  · simp only [isLong, ext_hi, ext_lo, Nat.reduceLeDiff, Nat.reduceSub, Nat.reduceAdd, BitVec.reduceExtractLsb']; decide
  · rw [decode22_of _ (by simp only [ext_hi, ext_lo, ext_all, Nat.reduceLeDiff, Nat.reduceSub, Nat.reduceAdd, BitVec.reduceExtractLsb'])]
    simp only [decode22, ext_hi, ext_lo, ext_all, Nat.reduceLeDiff, Nat.reduceSub, Nat.reduceAdd, BitVec.reduceToNat, BitVec.reduceExtractLsb', fieldsOk, hw, beq_self_eq_true,
      Bool.and_self, if_true]
theorem ifenc (h : BitVec 2) : Statement (.ifenc h) := by
  intro hw
  refine good_one rfl ?_ fun x => ?_
  · simp only [isLong, ext_hi, ext_lo, Nat.reduceLeDiff, Nat.reduceSub, Nat.reduceAdd, BitVec.reduceExtractLsb']; decide
  · rw [decode22_of _ (by simp only [ext_hi, ext_lo, ext_all, Nat.reduceLeDiff, Nat.reduceSub, Nat.reduceAdd, BitVec.reduceExtractLsb'])]
    simp only [decode22, ext_hi, ext_lo, ext_all, Nat.reduceLeDiff, Nat.reduceSub, Nat.reduceAdd, BitVec.reduceToNat, BitVec.reduceExtractLsb', fieldsOk, hw, beq_self_eq_true,
      Bool.and_self, if_true]
theorem efenc (h : BitVec 2) : Statement (.efenc h) := by
  intro hw
  refine good_one rfl ?_ fun x => ?_
  · simp only [isLong, ext_hi, ext_lo, Nat.reduceLeDiff, Nat.reduceSub, Nat.reduceAdd, BitVec.reduceExtractLsb']; decide
  · rw [decode22_of _ (by simp only [ext_hi, ext_lo, ext_all, Nat.reduceLeDiff, Nat.reduceSub, Nat.reduceAdd, BitVec.reduceExtractLsb'])]
    simp only [decode22, ext_hi, ext_lo, ext_all, Nat.reduceLeDiff, Nat.reduceSub, Nat.reduceAdd, BitVec.reduceToNat, BitVec.reduceExtractLsb', fieldsOk, hw, beq_self_eq_true,
      Bool.and_self, if_true]
theorem brld (d : BitVec 4) (a : BitVec 5) (h : BitVec 2) : Statement (.brld d a h) := by
  intro hw
  refine good_one rfl ?_ fun x => ?_
  · simp only [isLong, ext_hi, ext_lo, Nat.reduceLeDiff, Nat.reduceSub, Nat.reduceAdd, BitVec.reduceExtractLsb']; decide
  · rw [decode23_of _ (by simp only [ext_hi, ext_lo, ext_all, Nat.reduceLeDiff, Nat.reduceSub, Nat.reduceAdd, BitVec.reduceExtractLsb'])]
    simp only [decode23, ext_hi, ext_lo, ext_all, Nat.reduceLeDiff, Nat.reduceSub, Nat.reduceAdd, BitVec.reduceToNat, BitVec.reduceExtractLsb', fieldsOk, hw, beq_self_eq_true,
      Bool.and_self, if_true]
theorem brst (d : BitVec 4) (a : BitVec 5) (h : BitVec 2) : Statement (.brst d a h) := by
  intro hw
  refine good_one rfl ?_ fun x => ?_
  · simp only [isLong, ext_hi, ext_lo, Nat.reduceLeDiff, Nat.reduceSub, Nat.reduceAdd, BitVec.reduceExtractLsb']; decide
  · rw [decode23_of _ (by simp only [ext_hi, ext_lo, ext_all, Nat.reduceLeDiff, Nat.reduceSub, Nat.reduceAdd, BitVec.reduceExtractLsb'])]
    simp only [decode23, ext_hi, ext_lo, ext_all, Nat.reduceLeDiff, Nat.reduceSub, Nat.reduceAdd, BitVec.reduceToNat, BitVec.reduceExtractLsb', fieldsOk, hw, beq_self_eq_true,
      Bool.and_self, if_true]
theorem brsetf (d : BitVec 4) (a : BitVec 5) (f : BitVec 5) (h : BitVec 2) : Statement (.brsetf d a f h) := by
  intro hw
  refine good_one rfl ?_ fun x => ?_
  · simp only [isLong, ext_hi, ext_lo, Nat.reduceLeDiff, Nat.reduceSub, Nat.reduceAdd, BitVec.reduceExtractLsb']; decide
  · rw [decode23_of _ (by simp only [ext_hi, ext_lo, ext_all, Nat.reduceLeDiff, Nat.reduceSub, Nat.reduceAdd, BitVec.reduceExtractLsb'])]
    simp only [decode23, ext_hi, ext_lo, ext_all, Nat.reduceLeDiff, Nat.reduceSub, Nat.reduceAdd, BitVec.reduceToNat, BitVec.reduceExtractLsb', fieldsOk, hw, beq_self_eq_true,
      Bool.and_self, if_true]
theorem brgetf (d : BitVec 5) (a : BitVec 4) (f : BitVec 5) (h : BitVec 2) : Statement (.brgetf d a f h) := by
  intro hw
  refine good_one rfl ?_ fun x => ?_
  · simp only [isLong, ext_hi, ext_lo, Nat.reduceLeDiff, Nat.reduceSub, Nat.reduceAdd, BitVec.reduceExtractLsb']; decide
  · rw [decode23_of _ (by simp only [ext_hi, ext_lo, ext_all, Nat.reduceLeDiff, Nat.reduceSub, Nat.reduceAdd, BitVec.reduceExtractLsb'])]
    simp only [decode23, ext_hi, ext_lo, ext_all, Nat.reduceLeDiff, Nat.reduceSub, Nat.reduceAdd, BitVec.reduceToNat, BitVec.reduceExtractLsb', fieldsOk, hw, beq_self_eq_true,
      Bool.and_self, if_true]
theorem brcpy (d : BitVec 4) (a : BitVec 4) (h : BitVec 2) : Statement (.brcpy d a h) := by
  intro hw
  refine good_one rfl ?_ fun x => ?_
  · simp only [isLong, ext_hi, ext_lo, Nat.reduceLeDiff, Nat.reduceSub, Nat.reduceAdd, BitVec.reduceExtractLsb']; decide
  · rw [decode23_of _ (by simp only [ext_hi, ext_lo, ext_all, Nat.reduceLeDiff, Nat.reduceSub, Nat.reduceAdd, BitVec.reduceExtractLsb'])]
    simp only [decode23, ext_hi, ext_lo, ext_all, Nat.reduceLeDiff, Nat.reduceSub, Nat.reduceAdd, BitVec.reduceToNat, BitVec.reduceExtractLsb', fieldsOk, hw, beq_self_eq_true,
      Bool.and_self, if_true]
theorem qrd (d : BitVec 5) (h : BitVec 2) (q : BitVec 3) : Statement (.qrd d h q) := by
  intro hw
  refine good_one rfl ?_ fun x => ?_
  · simp only [isLong, ext_hi, ext_lo, Nat.reduceLeDiff, Nat.reduceSub, Nat.reduceAdd, BitVec.reduceExtractLsb']; decide
  · rw [decode25_of _ (by simp only [ext_hi, ext_lo, ext_all, Nat.reduceLeDiff, Nat.reduceSub, Nat.reduceAdd, BitVec.reduceExtractLsb'])]
    simp only [decode25, ext_hi, ext_lo, ext_all, Nat.reduceLeDiff, Nat.reduceSub, Nat.reduceAdd, BitVec.reduceToNat, BitVec.reduceExtractLsb', fieldsOk, hw, beq_self_eq_true,
      Bool.and_self, if_true]
theorem qwr (a : BitVec 5) (h : BitVec 2) (q : BitVec 3) : Statement (.qwr a h q) := by
  intro hw
  refine good_one rfl ?_ fun x => ?_
  · simp only [isLong, ext_hi, ext_lo, Nat.reduceLeDiff, Nat.reduceSub, Nat.reduceAdd, BitVec.reduceExtractLsb']; decide
  · rw [decode25_of _ (by simp only [ext_hi, ext_lo, ext_all, Nat.reduceLeDiff, Nat.reduceSub, Nat.reduceAdd, BitVec.reduceExtractLsb'])]
    simp only [decode25, ext_hi, ext_lo, ext_all, Nat.reduceLeDiff, Nat.reduceSub, Nat.reduceAdd, BitVec.reduceToNat, BitVec.reduceExtractLsb', fieldsOk, hw, beq_self_eq_true,
      Bool.and_self, if_true]
theorem qtry (d : BitVec 5) (a : BitVec 5) (h : BitVec 2) (q : BitVec 3) : Statement (.qtry d a h q) := by
  intro hw
  refine good_one rfl ?_ fun x => ?_
  · simp only [isLong, ext_hi, ext_lo, Nat.reduceLeDiff, Nat.reduceSub, Nat.reduceAdd, BitVec.reduceExtractLsb']; decide
  · rw [decode25_of _ (by simp only [ext_hi, ext_lo, ext_all, Nat.reduceLeDiff, Nat.reduceSub, Nat.reduceAdd, BitVec.reduceExtractLsb'])]
    simp only [decode25, ext_hi, ext_lo, ext_all, Nat.reduceLeDiff, Nat.reduceSub, Nat.reduceAdd, BitVec.reduceToNat, BitVec.reduceExtractLsb', fieldsOk, hw, beq_self_eq_true,
      Bool.and_self, if_true]
theorem qcnt (d : BitVec 5) (h : BitVec 2) (q : BitVec 3) : Statement (.qcnt d h q) := by
  intro hw
  refine good_one rfl ?_ fun x => ?_
  · simp only [isLong, ext_hi, ext_lo, Nat.reduceLeDiff, Nat.reduceSub, Nat.reduceAdd, BitVec.reduceExtractLsb']; decide
  · rw [decode25_of _ (by simp only [ext_hi, ext_lo, ext_all, Nat.reduceLeDiff, Nat.reduceSub, Nat.reduceAdd, BitVec.reduceExtractLsb'])]
    simp only [decode25, ext_hi, ext_lo, ext_all, Nat.reduceLeDiff, Nat.reduceSub, Nat.reduceAdd, BitVec.reduceToNat, BitVec.reduceExtractLsb', fieldsOk, hw, beq_self_eq_true,
      Bool.and_self, if_true]
theorem qpair (a : BitVec 5) (h : BitVec 2) : Statement (.qpair a h) := by
  intro hw
  refine good_one rfl ?_ fun x => ?_
  · simp only [isLong, ext_hi, ext_lo, Nat.reduceLeDiff, Nat.reduceSub, Nat.reduceAdd, BitVec.reduceExtractLsb']; decide
  · rw [decode25_of _ (by simp only [ext_hi, ext_lo, ext_all, Nat.reduceLeDiff, Nat.reduceSub, Nat.reduceAdd, BitVec.reduceExtractLsb'])]
    simp only [decode25, ext_hi, ext_lo, ext_all, Nat.reduceLeDiff, Nat.reduceSub, Nat.reduceAdd, BitVec.reduceToNat, BitVec.reduceExtractLsb', fieldsOk, hw, beq_self_eq_true,
      Bool.and_self, if_true]
theorem vadd (d : BitVec 5) (a : BitVec 5) (b : BitVec 5) (m : BitVec 3) (t : BitVec 3) : Statement (.vadd d a b m t) := by
  intro hw
  refine good_one rfl ?_ fun x => ?_
  · simp only [isLong, ext_hi, ext_lo, Nat.reduceLeDiff, Nat.reduceSub, Nat.reduceAdd, BitVec.reduceExtractLsb']; decide
  · rw [decode26_of _ (by simp only [ext_hi, ext_lo, ext_all, Nat.reduceLeDiff, Nat.reduceSub, Nat.reduceAdd, BitVec.reduceExtractLsb'])]
    simp only [decode26, ext_hi, ext_lo, ext_all, Nat.reduceLeDiff, Nat.reduceSub, Nat.reduceAdd, BitVec.reduceToNat, BitVec.reduceExtractLsb', fieldsOk, hw, beq_self_eq_true,
      Bool.and_self, if_true]
theorem vsub (d : BitVec 5) (a : BitVec 5) (b : BitVec 5) (m : BitVec 3) (t : BitVec 3) : Statement (.vsub d a b m t) := by
  intro hw
  refine good_one rfl ?_ fun x => ?_
  · simp only [isLong, ext_hi, ext_lo, Nat.reduceLeDiff, Nat.reduceSub, Nat.reduceAdd, BitVec.reduceExtractLsb']; decide
  · rw [decode26_of _ (by simp only [ext_hi, ext_lo, ext_all, Nat.reduceLeDiff, Nat.reduceSub, Nat.reduceAdd, BitVec.reduceExtractLsb'])]
    simp only [decode26, ext_hi, ext_lo, ext_all, Nat.reduceLeDiff, Nat.reduceSub, Nat.reduceAdd, BitVec.reduceToNat, BitVec.reduceExtractLsb', fieldsOk, hw, beq_self_eq_true,
      Bool.and_self, if_true]
theorem vmul (d : BitVec 5) (a : BitVec 5) (b : BitVec 5) (m : BitVec 3) (t : BitVec 3) : Statement (.vmul d a b m t) := by
  intro hw
  refine good_one rfl ?_ fun x => ?_
  · simp only [isLong, ext_hi, ext_lo, Nat.reduceLeDiff, Nat.reduceSub, Nat.reduceAdd, BitVec.reduceExtractLsb']; decide
  · rw [decode26_of _ (by simp only [ext_hi, ext_lo, ext_all, Nat.reduceLeDiff, Nat.reduceSub, Nat.reduceAdd, BitVec.reduceExtractLsb'])]
    simp only [decode26, ext_hi, ext_lo, ext_all, Nat.reduceLeDiff, Nat.reduceSub, Nat.reduceAdd, BitVec.reduceToNat, BitVec.reduceExtractLsb', fieldsOk, hw, beq_self_eq_true,
      Bool.and_self, if_true]
theorem vmulh (d : BitVec 5) (a : BitVec 5) (b : BitVec 5) (m : BitVec 3) (t : BitVec 3) : Statement (.vmulh d a b m t) := by
  intro hw
  refine good_one rfl ?_ fun x => ?_
  · simp only [isLong, ext_hi, ext_lo, Nat.reduceLeDiff, Nat.reduceSub, Nat.reduceAdd, BitVec.reduceExtractLsb']; decide
  · rw [decode26_of _ (by simp only [ext_hi, ext_lo, ext_all, Nat.reduceLeDiff, Nat.reduceSub, Nat.reduceAdd, BitVec.reduceExtractLsb'])]
    simp only [decode26, ext_hi, ext_lo, ext_all, Nat.reduceLeDiff, Nat.reduceSub, Nat.reduceAdd, BitVec.reduceToNat, BitVec.reduceExtractLsb', fieldsOk, hw, beq_self_eq_true,
      Bool.and_self, if_true]
theorem vmin (d : BitVec 5) (a : BitVec 5) (b : BitVec 5) (m : BitVec 3) (t : BitVec 3) : Statement (.vmin d a b m t) := by
  intro hw
  refine good_one rfl ?_ fun x => ?_
  · simp only [isLong, ext_hi, ext_lo, Nat.reduceLeDiff, Nat.reduceSub, Nat.reduceAdd, BitVec.reduceExtractLsb']; decide
  · rw [decode26_of _ (by simp only [ext_hi, ext_lo, ext_all, Nat.reduceLeDiff, Nat.reduceSub, Nat.reduceAdd, BitVec.reduceExtractLsb'])]
    simp only [decode26, ext_hi, ext_lo, ext_all, Nat.reduceLeDiff, Nat.reduceSub, Nat.reduceAdd, BitVec.reduceToNat, BitVec.reduceExtractLsb', fieldsOk, hw, beq_self_eq_true,
      Bool.and_self, if_true]
theorem vmax (d : BitVec 5) (a : BitVec 5) (b : BitVec 5) (m : BitVec 3) (t : BitVec 3) : Statement (.vmax d a b m t) := by
  intro hw
  refine good_one rfl ?_ fun x => ?_
  · simp only [isLong, ext_hi, ext_lo, Nat.reduceLeDiff, Nat.reduceSub, Nat.reduceAdd, BitVec.reduceExtractLsb']; decide
  · rw [decode26_of _ (by simp only [ext_hi, ext_lo, ext_all, Nat.reduceLeDiff, Nat.reduceSub, Nat.reduceAdd, BitVec.reduceExtractLsb'])]
    simp only [decode26, ext_hi, ext_lo, ext_all, Nat.reduceLeDiff, Nat.reduceSub, Nat.reduceAdd, BitVec.reduceToNat, BitVec.reduceExtractLsb', fieldsOk, hw, beq_self_eq_true,
      Bool.and_self, if_true]
theorem vand (d : BitVec 5) (a : BitVec 5) (b : BitVec 5) (m : BitVec 3) (t : BitVec 3) : Statement (.vand d a b m t) := by
  intro hw
  refine good_one rfl ?_ fun x => ?_
  · simp only [isLong, ext_hi, ext_lo, Nat.reduceLeDiff, Nat.reduceSub, Nat.reduceAdd, BitVec.reduceExtractLsb']; decide
  · rw [decode26_of _ (by simp only [ext_hi, ext_lo, ext_all, Nat.reduceLeDiff, Nat.reduceSub, Nat.reduceAdd, BitVec.reduceExtractLsb'])]
    simp only [decode26, ext_hi, ext_lo, ext_all, Nat.reduceLeDiff, Nat.reduceSub, Nat.reduceAdd, BitVec.reduceToNat, BitVec.reduceExtractLsb', fieldsOk, hw, beq_self_eq_true,
      Bool.and_self, if_true]
theorem vor (d : BitVec 5) (a : BitVec 5) (b : BitVec 5) (m : BitVec 3) (t : BitVec 3) : Statement (.vor d a b m t) := by
  intro hw
  refine good_one rfl ?_ fun x => ?_
  · simp only [isLong, ext_hi, ext_lo, Nat.reduceLeDiff, Nat.reduceSub, Nat.reduceAdd, BitVec.reduceExtractLsb']; decide
  · rw [decode26_of _ (by simp only [ext_hi, ext_lo, ext_all, Nat.reduceLeDiff, Nat.reduceSub, Nat.reduceAdd, BitVec.reduceExtractLsb'])]
    simp only [decode26, ext_hi, ext_lo, ext_all, Nat.reduceLeDiff, Nat.reduceSub, Nat.reduceAdd, BitVec.reduceToNat, BitVec.reduceExtractLsb', fieldsOk, hw, beq_self_eq_true,
      Bool.and_self, if_true]
theorem vxor (d : BitVec 5) (a : BitVec 5) (b : BitVec 5) (m : BitVec 3) (t : BitVec 3) : Statement (.vxor d a b m t) := by
  intro hw
  refine good_one rfl ?_ fun x => ?_
  · simp only [isLong, ext_hi, ext_lo, Nat.reduceLeDiff, Nat.reduceSub, Nat.reduceAdd, BitVec.reduceExtractLsb']; decide
  · rw [decode26_of _ (by simp only [ext_hi, ext_lo, ext_all, Nat.reduceLeDiff, Nat.reduceSub, Nat.reduceAdd, BitVec.reduceExtractLsb'])]
    simp only [decode26, ext_hi, ext_lo, ext_all, Nat.reduceLeDiff, Nat.reduceSub, Nat.reduceAdd, BitVec.reduceToNat, BitVec.reduceExtractLsb', fieldsOk, hw, beq_self_eq_true,
      Bool.and_self, if_true]
theorem vshl (d : BitVec 5) (a : BitVec 5) (b : BitVec 5) (m : BitVec 3) (t : BitVec 3) : Statement (.vshl d a b m t) := by
  intro hw
  refine good_one rfl ?_ fun x => ?_
  · simp only [isLong, ext_hi, ext_lo, Nat.reduceLeDiff, Nat.reduceSub, Nat.reduceAdd, BitVec.reduceExtractLsb']; decide
  · rw [decode26_of _ (by simp only [ext_hi, ext_lo, ext_all, Nat.reduceLeDiff, Nat.reduceSub, Nat.reduceAdd, BitVec.reduceExtractLsb'])]
    simp only [decode26, ext_hi, ext_lo, ext_all, Nat.reduceLeDiff, Nat.reduceSub, Nat.reduceAdd, BitVec.reduceToNat, BitVec.reduceExtractLsb', fieldsOk, hw, beq_self_eq_true,
      Bool.and_self, if_true]
theorem vshr (d : BitVec 5) (a : BitVec 5) (b : BitVec 5) (m : BitVec 3) (t : BitVec 3) : Statement (.vshr d a b m t) := by
  intro hw
  refine good_one rfl ?_ fun x => ?_
  · simp only [isLong, ext_hi, ext_lo, Nat.reduceLeDiff, Nat.reduceSub, Nat.reduceAdd, BitVec.reduceExtractLsb']; decide
  · rw [decode26_of _ (by simp only [ext_hi, ext_lo, ext_all, Nat.reduceLeDiff, Nat.reduceSub, Nat.reduceAdd, BitVec.reduceExtractLsb'])]
    simp only [decode26, ext_hi, ext_lo, ext_all, Nat.reduceLeDiff, Nat.reduceSub, Nat.reduceAdd, BitVec.reduceToNat, BitVec.reduceExtractLsb', fieldsOk, hw, beq_self_eq_true,
      Bool.and_self, if_true]
theorem vsha (d : BitVec 5) (a : BitVec 5) (b : BitVec 5) (m : BitVec 3) (t : BitVec 3) : Statement (.vsha d a b m t) := by
  intro hw
  refine good_one rfl ?_ fun x => ?_
  · simp only [isLong, ext_hi, ext_lo, Nat.reduceLeDiff, Nat.reduceSub, Nat.reduceAdd, BitVec.reduceExtractLsb']; decide
  · rw [decode26_of _ (by simp only [ext_hi, ext_lo, ext_all, Nat.reduceLeDiff, Nat.reduceSub, Nat.reduceAdd, BitVec.reduceExtractLsb'])]
    simp only [decode26, ext_hi, ext_lo, ext_all, Nat.reduceLeDiff, Nat.reduceSub, Nat.reduceAdd, BitVec.reduceToNat, BitVec.reduceExtractLsb', fieldsOk, hw, beq_self_eq_true,
      Bool.and_self, if_true]
theorem vabs (d : BitVec 5) (a : BitVec 5) (m : BitVec 3) (t : BitVec 3) : Statement (.vabs d a m t) := by
  intro hw
  refine good_one rfl ?_ fun x => ?_
  · simp only [isLong, ext_hi, ext_lo, Nat.reduceLeDiff, Nat.reduceSub, Nat.reduceAdd, BitVec.reduceExtractLsb']; decide
  · rw [decode26_of _ (by simp only [ext_hi, ext_lo, ext_all, Nat.reduceLeDiff, Nat.reduceSub, Nat.reduceAdd, BitVec.reduceExtractLsb'])]
    simp only [decode26, ext_hi, ext_lo, ext_all, Nat.reduceLeDiff, Nat.reduceSub, Nat.reduceAdd, BitVec.reduceToNat, BitVec.reduceExtractLsb', fieldsOk, hw, beq_self_eq_true,
      Bool.and_self, if_true]
theorem vneg (d : BitVec 5) (a : BitVec 5) (m : BitVec 3) (t : BitVec 3) : Statement (.vneg d a m t) := by
  intro hw
  refine good_one rfl ?_ fun x => ?_
  · simp only [isLong, ext_hi, ext_lo, Nat.reduceLeDiff, Nat.reduceSub, Nat.reduceAdd, BitVec.reduceExtractLsb']; decide
  · rw [decode26_of _ (by simp only [ext_hi, ext_lo, ext_all, Nat.reduceLeDiff, Nat.reduceSub, Nat.reduceAdd, BitVec.reduceExtractLsb'])]
    simp only [decode26, ext_hi, ext_lo, ext_all, Nat.reduceLeDiff, Nat.reduceSub, Nat.reduceAdd, BitVec.reduceToNat, BitVec.reduceExtractLsb', fieldsOk, hw, beq_self_eq_true,
      Bool.and_self, if_true]
theorem vadds (d : BitVec 5) (a : BitVec 5) (b : BitVec 5) (m : BitVec 3) (t : BitVec 3) : Statement (.vadds d a b m t) := by
  intro hw
  refine good_one rfl ?_ fun x => ?_
  · simp only [isLong, ext_hi, ext_lo, Nat.reduceLeDiff, Nat.reduceSub, Nat.reduceAdd, BitVec.reduceExtractLsb']; decide
  · rw [decode26_of _ (by simp only [ext_hi, ext_lo, ext_all, Nat.reduceLeDiff, Nat.reduceSub, Nat.reduceAdd, BitVec.reduceExtractLsb'])]
    simp only [decode26, ext_hi, ext_lo, ext_all, Nat.reduceLeDiff, Nat.reduceSub, Nat.reduceAdd, BitVec.reduceToNat, BitVec.reduceExtractLsb', fieldsOk, hw, beq_self_eq_true,
      Bool.and_self, if_true]
theorem vsubs (d : BitVec 5) (a : BitVec 5) (b : BitVec 5) (m : BitVec 3) (t : BitVec 3) : Statement (.vsubs d a b m t) := by
  intro hw
  refine good_one rfl ?_ fun x => ?_
  · simp only [isLong, ext_hi, ext_lo, Nat.reduceLeDiff, Nat.reduceSub, Nat.reduceAdd, BitVec.reduceExtractLsb']; decide
  · rw [decode26_of _ (by simp only [ext_hi, ext_lo, ext_all, Nat.reduceLeDiff, Nat.reduceSub, Nat.reduceAdd, BitVec.reduceExtractLsb'])]
    simp only [decode26, ext_hi, ext_lo, ext_all, Nat.reduceLeDiff, Nat.reduceSub, Nat.reduceAdd, BitVec.reduceToNat, BitVec.reduceExtractLsb', fieldsOk, hw, beq_self_eq_true,
      Bool.and_self, if_true]
theorem vcmpeq (d : BitVec 3) (a : BitVec 5) (b : BitVec 5) (m : BitVec 3) (t : BitVec 3) : Statement (.vcmpeq d a b m t) := by
  intro hw
  refine good_one rfl ?_ fun x => ?_
  · simp only [isLong, ext_hi, ext_lo, Nat.reduceLeDiff, Nat.reduceSub, Nat.reduceAdd, BitVec.reduceExtractLsb']; decide
  · rw [decode26_of _ (by simp only [ext_hi, ext_lo, ext_all, Nat.reduceLeDiff, Nat.reduceSub, Nat.reduceAdd, BitVec.reduceExtractLsb'])]
    simp only [decode26, ext_hi, ext_lo, ext_all, Nat.reduceLeDiff, Nat.reduceSub, Nat.reduceAdd, BitVec.reduceToNat, BitVec.reduceExtractLsb', fieldsOk, hw, beq_self_eq_true,
      Bool.and_self, if_true]
theorem vcmplt (d : BitVec 3) (a : BitVec 5) (b : BitVec 5) (m : BitVec 3) (t : BitVec 3) : Statement (.vcmplt d a b m t) := by
  intro hw
  refine good_one rfl ?_ fun x => ?_
  · simp only [isLong, ext_hi, ext_lo, Nat.reduceLeDiff, Nat.reduceSub, Nat.reduceAdd, BitVec.reduceExtractLsb']; decide
  · rw [decode26_of _ (by simp only [ext_hi, ext_lo, ext_all, Nat.reduceLeDiff, Nat.reduceSub, Nat.reduceAdd, BitVec.reduceExtractLsb'])]
    simp only [decode26, ext_hi, ext_lo, ext_all, Nat.reduceLeDiff, Nat.reduceSub, Nat.reduceAdd, BitVec.reduceToNat, BitVec.reduceExtractLsb', fieldsOk, hw, beq_self_eq_true,
      Bool.and_self, if_true]
theorem vcmple (d : BitVec 3) (a : BitVec 5) (b : BitVec 5) (m : BitVec 3) (t : BitVec 3) : Statement (.vcmple d a b m t) := by
  intro hw
  refine good_one rfl ?_ fun x => ?_
  · simp only [isLong, ext_hi, ext_lo, Nat.reduceLeDiff, Nat.reduceSub, Nat.reduceAdd, BitVec.reduceExtractLsb']; decide
  · rw [decode26_of _ (by simp only [ext_hi, ext_lo, ext_all, Nat.reduceLeDiff, Nat.reduceSub, Nat.reduceAdd, BitVec.reduceExtractLsb'])]
    simp only [decode26, ext_hi, ext_lo, ext_all, Nat.reduceLeDiff, Nat.reduceSub, Nat.reduceAdd, BitVec.reduceToNat, BitVec.reduceExtractLsb', fieldsOk, hw, beq_self_eq_true,
      Bool.and_self, if_true]
theorem vsel (d : BitVec 5) (a : BitVec 5) (b : BitVec 5) (m : BitVec 3) (t : BitVec 3) : Statement (.vsel d a b m t) := by
  intro hw
  refine good_one rfl ?_ fun x => ?_
  · simp only [isLong, ext_hi, ext_lo, Nat.reduceLeDiff, Nat.reduceSub, Nat.reduceAdd, BitVec.reduceExtractLsb']; decide
  · rw [decode26_of _ (by simp only [ext_hi, ext_lo, ext_all, Nat.reduceLeDiff, Nat.reduceSub, Nat.reduceAdd, BitVec.reduceExtractLsb'])]
    simp only [decode26, ext_hi, ext_lo, ext_all, Nat.reduceLeDiff, Nat.reduceSub, Nat.reduceAdd, BitVec.reduceToNat, BitVec.reduceExtractLsb', fieldsOk, hw, beq_self_eq_true,
      Bool.and_self, if_true]
theorem vfadd (d : BitVec 5) (a : BitVec 5) (b : BitVec 5) (m : BitVec 3) (t : BitVec 3) : Statement (.vfadd d a b m t) := by
  intro hw
  refine good_one rfl ?_ fun x => ?_
  · simp only [isLong, ext_hi, ext_lo, Nat.reduceLeDiff, Nat.reduceSub, Nat.reduceAdd, BitVec.reduceExtractLsb']; decide
  · rw [decode27_of _ (by simp only [ext_hi, ext_lo, ext_all, Nat.reduceLeDiff, Nat.reduceSub, Nat.reduceAdd, BitVec.reduceExtractLsb'])]
    simp only [decode27, ext_hi, ext_lo, ext_all, Nat.reduceLeDiff, Nat.reduceSub, Nat.reduceAdd, BitVec.reduceToNat, BitVec.reduceExtractLsb', fieldsOk, hw, beq_self_eq_true,
      Bool.and_self, if_true]
theorem vfsub (d : BitVec 5) (a : BitVec 5) (b : BitVec 5) (m : BitVec 3) (t : BitVec 3) : Statement (.vfsub d a b m t) := by
  intro hw
  refine good_one rfl ?_ fun x => ?_
  · simp only [isLong, ext_hi, ext_lo, Nat.reduceLeDiff, Nat.reduceSub, Nat.reduceAdd, BitVec.reduceExtractLsb']; decide
  · rw [decode27_of _ (by simp only [ext_hi, ext_lo, ext_all, Nat.reduceLeDiff, Nat.reduceSub, Nat.reduceAdd, BitVec.reduceExtractLsb'])]
    simp only [decode27, ext_hi, ext_lo, ext_all, Nat.reduceLeDiff, Nat.reduceSub, Nat.reduceAdd, BitVec.reduceToNat, BitVec.reduceExtractLsb', fieldsOk, hw, beq_self_eq_true,
      Bool.and_self, if_true]
theorem vfmul (d : BitVec 5) (a : BitVec 5) (b : BitVec 5) (m : BitVec 3) (t : BitVec 3) : Statement (.vfmul d a b m t) := by
  intro hw
  refine good_one rfl ?_ fun x => ?_
  · simp only [isLong, ext_hi, ext_lo, Nat.reduceLeDiff, Nat.reduceSub, Nat.reduceAdd, BitVec.reduceExtractLsb']; decide
  · rw [decode27_of _ (by simp only [ext_hi, ext_lo, ext_all, Nat.reduceLeDiff, Nat.reduceSub, Nat.reduceAdd, BitVec.reduceExtractLsb'])]
    simp only [decode27, ext_hi, ext_lo, ext_all, Nat.reduceLeDiff, Nat.reduceSub, Nat.reduceAdd, BitVec.reduceToNat, BitVec.reduceExtractLsb', fieldsOk, hw, beq_self_eq_true,
      Bool.and_self, if_true]
theorem vfma (d : BitVec 5) (a : BitVec 5) (b : BitVec 5) (m : BitVec 3) (t : BitVec 3) : Statement (.vfma d a b m t) := by
  intro hw
  refine good_one rfl ?_ fun x => ?_
  · simp only [isLong, ext_hi, ext_lo, Nat.reduceLeDiff, Nat.reduceSub, Nat.reduceAdd, BitVec.reduceExtractLsb']; decide
  · rw [decode27_of _ (by simp only [ext_hi, ext_lo, ext_all, Nat.reduceLeDiff, Nat.reduceSub, Nat.reduceAdd, BitVec.reduceExtractLsb'])]
    simp only [decode27, ext_hi, ext_lo, ext_all, Nat.reduceLeDiff, Nat.reduceSub, Nat.reduceAdd, BitVec.reduceToNat, BitVec.reduceExtractLsb', fieldsOk, hw, beq_self_eq_true,
      Bool.and_self, if_true]
theorem vfms (d : BitVec 5) (a : BitVec 5) (b : BitVec 5) (m : BitVec 3) (t : BitVec 3) : Statement (.vfms d a b m t) := by
  intro hw
  refine good_one rfl ?_ fun x => ?_
  · simp only [isLong, ext_hi, ext_lo, Nat.reduceLeDiff, Nat.reduceSub, Nat.reduceAdd, BitVec.reduceExtractLsb']; decide
  · rw [decode27_of _ (by simp only [ext_hi, ext_lo, ext_all, Nat.reduceLeDiff, Nat.reduceSub, Nat.reduceAdd, BitVec.reduceExtractLsb'])]
    simp only [decode27, ext_hi, ext_lo, ext_all, Nat.reduceLeDiff, Nat.reduceSub, Nat.reduceAdd, BitVec.reduceToNat, BitVec.reduceExtractLsb', fieldsOk, hw, beq_self_eq_true,
      Bool.and_self, if_true]
theorem vfnma (d : BitVec 5) (a : BitVec 5) (b : BitVec 5) (m : BitVec 3) (t : BitVec 3) : Statement (.vfnma d a b m t) := by
  intro hw
  refine good_one rfl ?_ fun x => ?_
  · simp only [isLong, ext_hi, ext_lo, Nat.reduceLeDiff, Nat.reduceSub, Nat.reduceAdd, BitVec.reduceExtractLsb']; decide
  · rw [decode27_of _ (by simp only [ext_hi, ext_lo, ext_all, Nat.reduceLeDiff, Nat.reduceSub, Nat.reduceAdd, BitVec.reduceExtractLsb'])]
    simp only [decode27, ext_hi, ext_lo, ext_all, Nat.reduceLeDiff, Nat.reduceSub, Nat.reduceAdd, BitVec.reduceToNat, BitVec.reduceExtractLsb', fieldsOk, hw, beq_self_eq_true,
      Bool.and_self, if_true]
theorem vfmin (d : BitVec 5) (a : BitVec 5) (b : BitVec 5) (m : BitVec 3) (t : BitVec 3) : Statement (.vfmin d a b m t) := by
  intro hw
  refine good_one rfl ?_ fun x => ?_
  · simp only [isLong, ext_hi, ext_lo, Nat.reduceLeDiff, Nat.reduceSub, Nat.reduceAdd, BitVec.reduceExtractLsb']; decide
  · rw [decode27_of _ (by simp only [ext_hi, ext_lo, ext_all, Nat.reduceLeDiff, Nat.reduceSub, Nat.reduceAdd, BitVec.reduceExtractLsb'])]
    simp only [decode27, ext_hi, ext_lo, ext_all, Nat.reduceLeDiff, Nat.reduceSub, Nat.reduceAdd, BitVec.reduceToNat, BitVec.reduceExtractLsb', fieldsOk, hw, beq_self_eq_true,
      Bool.and_self, if_true]
theorem vfmax (d : BitVec 5) (a : BitVec 5) (b : BitVec 5) (m : BitVec 3) (t : BitVec 3) : Statement (.vfmax d a b m t) := by
  intro hw
  refine good_one rfl ?_ fun x => ?_
  · simp only [isLong, ext_hi, ext_lo, Nat.reduceLeDiff, Nat.reduceSub, Nat.reduceAdd, BitVec.reduceExtractLsb']; decide
  · rw [decode27_of _ (by simp only [ext_hi, ext_lo, ext_all, Nat.reduceLeDiff, Nat.reduceSub, Nat.reduceAdd, BitVec.reduceExtractLsb'])]
    simp only [decode27, ext_hi, ext_lo, ext_all, Nat.reduceLeDiff, Nat.reduceSub, Nat.reduceAdd, BitVec.reduceToNat, BitVec.reduceExtractLsb', fieldsOk, hw, beq_self_eq_true,
      Bool.and_self, if_true]
theorem vfabs (d : BitVec 5) (a : BitVec 5) (m : BitVec 3) (t : BitVec 3) : Statement (.vfabs d a m t) := by
  intro hw
  refine good_one rfl ?_ fun x => ?_
  · simp only [isLong, ext_hi, ext_lo, Nat.reduceLeDiff, Nat.reduceSub, Nat.reduceAdd, BitVec.reduceExtractLsb']; decide
  · rw [decode27_of _ (by simp only [ext_hi, ext_lo, ext_all, Nat.reduceLeDiff, Nat.reduceSub, Nat.reduceAdd, BitVec.reduceExtractLsb'])]
    simp only [decode27, ext_hi, ext_lo, ext_all, Nat.reduceLeDiff, Nat.reduceSub, Nat.reduceAdd, BitVec.reduceToNat, BitVec.reduceExtractLsb', fieldsOk, hw, beq_self_eq_true,
      Bool.and_self, if_true]
theorem vfneg (d : BitVec 5) (a : BitVec 5) (m : BitVec 3) (t : BitVec 3) : Statement (.vfneg d a m t) := by
  intro hw
  refine good_one rfl ?_ fun x => ?_
  · simp only [isLong, ext_hi, ext_lo, Nat.reduceLeDiff, Nat.reduceSub, Nat.reduceAdd, BitVec.reduceExtractLsb']; decide
  · rw [decode27_of _ (by simp only [ext_hi, ext_lo, ext_all, Nat.reduceLeDiff, Nat.reduceSub, Nat.reduceAdd, BitVec.reduceExtractLsb'])]
    simp only [decode27, ext_hi, ext_lo, ext_all, Nat.reduceLeDiff, Nat.reduceSub, Nat.reduceAdd, BitVec.reduceToNat, BitVec.reduceExtractLsb', fieldsOk, hw, beq_self_eq_true,
      Bool.and_self, if_true]
theorem vfrcp (d : BitVec 5) (a : BitVec 5) (m : BitVec 3) (t : BitVec 3) : Statement (.vfrcp d a m t) := by
  intro hw
  refine good_one rfl ?_ fun x => ?_
  · simp only [isLong, ext_hi, ext_lo, Nat.reduceLeDiff, Nat.reduceSub, Nat.reduceAdd, BitVec.reduceExtractLsb']; decide
  · rw [decode27_of _ (by simp only [ext_hi, ext_lo, ext_all, Nat.reduceLeDiff, Nat.reduceSub, Nat.reduceAdd, BitVec.reduceExtractLsb'])]
    simp only [decode27, ext_hi, ext_lo, ext_all, Nat.reduceLeDiff, Nat.reduceSub, Nat.reduceAdd, BitVec.reduceToNat, BitVec.reduceExtractLsb', fieldsOk, hw, beq_self_eq_true,
      Bool.and_self, if_true]
theorem vfrsq (d : BitVec 5) (a : BitVec 5) (m : BitVec 3) (t : BitVec 3) : Statement (.vfrsq d a m t) := by
  intro hw
  refine good_one rfl ?_ fun x => ?_
  · simp only [isLong, ext_hi, ext_lo, Nat.reduceLeDiff, Nat.reduceSub, Nat.reduceAdd, BitVec.reduceExtractLsb']; decide
  · rw [decode27_of _ (by simp only [ext_hi, ext_lo, ext_all, Nat.reduceLeDiff, Nat.reduceSub, Nat.reduceAdd, BitVec.reduceExtractLsb'])]
    simp only [decode27, ext_hi, ext_lo, ext_all, Nat.reduceLeDiff, Nat.reduceSub, Nat.reduceAdd, BitVec.reduceToNat, BitVec.reduceExtractLsb', fieldsOk, hw, beq_self_eq_true,
      Bool.and_self, if_true]
theorem vfceq (d : BitVec 3) (a : BitVec 5) (b : BitVec 5) (m : BitVec 3) (t : BitVec 3) : Statement (.vfceq d a b m t) := by
  intro hw
  refine good_one rfl ?_ fun x => ?_
  · simp only [isLong, ext_hi, ext_lo, Nat.reduceLeDiff, Nat.reduceSub, Nat.reduceAdd, BitVec.reduceExtractLsb']; decide
  · rw [decode27_of _ (by simp only [ext_hi, ext_lo, ext_all, Nat.reduceLeDiff, Nat.reduceSub, Nat.reduceAdd, BitVec.reduceExtractLsb'])]
    simp only [decode27, ext_hi, ext_lo, ext_all, Nat.reduceLeDiff, Nat.reduceSub, Nat.reduceAdd, BitVec.reduceToNat, BitVec.reduceExtractLsb', fieldsOk, hw, beq_self_eq_true,
      Bool.and_self, if_true]
theorem vfclt (d : BitVec 3) (a : BitVec 5) (b : BitVec 5) (m : BitVec 3) (t : BitVec 3) : Statement (.vfclt d a b m t) := by
  intro hw
  refine good_one rfl ?_ fun x => ?_
  · simp only [isLong, ext_hi, ext_lo, Nat.reduceLeDiff, Nat.reduceSub, Nat.reduceAdd, BitVec.reduceExtractLsb']; decide
  · rw [decode27_of _ (by simp only [ext_hi, ext_lo, ext_all, Nat.reduceLeDiff, Nat.reduceSub, Nat.reduceAdd, BitVec.reduceExtractLsb'])]
    simp only [decode27, ext_hi, ext_lo, ext_all, Nat.reduceLeDiff, Nat.reduceSub, Nat.reduceAdd, BitVec.reduceToNat, BitVec.reduceExtractLsb', fieldsOk, hw, beq_self_eq_true,
      Bool.and_self, if_true]
theorem vfcle (d : BitVec 3) (a : BitVec 5) (b : BitVec 5) (m : BitVec 3) (t : BitVec 3) : Statement (.vfcle d a b m t) := by
  intro hw
  refine good_one rfl ?_ fun x => ?_
  · simp only [isLong, ext_hi, ext_lo, Nat.reduceLeDiff, Nat.reduceSub, Nat.reduceAdd, BitVec.reduceExtractLsb']; decide
  · rw [decode27_of _ (by simp only [ext_hi, ext_lo, ext_all, Nat.reduceLeDiff, Nat.reduceSub, Nat.reduceAdd, BitVec.reduceExtractLsb'])]
    simp only [decode27, ext_hi, ext_lo, ext_all, Nat.reduceLeDiff, Nat.reduceSub, Nat.reduceAdd, BitVec.reduceToNat, BitVec.reduceExtractLsb', fieldsOk, hw, beq_self_eq_true,
      Bool.and_self, if_true]
theorem vfclass (d : BitVec 5) (a : BitVec 5) (m : BitVec 3) (t : BitVec 3) : Statement (.vfclass d a m t) := by
  intro hw
  refine good_one rfl ?_ fun x => ?_
  · simp only [isLong, ext_hi, ext_lo, Nat.reduceLeDiff, Nat.reduceSub, Nat.reduceAdd, BitVec.reduceExtractLsb']; decide
  · rw [decode27_of _ (by simp only [ext_hi, ext_lo, ext_all, Nat.reduceLeDiff, Nat.reduceSub, Nat.reduceAdd, BitVec.reduceExtractLsb'])]
    simp only [decode27, ext_hi, ext_lo, ext_all, Nat.reduceLeDiff, Nat.reduceSub, Nat.reduceAdd, BitVec.reduceToNat, BitVec.reduceExtractLsb', fieldsOk, hw, beq_self_eq_true,
      Bool.and_self, if_true]
theorem vcvt (d : BitVec 5) (a : BitVec 5) (b : BitVec 5) (m : BitVec 3) (g : BitVec 5) (r : BitVec 3) : Statement (.vcvt d a b m g r) := by
  intro hw
  refine good_one rfl ?_ fun x => ?_
  · simp only [isLong, ext_hi, ext_lo, Nat.reduceLeDiff, Nat.reduceSub, Nat.reduceAdd, BitVec.reduceExtractLsb']; decide
  · simp only [decode, ext_hi, ext_lo, ext_all, Nat.reduceLeDiff, Nat.reduceSub, Nat.reduceAdd, BitVec.reduceToNat, BitVec.reduceExtractLsb', fieldsOk, hw, beq_self_eq_true,
      Bool.and_self, if_true]
theorem vqblk (d : BitVec 5) (a : BitVec 5) (b : BitVec 5) (k : BitVec 3) (t : BitVec 3) : Statement (.vqblk d a b k t) := by
  intro hw
  refine good_one rfl ?_ fun x => ?_
  · simp only [isLong, ext_hi, ext_lo, Nat.reduceLeDiff, Nat.reduceSub, Nat.reduceAdd, BitVec.reduceExtractLsb']; decide
  · rw [decode29_of _ (by simp only [ext_hi, ext_lo, ext_all, Nat.reduceLeDiff, Nat.reduceSub, Nat.reduceAdd, BitVec.reduceExtractLsb'])]
    simp only [decode29, ext_hi, ext_lo, ext_all, Nat.reduceLeDiff, Nat.reduceSub, Nat.reduceAdd, BitVec.reduceToNat, BitVec.reduceExtractLsb', fieldsOk, hw, beq_self_eq_true,
      Bool.and_self, if_true]
theorem vdqblk (d : BitVec 5) (a : BitVec 5) (b : BitVec 5) (k : BitVec 3) (t : BitVec 3) : Statement (.vdqblk d a b k t) := by
  intro hw
  refine good_one rfl ?_ fun x => ?_
  · simp only [isLong, ext_hi, ext_lo, Nat.reduceLeDiff, Nat.reduceSub, Nat.reduceAdd, BitVec.reduceExtractLsb']; decide
  · rw [decode29_of _ (by simp only [ext_hi, ext_lo, ext_all, Nat.reduceLeDiff, Nat.reduceSub, Nat.reduceAdd, BitVec.reduceExtractLsb'])]
    simp only [decode29, ext_hi, ext_lo, ext_all, Nat.reduceLeDiff, Nat.reduceSub, Nat.reduceAdd, BitVec.reduceToNat, BitVec.reduceExtractLsb', fieldsOk, hw, beq_self_eq_true,
      Bool.and_self, if_true]
theorem vbaddq (d : BitVec 5) (a : BitVec 5) (k : BitVec 3) (t : BitVec 3) : Statement (.vbaddq d a k t) := by
  intro hw
  refine good_one rfl ?_ fun x => ?_
  · simp only [isLong, ext_hi, ext_lo, Nat.reduceLeDiff, Nat.reduceSub, Nat.reduceAdd, BitVec.reduceExtractLsb']; decide
  · rw [decode29_of _ (by simp only [ext_hi, ext_lo, ext_all, Nat.reduceLeDiff, Nat.reduceSub, Nat.reduceAdd, BitVec.reduceExtractLsb'])]
    simp only [decode29, ext_hi, ext_lo, ext_all, Nat.reduceLeDiff, Nat.reduceSub, Nat.reduceAdd, BitVec.reduceToNat, BitVec.reduceExtractLsb', fieldsOk, hw, beq_self_eq_true,
      Bool.and_self, if_true]
theorem vbscal (a : BitVec 5) (k : BitVec 3) (t : BitVec 3) : Statement (.vbscal a k t) := by
  intro hw
  refine good_one rfl ?_ fun x => ?_
  · simp only [isLong, ext_hi, ext_lo, Nat.reduceLeDiff, Nat.reduceSub, Nat.reduceAdd, BitVec.reduceExtractLsb']; decide
  · rw [decode29_of _ (by simp only [ext_hi, ext_lo, ext_all, Nat.reduceLeDiff, Nat.reduceSub, Nat.reduceAdd, BitVec.reduceExtractLsb'])]
    simp only [decode29, ext_hi, ext_lo, ext_all, Nat.reduceLeDiff, Nat.reduceSub, Nat.reduceAdd, BitVec.reduceToNat, BitVec.reduceExtractLsb', fieldsOk, hw, beq_self_eq_true,
      Bool.and_self, if_true]
theorem vbcast (d : BitVec 5) (a : BitVec 5) (m : BitVec 3) (t : BitVec 3) : Statement (.vbcast d a m t) := by
  intro hw
  refine good_one rfl ?_ fun x => ?_
  · simp only [isLong, ext_hi, ext_lo, Nat.reduceLeDiff, Nat.reduceSub, Nat.reduceAdd, BitVec.reduceExtractLsb']; decide
  · rw [decode2A_of _ (by simp only [ext_hi, ext_lo, ext_all, Nat.reduceLeDiff, Nat.reduceSub, Nat.reduceAdd, BitVec.reduceExtractLsb'])]
    simp only [decode2A, ext_hi, ext_lo, ext_all, Nat.reduceLeDiff, Nat.reduceSub, Nat.reduceAdd, BitVec.reduceToNat, BitVec.reduceExtractLsb', fieldsOk, hw, beq_self_eq_true,
      Bool.and_self, if_true]
theorem vext (d : BitVec 5) (a : BitVec 5) (b : BitVec 5) (t : BitVec 3) : Statement (.vext d a b t) := by
  intro hw
  refine good_one rfl ?_ fun x => ?_
  · simp only [isLong, ext_hi, ext_lo, Nat.reduceLeDiff, Nat.reduceSub, Nat.reduceAdd, BitVec.reduceExtractLsb']; decide
  · rw [decode2A_of _ (by simp only [ext_hi, ext_lo, ext_all, Nat.reduceLeDiff, Nat.reduceSub, Nat.reduceAdd, BitVec.reduceExtractLsb'])]
    simp only [decode2A, ext_hi, ext_lo, ext_all, Nat.reduceLeDiff, Nat.reduceSub, Nat.reduceAdd, BitVec.reduceToNat, BitVec.reduceExtractLsb', fieldsOk, hw, beq_self_eq_true,
      Bool.and_self, if_true]
theorem vins (d : BitVec 5) (a : BitVec 5) (b : BitVec 5) (t : BitVec 3) : Statement (.vins d a b t) := by
  intro hw
  refine good_one rfl ?_ fun x => ?_
  · simp only [isLong, ext_hi, ext_lo, Nat.reduceLeDiff, Nat.reduceSub, Nat.reduceAdd, BitVec.reduceExtractLsb']; decide
  · rw [decode2A_of _ (by simp only [ext_hi, ext_lo, ext_all, Nat.reduceLeDiff, Nat.reduceSub, Nat.reduceAdd, BitVec.reduceExtractLsb'])]
    simp only [decode2A, ext_hi, ext_lo, ext_all, Nat.reduceLeDiff, Nat.reduceSub, Nat.reduceAdd, BitVec.reduceToNat, BitVec.reduceExtractLsb', fieldsOk, hw, beq_self_eq_true,
      Bool.and_self, if_true]
theorem vperm (d : BitVec 5) (a : BitVec 5) (b : BitVec 5) (m : BitVec 3) (t : BitVec 3) : Statement (.vperm d a b m t) := by
  intro hw
  refine good_one rfl ?_ fun x => ?_
  · simp only [isLong, ext_hi, ext_lo, Nat.reduceLeDiff, Nat.reduceSub, Nat.reduceAdd, BitVec.reduceExtractLsb']; decide
  · rw [decode2A_of _ (by simp only [ext_hi, ext_lo, ext_all, Nat.reduceLeDiff, Nat.reduceSub, Nat.reduceAdd, BitVec.reduceExtractLsb'])]
    simp only [decode2A, ext_hi, ext_lo, ext_all, Nat.reduceLeDiff, Nat.reduceSub, Nat.reduceAdd, BitVec.reduceToNat, BitVec.reduceExtractLsb', fieldsOk, hw, beq_self_eq_true,
      Bool.and_self, if_true]
theorem vcomp (d : BitVec 5) (a : BitVec 5) (b : BitVec 5) (m : BitVec 3) (t : BitVec 3) : Statement (.vcomp d a b m t) := by
  intro hw
  refine good_one rfl ?_ fun x => ?_
  · simp only [isLong, ext_hi, ext_lo, Nat.reduceLeDiff, Nat.reduceSub, Nat.reduceAdd, BitVec.reduceExtractLsb']; decide
  · rw [decode2A_of _ (by simp only [ext_hi, ext_lo, ext_all, Nat.reduceLeDiff, Nat.reduceSub, Nat.reduceAdd, BitVec.reduceExtractLsb'])]
    simp only [decode2A, ext_hi, ext_lo, ext_all, Nat.reduceLeDiff, Nat.reduceSub, Nat.reduceAdd, BitVec.reduceToNat, BitVec.reduceExtractLsb', fieldsOk, hw, beq_self_eq_true,
      Bool.and_self, if_true]
theorem vexpd (d : BitVec 5) (a : BitVec 5) (m : BitVec 3) (t : BitVec 3) : Statement (.vexpd d a m t) := by
  intro hw
  refine good_one rfl ?_ fun x => ?_
  · simp only [isLong, ext_hi, ext_lo, Nat.reduceLeDiff, Nat.reduceSub, Nat.reduceAdd, BitVec.reduceExtractLsb']; decide
  · rw [decode2A_of _ (by simp only [ext_hi, ext_lo, ext_all, Nat.reduceLeDiff, Nat.reduceSub, Nat.reduceAdd, BitVec.reduceExtractLsb'])]
    simp only [decode2A, ext_hi, ext_lo, ext_all, Nat.reduceLeDiff, Nat.reduceSub, Nat.reduceAdd, BitVec.reduceToNat, BitVec.reduceExtractLsb', fieldsOk, hw, beq_self_eq_true,
      Bool.and_self, if_true]
theorem viota (d : BitVec 5) (a : BitVec 5) (m : BitVec 3) (t : BitVec 3) : Statement (.viota d a m t) := by
  intro hw
  refine good_one rfl ?_ fun x => ?_
  · simp only [isLong, ext_hi, ext_lo, Nat.reduceLeDiff, Nat.reduceSub, Nat.reduceAdd, BitVec.reduceExtractLsb']; decide
  · rw [decode2A_of _ (by simp only [ext_hi, ext_lo, ext_all, Nat.reduceLeDiff, Nat.reduceSub, Nat.reduceAdd, BitVec.reduceExtractLsb'])]
    simp only [decode2A, ext_hi, ext_lo, ext_all, Nat.reduceLeDiff, Nat.reduceSub, Nat.reduceAdd, BitVec.reduceToNat, BitVec.reduceExtractLsb', fieldsOk, hw, beq_self_eq_true,
      Bool.and_self, if_true]
theorem vslide (d : BitVec 5) (a : BitVec 5) (b : BitVec 5) (m : BitVec 3) (t : BitVec 3) : Statement (.vslide d a b m t) := by
  intro hw
  refine good_one rfl ?_ fun x => ?_
  · simp only [isLong, ext_hi, ext_lo, Nat.reduceLeDiff, Nat.reduceSub, Nat.reduceAdd, BitVec.reduceExtractLsb']; decide
  · rw [decode2A_of _ (by simp only [ext_hi, ext_lo, ext_all, Nat.reduceLeDiff, Nat.reduceSub, Nat.reduceAdd, BitVec.reduceExtractLsb'])]
    simp only [decode2A, ext_hi, ext_lo, ext_all, Nat.reduceLeDiff, Nat.reduceSub, Nat.reduceAdd, BitVec.reduceToNat, BitVec.reduceExtractLsb', fieldsOk, hw, beq_self_eq_true,
      Bool.and_self, if_true]
theorem vmov (d : BitVec 5) (a : BitVec 5) (m : BitVec 3) (t : BitVec 3) : Statement (.vmov d a m t) := by
  intro hw
  refine good_one rfl ?_ fun x => ?_
  · simp only [isLong, ext_hi, ext_lo, Nat.reduceLeDiff, Nat.reduceSub, Nat.reduceAdd, BitVec.reduceExtractLsb']; decide
  · rw [decode2A_of _ (by simp only [ext_hi, ext_lo, ext_all, Nat.reduceLeDiff, Nat.reduceSub, Nat.reduceAdd, BitVec.reduceExtractLsb'])]
    simp only [decode2A, ext_hi, ext_lo, ext_all, Nat.reduceLeDiff, Nat.reduceSub, Nat.reduceAdd, BitVec.reduceToNat, BitVec.reduceExtractLsb', fieldsOk, hw, beq_self_eq_true,
      Bool.and_self, if_true]
theorem vredadd (d : BitVec 5) (a : BitVec 5) (m : BitVec 3) (t : BitVec 3) : Statement (.vredadd d a m t) := by
  intro hw
  refine good_one rfl ?_ fun x => ?_
  · simp only [isLong, ext_hi, ext_lo, Nat.reduceLeDiff, Nat.reduceSub, Nat.reduceAdd, BitVec.reduceExtractLsb']; decide
  · rw [decode2B_of _ (by simp only [ext_hi, ext_lo, ext_all, Nat.reduceLeDiff, Nat.reduceSub, Nat.reduceAdd, BitVec.reduceExtractLsb'])]
    simp only [decode2B, ext_hi, ext_lo, ext_all, Nat.reduceLeDiff, Nat.reduceSub, Nat.reduceAdd, BitVec.reduceToNat, BitVec.reduceExtractLsb', fieldsOk, hw, beq_self_eq_true,
      Bool.and_self, if_true]
theorem vredmax (d : BitVec 5) (a : BitVec 5) (m : BitVec 3) (t : BitVec 3) : Statement (.vredmax d a m t) := by
  intro hw
  refine good_one rfl ?_ fun x => ?_
  · simp only [isLong, ext_hi, ext_lo, Nat.reduceLeDiff, Nat.reduceSub, Nat.reduceAdd, BitVec.reduceExtractLsb']; decide
  · rw [decode2B_of _ (by simp only [ext_hi, ext_lo, ext_all, Nat.reduceLeDiff, Nat.reduceSub, Nat.reduceAdd, BitVec.reduceExtractLsb'])]
    simp only [decode2B, ext_hi, ext_lo, ext_all, Nat.reduceLeDiff, Nat.reduceSub, Nat.reduceAdd, BitVec.reduceToNat, BitVec.reduceExtractLsb', fieldsOk, hw, beq_self_eq_true,
      Bool.and_self, if_true]
theorem vredmin (d : BitVec 5) (a : BitVec 5) (m : BitVec 3) (t : BitVec 3) : Statement (.vredmin d a m t) := by
  intro hw
  refine good_one rfl ?_ fun x => ?_
  · simp only [isLong, ext_hi, ext_lo, Nat.reduceLeDiff, Nat.reduceSub, Nat.reduceAdd, BitVec.reduceExtractLsb']; decide
  · rw [decode2B_of _ (by simp only [ext_hi, ext_lo, ext_all, Nat.reduceLeDiff, Nat.reduceSub, Nat.reduceAdd, BitVec.reduceExtractLsb'])]
    simp only [decode2B, ext_hi, ext_lo, ext_all, Nat.reduceLeDiff, Nat.reduceSub, Nat.reduceAdd, BitVec.reduceToNat, BitVec.reduceExtractLsb', fieldsOk, hw, beq_self_eq_true,
      Bool.and_self, if_true]
theorem vfredadd (d : BitVec 5) (a : BitVec 5) (m : BitVec 3) (t : BitVec 3) : Statement (.vfredadd d a m t) := by
  intro hw
  refine good_one rfl ?_ fun x => ?_
  · simp only [isLong, ext_hi, ext_lo, Nat.reduceLeDiff, Nat.reduceSub, Nat.reduceAdd, BitVec.reduceExtractLsb']; decide
  · rw [decode2B_of _ (by simp only [ext_hi, ext_lo, ext_all, Nat.reduceLeDiff, Nat.reduceSub, Nat.reduceAdd, BitVec.reduceExtractLsb'])]
    simp only [decode2B, ext_hi, ext_lo, ext_all, Nat.reduceLeDiff, Nat.reduceSub, Nat.reduceAdd, BitVec.reduceToNat, BitVec.reduceExtractLsb', fieldsOk, hw, beq_self_eq_true,
      Bool.and_self, if_true]
theorem vfredmax (d : BitVec 5) (a : BitVec 5) (m : BitVec 3) (t : BitVec 3) : Statement (.vfredmax d a m t) := by
  intro hw
  refine good_one rfl ?_ fun x => ?_
  · simp only [isLong, ext_hi, ext_lo, Nat.reduceLeDiff, Nat.reduceSub, Nat.reduceAdd, BitVec.reduceExtractLsb']; decide
  · rw [decode2B_of _ (by simp only [ext_hi, ext_lo, ext_all, Nat.reduceLeDiff, Nat.reduceSub, Nat.reduceAdd, BitVec.reduceExtractLsb'])]
    simp only [decode2B, ext_hi, ext_lo, ext_all, Nat.reduceLeDiff, Nat.reduceSub, Nat.reduceAdd, BitVec.reduceToNat, BitVec.reduceExtractLsb', fieldsOk, hw, beq_self_eq_true,
      Bool.and_self, if_true]
theorem vscanadd (d : BitVec 5) (a : BitVec 5) (m : BitVec 3) (t : BitVec 3) : Statement (.vscanadd d a m t) := by
  intro hw
  refine good_one rfl ?_ fun x => ?_
  · simp only [isLong, ext_hi, ext_lo, Nat.reduceLeDiff, Nat.reduceSub, Nat.reduceAdd, BitVec.reduceExtractLsb']; decide
  · rw [decode2B_of _ (by simp only [ext_hi, ext_lo, ext_all, Nat.reduceLeDiff, Nat.reduceSub, Nat.reduceAdd, BitVec.reduceExtractLsb'])]
    simp only [decode2B, ext_hi, ext_lo, ext_all, Nat.reduceLeDiff, Nat.reduceSub, Nat.reduceAdd, BitVec.reduceToNat, BitVec.reduceExtractLsb', fieldsOk, hw, beq_self_eq_true,
      Bool.and_self, if_true]
theorem vfscanadd (d : BitVec 5) (a : BitVec 5) (m : BitVec 3) (t : BitVec 3) : Statement (.vfscanadd d a m t) := by
  intro hw
  refine good_one rfl ?_ fun x => ?_
  · simp only [isLong, ext_hi, ext_lo, Nat.reduceLeDiff, Nat.reduceSub, Nat.reduceAdd, BitVec.reduceExtractLsb']; decide
  · rw [decode2B_of _ (by simp only [ext_hi, ext_lo, ext_all, Nat.reduceLeDiff, Nat.reduceSub, Nat.reduceAdd, BitVec.reduceExtractLsb'])]
    simp only [decode2B, ext_hi, ext_lo, ext_all, Nat.reduceLeDiff, Nat.reduceSub, Nat.reduceAdd, BitVec.reduceToNat, BitVec.reduceExtractLsb', fieldsOk, hw, beq_self_eq_true,
      Bool.and_self, if_true]
theorem kand (d : BitVec 3) (a : BitVec 3) (b : BitVec 3) : Statement (.kand d a b) := by
  intro hw
  refine good_one rfl ?_ fun x => ?_
  · simp only [isLong, ext_hi, ext_lo, Nat.reduceLeDiff, Nat.reduceSub, Nat.reduceAdd, BitVec.reduceExtractLsb']; decide
  · rw [decode2C_of _ (by simp only [ext_hi, ext_lo, ext_all, Nat.reduceLeDiff, Nat.reduceSub, Nat.reduceAdd, BitVec.reduceExtractLsb'])]
    simp only [decode2C, ext_hi, ext_lo, ext_all, Nat.reduceLeDiff, Nat.reduceSub, Nat.reduceAdd, BitVec.reduceToNat, BitVec.reduceExtractLsb', fieldsOk, hw, beq_self_eq_true,
      Bool.and_self, if_true]
theorem kor (d : BitVec 3) (a : BitVec 3) (b : BitVec 3) : Statement (.kor d a b) := by
  intro hw
  refine good_one rfl ?_ fun x => ?_
  · simp only [isLong, ext_hi, ext_lo, Nat.reduceLeDiff, Nat.reduceSub, Nat.reduceAdd, BitVec.reduceExtractLsb']; decide
  · rw [decode2C_of _ (by simp only [ext_hi, ext_lo, ext_all, Nat.reduceLeDiff, Nat.reduceSub, Nat.reduceAdd, BitVec.reduceExtractLsb'])]
    simp only [decode2C, ext_hi, ext_lo, ext_all, Nat.reduceLeDiff, Nat.reduceSub, Nat.reduceAdd, BitVec.reduceToNat, BitVec.reduceExtractLsb', fieldsOk, hw, beq_self_eq_true,
      Bool.and_self, if_true]
theorem kxor (d : BitVec 3) (a : BitVec 3) (b : BitVec 3) : Statement (.kxor d a b) := by
  intro hw
  refine good_one rfl ?_ fun x => ?_
  · simp only [isLong, ext_hi, ext_lo, Nat.reduceLeDiff, Nat.reduceSub, Nat.reduceAdd, BitVec.reduceExtractLsb']; decide
  · rw [decode2C_of _ (by simp only [ext_hi, ext_lo, ext_all, Nat.reduceLeDiff, Nat.reduceSub, Nat.reduceAdd, BitVec.reduceExtractLsb'])]
    simp only [decode2C, ext_hi, ext_lo, ext_all, Nat.reduceLeDiff, Nat.reduceSub, Nat.reduceAdd, BitVec.reduceToNat, BitVec.reduceExtractLsb', fieldsOk, hw, beq_self_eq_true,
      Bool.and_self, if_true]
theorem knot (d : BitVec 3) (a : BitVec 3) : Statement (.knot d a) := by
  intro hw
  refine good_one rfl ?_ fun x => ?_
  · simp only [isLong, ext_hi, ext_lo, Nat.reduceLeDiff, Nat.reduceSub, Nat.reduceAdd, BitVec.reduceExtractLsb']; decide
  · rw [decode2C_of _ (by simp only [ext_hi, ext_lo, ext_all, Nat.reduceLeDiff, Nat.reduceSub, Nat.reduceAdd, BitVec.reduceExtractLsb'])]
    simp only [decode2C, ext_hi, ext_lo, ext_all, Nat.reduceLeDiff, Nat.reduceSub, Nat.reduceAdd, BitVec.reduceToNat, BitVec.reduceExtractLsb', fieldsOk, hw, beq_self_eq_true,
      Bool.and_self, if_true]
theorem kmov (d : BitVec 3) (a : BitVec 3) : Statement (.kmov d a) := by
  intro hw
  refine good_one rfl ?_ fun x => ?_
  · simp only [isLong, ext_hi, ext_lo, Nat.reduceLeDiff, Nat.reduceSub, Nat.reduceAdd, BitVec.reduceExtractLsb']; decide
  · rw [decode2C_of _ (by simp only [ext_hi, ext_lo, ext_all, Nat.reduceLeDiff, Nat.reduceSub, Nat.reduceAdd, BitVec.reduceExtractLsb'])]
    simp only [decode2C, ext_hi, ext_lo, ext_all, Nat.reduceLeDiff, Nat.reduceSub, Nat.reduceAdd, BitVec.reduceToNat, BitVec.reduceExtractLsb', fieldsOk, hw, beq_self_eq_true,
      Bool.and_self, if_true]
theorem kget (d : BitVec 5) (a : BitVec 3) : Statement (.kget d a) := by
  intro hw
  refine good_one rfl ?_ fun x => ?_
  · simp only [isLong, ext_hi, ext_lo, Nat.reduceLeDiff, Nat.reduceSub, Nat.reduceAdd, BitVec.reduceExtractLsb']; decide
  · rw [decode2C_of _ (by simp only [ext_hi, ext_lo, ext_all, Nat.reduceLeDiff, Nat.reduceSub, Nat.reduceAdd, BitVec.reduceExtractLsb'])]
    simp only [decode2C, ext_hi, ext_lo, ext_all, Nat.reduceLeDiff, Nat.reduceSub, Nat.reduceAdd, BitVec.reduceToNat, BitVec.reduceExtractLsb', fieldsOk, hw, beq_self_eq_true,
      Bool.and_self, if_true]
theorem kpopc (d : BitVec 5) (a : BitVec 3) : Statement (.kpopc d a) := by
  intro hw
  refine good_one rfl ?_ fun x => ?_
  · simp only [isLong, ext_hi, ext_lo, Nat.reduceLeDiff, Nat.reduceSub, Nat.reduceAdd, BitVec.reduceExtractLsb']; decide
  · rw [decode2C_of _ (by simp only [ext_hi, ext_lo, ext_all, Nat.reduceLeDiff, Nat.reduceSub, Nat.reduceAdd, BitVec.reduceExtractLsb'])]
    simp only [decode2C, ext_hi, ext_lo, ext_all, Nat.reduceLeDiff, Nat.reduceSub, Nat.reduceAdd, BitVec.reduceToNat, BitVec.reduceExtractLsb', fieldsOk, hw, beq_self_eq_true,
      Bool.and_self, if_true]
theorem kfirst (d : BitVec 5) (a : BitVec 3) : Statement (.kfirst d a) := by
  intro hw
  refine good_one rfl ?_ fun x => ?_
  · simp only [isLong, ext_hi, ext_lo, Nat.reduceLeDiff, Nat.reduceSub, Nat.reduceAdd, BitVec.reduceExtractLsb']; decide
  · rw [decode2C_of _ (by simp only [ext_hi, ext_lo, ext_all, Nat.reduceLeDiff, Nat.reduceSub, Nat.reduceAdd, BitVec.reduceExtractLsb'])]
    simp only [decode2C, ext_hi, ext_lo, ext_all, Nat.reduceLeDiff, Nat.reduceSub, Nat.reduceAdd, BitVec.reduceToNat, BitVec.reduceExtractLsb', fieldsOk, hw, beq_self_eq_true,
      Bool.and_self, if_true]
theorem vrand (d : BitVec 5) (a : BitVec 5) (b : BitVec 5) (m : BitVec 3) : Statement (.vrand d a b m) := by
  intro hw
  refine good_one rfl ?_ fun x => ?_
  · simp only [isLong, ext_hi, ext_lo, Nat.reduceLeDiff, Nat.reduceSub, Nat.reduceAdd, BitVec.reduceExtractLsb']; decide
  · rw [decode2D_of _ (by simp only [ext_hi, ext_lo, ext_all, Nat.reduceLeDiff, Nat.reduceSub, Nat.reduceAdd, BitVec.reduceExtractLsb'])]
    simp only [decode2D, ext_hi, ext_lo, ext_all, Nat.reduceLeDiff, Nat.reduceSub, Nat.reduceAdd, BitVec.reduceToNat, BitVec.reduceExtractLsb', fieldsOk, hw, beq_self_eq_true,
      Bool.and_self, if_true]
theorem vlive (a : BitVec 5) : Statement (.vlive a) := by
  intro hw
  refine good_one rfl ?_ fun x => ?_
  · simp only [isLong, ext_hi, ext_lo, Nat.reduceLeDiff, Nat.reduceSub, Nat.reduceAdd, BitVec.reduceExtractLsb']; decide
  · rw [decode2D_of _ (by simp only [ext_hi, ext_lo, ext_all, Nat.reduceLeDiff, Nat.reduceSub, Nat.reduceAdd, BitVec.reduceExtractLsb'])]
    simp only [decode2D, ext_hi, ext_lo, ext_all, Nat.reduceLeDiff, Nat.reduceSub, Nat.reduceAdd, BitVec.reduceToNat, BitVec.reduceExtractLsb', fieldsOk, hw, beq_self_eq_true,
      Bool.and_self, if_true]
theorem fork (d : BitVec 5) (a : BitVec 5) (b : BitVec 5) (h : BitVec 2) : Statement (.fork d a b h) := by
  intro hw
  refine good_one rfl ?_ fun x => ?_
  · simp only [isLong, ext_hi, ext_lo, Nat.reduceLeDiff, Nat.reduceSub, Nat.reduceAdd, BitVec.reduceExtractLsb']; decide
  · rw [decode2E_of _ (by simp only [ext_hi, ext_lo, ext_all, Nat.reduceLeDiff, Nat.reduceSub, Nat.reduceAdd, BitVec.reduceExtractLsb'])]
    simp only [decode2E, ext_hi, ext_lo, ext_all, Nat.reduceLeDiff, Nat.reduceSub, Nat.reduceAdd, BitVec.reduceToNat, BitVec.reduceExtractLsb', fieldsOk, hw, beq_self_eq_true,
      Bool.and_self, if_true]
theorem forkP (d : BitVec 5) (a : BitVec 5) (b : BitVec 5) (h : BitVec 2) (p : BitVec 2) : Statement (.forkP d a b h p) := by
  intro hw
  refine good_one rfl ?_ fun x => ?_
  · simp only [isLong, ext_hi, ext_lo, Nat.reduceLeDiff, Nat.reduceSub, Nat.reduceAdd, BitVec.reduceExtractLsb']; decide
  · rw [decode2E_of _ (by simp only [ext_hi, ext_lo, ext_all, Nat.reduceLeDiff, Nat.reduceSub, Nat.reduceAdd, BitVec.reduceExtractLsb'])]
    simp only [decode2E, ext_hi, ext_lo, ext_all, Nat.reduceLeDiff, Nat.reduceSub, Nat.reduceAdd, BitVec.reduceToNat, BitVec.reduceExtractLsb', fieldsOk, hw, beq_self_eq_true,
      Bool.and_self, if_true, fork_p_sub, fork_p_ne]
    rfl
theorem done (n : BitVec 5) (h : BitVec 2) : Statement (.done n h) := by
  intro hw
  refine good_one rfl ?_ fun x => ?_
  · simp only [isLong, ext_hi, ext_lo, Nat.reduceLeDiff, Nat.reduceSub, Nat.reduceAdd, BitVec.reduceExtractLsb']; decide
  · rw [decode2E_of _ (by simp only [ext_hi, ext_lo, ext_all, Nat.reduceLeDiff, Nat.reduceSub, Nat.reduceAdd, BitVec.reduceExtractLsb'])]
    simp only [decode2E, ext_hi, ext_lo, ext_all, Nat.reduceLeDiff, Nat.reduceSub, Nat.reduceAdd, BitVec.reduceToNat, BitVec.reduceExtractLsb', fieldsOk, hw, beq_self_eq_true,
      Bool.and_self, if_true]
theorem yield (h : BitVec 2) : Statement (.yield h) := by
  intro hw
  refine good_one rfl ?_ fun x => ?_
  · simp only [isLong, ext_hi, ext_lo, Nat.reduceLeDiff, Nat.reduceSub, Nat.reduceAdd, BitVec.reduceExtractLsb']; decide
  · rw [decode2E_of _ (by simp only [ext_hi, ext_lo, ext_all, Nat.reduceLeDiff, Nat.reduceSub, Nat.reduceAdd, BitVec.reduceExtractLsb'])]
    simp only [decode2E, ext_hi, ext_lo, ext_all, Nat.reduceLeDiff, Nat.reduceSub, Nat.reduceAdd, BitVec.reduceToNat, BitVec.reduceExtractLsb', fieldsOk, hw, beq_self_eq_true,
      Bool.and_self, if_true]
theorem jcinit (d : BitVec 5) (a : BitVec 5) (b : BitVec 5) (h : BitVec 2) : Statement (.jcinit d a b h) := by
  intro hw
  refine good_one rfl ?_ fun x => ?_
  · simp only [isLong, ext_hi, ext_lo, Nat.reduceLeDiff, Nat.reduceSub, Nat.reduceAdd, BitVec.reduceExtractLsb']; decide
  · rw [decode2E_of _ (by simp only [ext_hi, ext_lo, ext_all, Nat.reduceLeDiff, Nat.reduceSub, Nat.reduceAdd, BitVec.reduceExtractLsb'])]
    simp only [decode2E, ext_hi, ext_lo, ext_all, Nat.reduceLeDiff, Nat.reduceSub, Nat.reduceAdd, BitVec.reduceToNat, BitVec.reduceExtractLsb', fieldsOk, hw, beq_self_eq_true,
      Bool.and_self, if_true]
theorem jcinitForce (d : BitVec 5) (a : BitVec 5) (b : BitVec 5) (h : BitVec 2) : Statement (.jcinitForce d a b h) := by
  intro hw
  refine good_one rfl ?_ fun x => ?_
  · simp only [isLong, ext_hi, ext_lo, Nat.reduceLeDiff, Nat.reduceSub, Nat.reduceAdd, BitVec.reduceExtractLsb']; decide
  · rw [decode2E_of _ (by simp only [ext_hi, ext_lo, ext_all, Nat.reduceLeDiff, Nat.reduceSub, Nat.reduceAdd, BitVec.reduceExtractLsb'])]
    simp only [decode2E, ext_hi, ext_lo, ext_all, Nat.reduceLeDiff, Nat.reduceSub, Nat.reduceAdd, BitVec.reduceToNat, BitVec.reduceExtractLsb', fieldsOk, hw, beq_self_eq_true,
      Bool.and_self, if_true]
    rfl
theorem jcdec (d : BitVec 5) (a : BitVec 5) (n : BitVec 5) (h : BitVec 2) : Statement (.jcdec d a n h) := by
  intro hw
  refine good_one rfl ?_ fun x => ?_
  · simp only [isLong, ext_hi, ext_lo, Nat.reduceLeDiff, Nat.reduceSub, Nat.reduceAdd, BitVec.reduceExtractLsb']; decide
  · rw [decode2E_of _ (by simp only [ext_hi, ext_lo, ext_all, Nat.reduceLeDiff, Nat.reduceSub, Nat.reduceAdd, BitVec.reduceExtractLsb'])]
    simp only [decode2E, ext_hi, ext_lo, ext_all, Nat.reduceLeDiff, Nat.reduceSub, Nat.reduceAdd, BitVec.reduceToNat, BitVec.reduceExtractLsb', fieldsOk, hw, beq_self_eq_true,
      Bool.and_self, if_true]
theorem jcwait (a : BitVec 5) (h : BitVec 2) : Statement (.jcwait a h) := by
  intro hw
  refine good_one rfl ?_ fun x => ?_
  · simp only [isLong, ext_hi, ext_lo, Nat.reduceLeDiff, Nat.reduceSub, Nat.reduceAdd, BitVec.reduceExtractLsb']; decide
  · rw [decode2E_of _ (by simp only [ext_hi, ext_lo, ext_all, Nat.reduceLeDiff, Nat.reduceSub, Nat.reduceAdd, BitVec.reduceExtractLsb'])]
    simp only [decode2E, ext_hi, ext_lo, ext_all, Nat.reduceLeDiff, Nat.reduceSub, Nat.reduceAdd, BitVec.reduceToNat, BitVec.reduceExtractLsb', fieldsOk, hw, beq_self_eq_true,
      Bool.and_self, if_true]
theorem jcrd (d : BitVec 5) (a : BitVec 5) (h : BitVec 2) (s : BitVec 3) : Statement (.jcrd d a h s) := by
  intro hw
  refine good_one rfl ?_ fun x => ?_
  · simp only [isLong, ext_hi, ext_lo, Nat.reduceLeDiff, Nat.reduceSub, Nat.reduceAdd, BitVec.reduceExtractLsb']; decide
  · rw [decode2E_of _ (by simp only [ext_hi, ext_lo, ext_all, Nat.reduceLeDiff, Nat.reduceSub, Nat.reduceAdd, BitVec.reduceExtractLsb'])]
    simp only [decode2E, ext_hi, ext_lo, ext_all, Nat.reduceLeDiff, Nat.reduceSub, Nat.reduceAdd, BitVec.reduceToNat, BitVec.reduceExtractLsb', fieldsOk, hw, beq_self_eq_true,
      Bool.and_self, if_true]
theorem sealg (d : BitVec 5) (a : BitVec 5) (b : BitVec 5) (h : BitVec 2) : Statement (.sealg d a b h) := by
  intro hw
  refine good_one rfl ?_ fun x => ?_
  · simp only [isLong, ext_hi, ext_lo, Nat.reduceLeDiff, Nat.reduceSub, Nat.reduceAdd, BitVec.reduceExtractLsb']; decide
  · rw [decode2E_of _ (by simp only [ext_hi, ext_lo, ext_all, Nat.reduceLeDiff, Nat.reduceSub, Nat.reduceAdd, BitVec.reduceExtractLsb'])]
    simp only [decode2E, ext_hi, ext_lo, ext_all, Nat.reduceLeDiff, Nat.reduceSub, Nat.reduceAdd, BitVec.reduceToNat, BitVec.reduceExtractLsb', fieldsOk, hw, beq_self_eq_true,
      Bool.and_self, if_true]
theorem sealq (d : BitVec 5) (a : BitVec 5) (h : BitVec 2) : Statement (.sealq d a h) := by
  intro hw
  refine good_one rfl ?_ fun x => ?_
  · simp only [isLong, ext_hi, ext_lo, Nat.reduceLeDiff, Nat.reduceSub, Nat.reduceAdd, BitVec.reduceExtractLsb']; decide
  · rw [decode2E_of _ (by simp only [ext_hi, ext_lo, ext_all, Nat.reduceLeDiff, Nat.reduceSub, Nat.reduceAdd, BitVec.reduceExtractLsb'])]
    simp only [decode2E, ext_hi, ext_lo, ext_all, Nat.reduceLeDiff, Nat.reduceSub, Nat.reduceAdd, BitVec.reduceToNat, BitVec.reduceExtractLsb', fieldsOk, hw, beq_self_eq_true,
      Bool.and_self, if_true]
theorem self (d : BitVec 5) (a : BitVec 5) (h : BitVec 2) : Statement (.self d a h) := by
  intro hw
  refine good_one rfl ?_ fun x => ?_
  · simp only [isLong, ext_hi, ext_lo, Nat.reduceLeDiff, Nat.reduceSub, Nat.reduceAdd, BitVec.reduceExtractLsb']; decide
  · rw [decode2E_of _ (by simp only [ext_hi, ext_lo, ext_all, Nat.reduceLeDiff, Nat.reduceSub, Nat.reduceAdd, BitVec.reduceExtractLsb'])]
    simp only [decode2E, ext_hi, ext_lo, ext_all, Nat.reduceLeDiff, Nat.reduceSub, Nat.reduceAdd, BitVec.reduceToNat, BitVec.reduceExtractLsb', fieldsOk, hw, beq_self_eq_true,
      Bool.and_self, if_true]
theorem gate (h : BitVec 2) : Statement (.gate h) := by
  intro hw
  refine good_one rfl ?_ fun x => ?_
  · simp only [isLong, ext_hi, ext_lo, Nat.reduceLeDiff, Nat.reduceSub, Nat.reduceAdd, BitVec.reduceExtractLsb']; decide
  · rw [decode2E_of _ (by simp only [ext_hi, ext_lo, ext_all, Nat.reduceLeDiff, Nat.reduceSub, Nat.reduceAdd, BitVec.reduceExtractLsb'])]
    simp only [decode2E, ext_hi, ext_lo, ext_all, Nat.reduceLeDiff, Nat.reduceSub, Nat.reduceAdd, BitVec.reduceToNat, BitVec.reduceExtractLsb', fieldsOk, hw, beq_self_eq_true,
      Bool.and_self, if_true]
theorem migr (d : BitVec 5) (a : BitVec 5) (h : BitVec 2) : Statement (.migr d a h) := by
  intro hw
  refine good_one rfl ?_ fun x => ?_
  · simp only [isLong, ext_hi, ext_lo, Nat.reduceLeDiff, Nat.reduceSub, Nat.reduceAdd, BitVec.reduceExtractLsb']; decide
  · rw [decode2E_of _ (by simp only [ext_hi, ext_lo, ext_all, Nat.reduceLeDiff, Nat.reduceSub, Nat.reduceAdd, BitVec.reduceExtractLsb'])]
    simp only [decode2E, ext_hi, ext_lo, ext_all, Nat.reduceLeDiff, Nat.reduceSub, Nat.reduceAdd, BitVec.reduceToNat, BitVec.reduceExtractLsb', fieldsOk, hw, beq_self_eq_true,
      Bool.and_self, if_true]
theorem csrrd (d : BitVec 5) (c : BitVec 12) : Statement (.csrrd d c) := by
  intro hw
  refine good_one rfl ?_ fun x => ?_
  · simp only [isLong, ext_hi, ext_lo, Nat.reduceLeDiff, Nat.reduceSub, Nat.reduceAdd, BitVec.reduceExtractLsb']; decide
  · rw [decode30_of _ (by simp only [ext_hi, ext_lo, ext_all, Nat.reduceLeDiff, Nat.reduceSub, Nat.reduceAdd, BitVec.reduceExtractLsb'])]
    simp only [decode30, ext_hi, ext_lo, ext_all, Nat.reduceLeDiff, Nat.reduceSub, Nat.reduceAdd, BitVec.reduceToNat, BitVec.reduceExtractLsb', fieldsOk, hw, beq_self_eq_true,
      Bool.and_self, if_true]
theorem csrwr (d : BitVec 5) (a : BitVec 5) (c : BitVec 12) : Statement (.csrwr d a c) := by
  intro hw
  refine good_one rfl ?_ fun x => ?_
  · simp only [isLong, ext_hi, ext_lo, Nat.reduceLeDiff, Nat.reduceSub, Nat.reduceAdd, BitVec.reduceExtractLsb']; decide
  · rw [decode30_of _ (by simp only [ext_hi, ext_lo, ext_all, Nat.reduceLeDiff, Nat.reduceSub, Nat.reduceAdd, BitVec.reduceExtractLsb'])]
    simp only [decode30, ext_hi, ext_lo, ext_all, Nat.reduceLeDiff, Nat.reduceSub, Nat.reduceAdd, BitVec.reduceToNat, BitVec.reduceExtractLsb', fieldsOk, hw, beq_self_eq_true,
      Bool.and_self, if_true]
theorem csrset (d : BitVec 5) (a : BitVec 5) (c : BitVec 12) : Statement (.csrset d a c) := by
  intro hw
  refine good_one rfl ?_ fun x => ?_
  · simp only [isLong, ext_hi, ext_lo, Nat.reduceLeDiff, Nat.reduceSub, Nat.reduceAdd, BitVec.reduceExtractLsb']; decide
  · rw [decode30_of _ (by simp only [ext_hi, ext_lo, ext_all, Nat.reduceLeDiff, Nat.reduceSub, Nat.reduceAdd, BitVec.reduceExtractLsb'])]
    simp only [decode30, ext_hi, ext_lo, ext_all, Nat.reduceLeDiff, Nat.reduceSub, Nat.reduceAdd, BitVec.reduceToNat, BitVec.reduceExtractLsb', fieldsOk, hw, beq_self_eq_true,
      Bool.and_self, if_true]
theorem csrclr (d : BitVec 5) (a : BitVec 5) (c : BitVec 12) : Statement (.csrclr d a c) := by
  intro hw
  refine good_one rfl ?_ fun x => ?_
  · simp only [isLong, ext_hi, ext_lo, Nat.reduceLeDiff, Nat.reduceSub, Nat.reduceAdd, BitVec.reduceExtractLsb']; decide
  · rw [decode30_of _ (by simp only [ext_hi, ext_lo, ext_all, Nat.reduceLeDiff, Nat.reduceSub, Nat.reduceAdd, BitVec.reduceExtractLsb'])]
    simp only [decode30, ext_hi, ext_lo, ext_all, Nat.reduceLeDiff, Nat.reduceSub, Nat.reduceAdd, BitVec.reduceToNat, BitVec.reduceExtractLsb', fieldsOk, hw, beq_self_eq_true,
      Bool.and_self, if_true]
theorem sysc (c : BitVec 12) : Statement (.sysc c) := by
  intro hw
  refine good_one rfl ?_ fun x => ?_
  · simp only [isLong, ext_hi, ext_lo, Nat.reduceLeDiff, Nat.reduceSub, Nat.reduceAdd, BitVec.reduceExtractLsb']; decide
  · rw [decode30_of _ (by simp only [ext_hi, ext_lo, ext_all, Nat.reduceLeDiff, Nat.reduceSub, Nat.reduceAdd, BitVec.reduceExtractLsb'])]
    simp only [decode30, ext_hi, ext_lo, ext_all, Nat.reduceLeDiff, Nat.reduceSub, Nat.reduceAdd, BitVec.reduceToNat, BitVec.reduceExtractLsb', fieldsOk, hw, beq_self_eq_true,
      Bool.and_self, if_true]
theorem trap (c : BitVec 12) : Statement (.trap c) := by
  intro hw
  refine good_one rfl ?_ fun x => ?_
  · simp only [isLong, ext_hi, ext_lo, Nat.reduceLeDiff, Nat.reduceSub, Nat.reduceAdd, BitVec.reduceExtractLsb']; decide
  · rw [decode30_of _ (by simp only [ext_hi, ext_lo, ext_all, Nat.reduceLeDiff, Nat.reduceSub, Nat.reduceAdd, BitVec.reduceExtractLsb'])]
    simp only [decode30, ext_hi, ext_lo, ext_all, Nat.reduceLeDiff, Nat.reduceSub, Nat.reduceAdd, BitVec.reduceToNat, BitVec.reduceExtractLsb', fieldsOk, hw, beq_self_eq_true,
      Bool.and_self, if_true]
theorem eret : Statement (.eret) := by
  intro hw
  refine good_one rfl ?_ fun x => ?_
  · simp only [isLong, ext_hi, ext_lo, Nat.reduceLeDiff, Nat.reduceSub, Nat.reduceAdd, BitVec.reduceExtractLsb']; decide
  · rw [decode30_of _ (by simp only [ext_hi, ext_lo, ext_all, Nat.reduceLeDiff, Nat.reduceSub, Nat.reduceAdd, BitVec.reduceExtractLsb'])]
    simp only [decode30, ext_hi, ext_lo, ext_all, Nat.reduceLeDiff, Nat.reduceSub, Nat.reduceAdd, BitVec.reduceToNat, BitVec.reduceExtractLsb', fieldsOk, hw, beq_self_eq_true,
      Bool.and_self, if_true]
theorem brk : Statement (.brk) := by
  intro hw
  refine good_one rfl ?_ fun x => ?_
  · simp only [isLong, ext_hi, ext_lo, Nat.reduceLeDiff, Nat.reduceSub, Nat.reduceAdd, BitVec.reduceExtractLsb']; decide
  · rw [decode30_of _ (by simp only [ext_hi, ext_lo, ext_all, Nat.reduceLeDiff, Nat.reduceSub, Nat.reduceAdd, BitVec.reduceExtractLsb'])]
    simp only [decode30, ext_hi, ext_lo, ext_all, Nat.reduceLeDiff, Nat.reduceSub, Nat.reduceAdd, BitVec.reduceToNat, BitVec.reduceExtractLsb', fieldsOk, hw, beq_self_eq_true,
      Bool.and_self, if_true]
theorem haltg (g : BitVec 4) : Statement (.haltg g) := by
  intro hw
  refine good_one rfl ?_ fun x => ?_
  · simp only [isLong, ext_hi, ext_lo, Nat.reduceLeDiff, Nat.reduceSub, Nat.reduceAdd, BitVec.reduceExtractLsb']; decide
  · rw [decode30_of _ (by simp only [ext_hi, ext_lo, ext_all, Nat.reduceLeDiff, Nat.reduceSub, Nat.reduceAdd, BitVec.reduceExtractLsb'])]
    simp only [decode30, ext_hi, ext_lo, ext_all, Nat.reduceLeDiff, Nat.reduceSub, Nat.reduceAdd, BitVec.reduceToNat, BitVec.reduceExtractLsb', fieldsOk, hw, beq_self_eq_true,
      Bool.and_self, if_true]
theorem wfi : Statement (.wfi) := by
  intro hw
  refine good_one rfl ?_ fun x => ?_
  · simp only [isLong, ext_hi, ext_lo, Nat.reduceLeDiff, Nat.reduceSub, Nat.reduceAdd, BitVec.reduceExtractLsb']; decide
  · rw [decode30_of _ (by simp only [ext_hi, ext_lo, ext_all, Nat.reduceLeDiff, Nat.reduceSub, Nat.reduceAdd, BitVec.reduceExtractLsb'])]
    simp only [decode30, ext_hi, ext_lo, ext_all, Nat.reduceLeDiff, Nat.reduceSub, Nat.reduceAdd, BitVec.reduceToNat, BitVec.reduceExtractLsb', fieldsOk, hw, beq_self_eq_true,
      Bool.and_self, if_true]
theorem rkset (a : BitVec 5) (b : BitVec 5) (h : BitVec 2) : Statement (.rkset a b h) := by
  intro hw
  refine good_one rfl ?_ fun x => ?_
  · simp only [isLong, ext_hi, ext_lo, Nat.reduceLeDiff, Nat.reduceSub, Nat.reduceAdd, BitVec.reduceExtractLsb']; decide
  · rw [decode31_of _ (by simp only [ext_hi, ext_lo, ext_all, Nat.reduceLeDiff, Nat.reduceSub, Nat.reduceAdd, BitVec.reduceExtractLsb'])]
    simp only [decode31, ext_hi, ext_lo, ext_all, Nat.reduceLeDiff, Nat.reduceSub, Nat.reduceAdd, BitVec.reduceToNat, BitVec.reduceExtractLsb', fieldsOk, hw, beq_self_eq_true,
      Bool.and_self, if_true]
theorem rktrn (a : BitVec 5) (b : BitVec 5) (h : BitVec 2) : Statement (.rktrn a b h) := by
  intro hw
  refine good_one rfl ?_ fun x => ?_
  · simp only [isLong, ext_hi, ext_lo, Nat.reduceLeDiff, Nat.reduceSub, Nat.reduceAdd, BitVec.reduceExtractLsb']; decide
  · rw [decode31_of _ (by simp only [ext_hi, ext_lo, ext_all, Nat.reduceLeDiff, Nat.reduceSub, Nat.reduceAdd, BitVec.reduceExtractLsb'])]
    simp only [decode31, ext_hi, ext_lo, ext_all, Nat.reduceLeDiff, Nat.reduceSub, Nat.reduceAdd, BitVec.reduceToNat, BitVec.reduceExtractLsb', fieldsOk, hw, beq_self_eq_true,
      Bool.and_self, if_true]
theorem tlbinv (a : BitVec 5) (h : BitVec 2) : Statement (.tlbinv a h) := by
  intro hw
  refine good_one rfl ?_ fun x => ?_
  · simp only [isLong, ext_hi, ext_lo, Nat.reduceLeDiff, Nat.reduceSub, Nat.reduceAdd, BitVec.reduceExtractLsb']; decide
  · rw [decode31_of _ (by simp only [ext_hi, ext_lo, ext_all, Nat.reduceLeDiff, Nat.reduceSub, Nat.reduceAdd, BitVec.reduceExtractLsb'])]
    simp only [decode31, ext_hi, ext_lo, ext_all, Nat.reduceLeDiff, Nat.reduceSub, Nat.reduceAdd, BitVec.reduceToNat, BitVec.reduceExtractLsb', fieldsOk, hw, beq_self_eq_true,
      Bool.and_self, if_true]
theorem tlbinvRng (a : BitVec 5) (h : BitVec 2) : Statement (.tlbinvRng a h) := by
  intro hw
  refine good_one rfl ?_ fun x => ?_
  · simp only [isLong, ext_hi, ext_lo, Nat.reduceLeDiff, Nat.reduceSub, Nat.reduceAdd, BitVec.reduceExtractLsb']; decide
  · rw [decode31_of _ (by simp only [ext_hi, ext_lo, ext_all, Nat.reduceLeDiff, Nat.reduceSub, Nat.reduceAdd, BitVec.reduceExtractLsb'])]
    simp only [decode31, ext_hi, ext_lo, ext_all, Nat.reduceLeDiff, Nat.reduceSub, Nat.reduceAdd, BitVec.reduceToNat, BitVec.reduceExtractLsb', fieldsOk, hw, beq_self_eq_true,
      Bool.and_self, if_true]
    rfl
theorem tlbinvAll (h : BitVec 2) : Statement (.tlbinvAll h) := by
  intro hw
  refine good_one rfl ?_ fun x => ?_
  · simp only [isLong, ext_hi, ext_lo, Nat.reduceLeDiff, Nat.reduceSub, Nat.reduceAdd, BitVec.reduceExtractLsb']; decide
  · rw [decode31_of _ (by simp only [ext_hi, ext_lo, ext_all, Nat.reduceLeDiff, Nat.reduceSub, Nat.reduceAdd, BitVec.reduceExtractLsb'])]
    simp only [decode31, ext_hi, ext_lo, ext_all, Nat.reduceLeDiff, Nat.reduceSub, Nat.reduceAdd, BitVec.reduceToNat, BitVec.reduceExtractLsb', fieldsOk, hw, beq_self_eq_true,
      Bool.and_self, if_true]
    rfl
theorem ptsync (h : BitVec 2) : Statement (.ptsync h) := by
  intro hw
  refine good_one rfl ?_ fun x => ?_
  · simp only [isLong, ext_hi, ext_lo, Nat.reduceLeDiff, Nat.reduceSub, Nat.reduceAdd, BitVec.reduceExtractLsb']; decide
  · rw [decode31_of _ (by simp only [ext_hi, ext_lo, ext_all, Nat.reduceLeDiff, Nat.reduceSub, Nat.reduceAdd, BitVec.reduceExtractLsb'])]
    simp only [decode31, ext_hi, ext_lo, ext_all, Nat.reduceLeDiff, Nat.reduceSub, Nat.reduceAdd, BitVec.reduceToNat, BitVec.reduceExtractLsb', fieldsOk, hw, beq_self_eq_true,
      Bool.and_self, if_true]
theorem part (d : BitVec 5) (a : BitVec 5) (b : BitVec 5) (h : BitVec 2) : Statement (.part d a b h) := by
  intro hw
  refine good_one rfl ?_ fun x => ?_
  · simp only [isLong, ext_hi, ext_lo, Nat.reduceLeDiff, Nat.reduceSub, Nat.reduceAdd, BitVec.reduceExtractLsb']; decide
  · rw [decode31_of _ (by simp only [ext_hi, ext_lo, ext_all, Nat.reduceLeDiff, Nat.reduceSub, Nat.reduceAdd, BitVec.reduceExtractLsb'])]
    simp only [decode31, ext_hi, ext_lo, ext_all, Nat.reduceLeDiff, Nat.reduceSub, Nat.reduceAdd, BitVec.reduceToNat, BitVec.reduceExtractLsb', fieldsOk, hw, beq_self_eq_true,
      Bool.and_self, if_true]
theorem preemptSave (d : BitVec 5) (a : BitVec 5) (h : BitVec 2) : Statement (.preemptSave d a h) := by
  intro hw
  refine good_one rfl ?_ fun x => ?_
  · simp only [isLong, ext_hi, ext_lo, Nat.reduceLeDiff, Nat.reduceSub, Nat.reduceAdd, BitVec.reduceExtractLsb']; decide
  · rw [decode31_of _ (by simp only [ext_hi, ext_lo, ext_all, Nat.reduceLeDiff, Nat.reduceSub, Nat.reduceAdd, BitVec.reduceExtractLsb'])]
    simp only [decode31, ext_hi, ext_lo, ext_all, Nat.reduceLeDiff, Nat.reduceSub, Nat.reduceAdd, BitVec.reduceToNat, BitVec.reduceExtractLsb', fieldsOk, hw, beq_self_eq_true,
      Bool.and_self, if_true]
theorem preemptRest (d : BitVec 5) (a : BitVec 5) (h : BitVec 2) : Statement (.preemptRest d a h) := by
  intro hw
  refine good_one rfl ?_ fun x => ?_
  · simp only [isLong, ext_hi, ext_lo, Nat.reduceLeDiff, Nat.reduceSub, Nat.reduceAdd, BitVec.reduceExtractLsb']; decide
  · rw [decode31_of _ (by simp only [ext_hi, ext_lo, ext_all, Nat.reduceLeDiff, Nat.reduceSub, Nat.reduceAdd, BitVec.reduceExtractLsb'])]
    simp only [decode31, ext_hi, ext_lo, ext_all, Nat.reduceLeDiff, Nat.reduceSub, Nat.reduceAdd, BitVec.reduceToNat, BitVec.reduceExtractLsb', fieldsOk, hw, beq_self_eq_true,
      Bool.and_self, if_true]
    rfl
theorem lmm (rc : BitVec 4) (ra : BitVec 4) (n : BitVec 5) (f : BitVec 5) (h : BitVec 2) (c : BitVec 5) (w : BitVec 3) (u : BitVec 1) (cs : BitVec 2) : Statement (.lmm rc ra n f h c w u cs) := by
  intro hw
  refine good_two rfl ?_ ?_
  · simp only [isLong, ext_hi, ext_lo, Nat.reduceLeDiff, Nat.reduceSub, Nat.reduceAdd, BitVec.reduceExtractLsb']; decide
  · rw [decode38_of _ (by simp only [ext_hi, ext_lo, ext_all, Nat.reduceLeDiff, Nat.reduceSub, Nat.reduceAdd, BitVec.reduceExtractLsb'])]
    simp only [decode38, ext_hi, ext_lo, ext_all, Nat.reduceLeDiff, Nat.reduceSub, Nat.reduceAdd, BitVec.reduceToNat, BitVec.reduceExtractLsb', fieldsOk, hw, beq_self_eq_true,
      Bool.and_self, if_true]
theorem lmmg (rc : BitVec 4) (ra : BitVec 4) (ro : BitVec 4) (c : BitVec 5) (h : BitVec 2) (w : BitVec 3) (u : BitVec 1) (cs : BitVec 2) : Statement (.lmmg rc ra ro c h w u cs) := by
  intro hw
  refine good_two rfl ?_ ?_
  · simp only [isLong, ext_hi, ext_lo, Nat.reduceLeDiff, Nat.reduceSub, Nat.reduceAdd, BitVec.reduceExtractLsb']; decide
  · rw [decode38_of _ (by simp only [ext_hi, ext_lo, ext_all, Nat.reduceLeDiff, Nat.reduceSub, Nat.reduceAdd, BitVec.reduceExtractLsb'])]
    simp only [decode38, ext_hi, ext_lo, ext_all, Nat.reduceLeDiff, Nat.reduceSub, Nat.reduceAdd, BitVec.reduceToNat, BitVec.reduceExtractLsb', fieldsOk, hw, beq_self_eq_true,
      Bool.and_self, if_true]
theorem lmms (rc : BitVec 4) (ra : BitVec 4) (n : BitVec 5) (f : BitVec 5) (h : BitVec 2) (c : BitVec 5) (w : BitVec 3) (u : BitVec 1) (cs : BitVec 2) : Statement (.lmms rc ra n f h c w u cs) := by
  intro hw
  refine good_two rfl ?_ ?_
  · simp only [isLong, ext_hi, ext_lo, Nat.reduceLeDiff, Nat.reduceSub, Nat.reduceAdd, BitVec.reduceExtractLsb']; decide
  · rw [decode38_of _ (by simp only [ext_hi, ext_lo, ext_all, Nat.reduceLeDiff, Nat.reduceSub, Nat.reduceAdd, BitVec.reduceExtractLsb'])]
    simp only [decode38, ext_hi, ext_lo, ext_all, Nat.reduceLeDiff, Nat.reduceSub, Nat.reduceAdd, BitVec.reduceToNat, BitVec.reduceExtractLsb', fieldsOk, hw, beq_self_eq_true,
      Bool.and_self, if_true]
theorem lbld (rb : BitVec 4) (p : BitVec 5) (c : BitVec 5) (h : BitVec 2) : Statement (.lbld rb p c h) := by
  intro hw
  refine good_two rfl ?_ ?_
  · simp only [isLong, ext_hi, ext_lo, Nat.reduceLeDiff, Nat.reduceSub, Nat.reduceAdd, BitVec.reduceExtractLsb']; decide
  · rw [decode38_of _ (by simp only [ext_hi, ext_lo, ext_all, Nat.reduceLeDiff, Nat.reduceSub, Nat.reduceAdd, BitVec.reduceExtractLsb'])]
    simp only [decode38, ext_hi, ext_lo, ext_all, Nat.reduceLeDiff, Nat.reduceSub, Nat.reduceAdd, BitVec.reduceToNat, BitVec.reduceExtractLsb', fieldsOk, hw, beq_self_eq_true,
      Bool.and_self, if_true]
theorem lbswp (h : BitVec 2) : Statement (.lbswp h) := by
  intro hw
  refine good_two rfl ?_ ?_
  · simp only [isLong, ext_hi, ext_lo, Nat.reduceLeDiff, Nat.reduceSub, Nat.reduceAdd, BitVec.reduceExtractLsb']; decide
  · rw [decode38_of _ (by simp only [ext_hi, ext_lo, ext_all, Nat.reduceLeDiff, Nat.reduceSub, Nat.reduceAdd, BitVec.reduceExtractLsb'])]
    simp only [decode38, ext_hi, ext_lo, ext_all, Nat.reduceLeDiff, Nat.reduceSub, Nat.reduceAdd, BitVec.reduceToNat, BitVec.reduceExtractLsb', fieldsOk, hw, beq_self_eq_true,
      Bool.and_self, if_true]
theorem laini (rc : BitVec 4) (c : BitVec 5) (h : BitVec 2) (w : BitVec 3) : Statement (.laini rc c h w) := by
  intro hw
  refine good_two rfl ?_ ?_
  · simp only [isLong, ext_hi, ext_lo, Nat.reduceLeDiff, Nat.reduceSub, Nat.reduceAdd, BitVec.reduceExtractLsb']; decide
  · rw [decode38_of _ (by simp only [ext_hi, ext_lo, ext_all, Nat.reduceLeDiff, Nat.reduceSub, Nat.reduceAdd, BitVec.reduceExtractLsb'])]
    simp only [decode38, ext_hi, ext_lo, ext_all, Nat.reduceLeDiff, Nat.reduceSub, Nat.reduceAdd, BitVec.reduceToNat, BitVec.reduceExtractLsb', fieldsOk, hw, beq_self_eq_true,
      Bool.and_self, if_true]
theorem ladr (rd : BitVec 4) (rc : BitVec 4) (c : BitVec 5) (h : BitVec 2) (rm : BitVec 3) : Statement (.ladr rd rc c h rm) := by
  intro hw
  refine good_two rfl ?_ ?_
  · simp only [isLong, ext_hi, ext_lo, Nat.reduceLeDiff, Nat.reduceSub, Nat.reduceAdd, BitVec.reduceExtractLsb']; decide
  · rw [decode38_of _ (by simp only [ext_hi, ext_lo, ext_all, Nat.reduceLeDiff, Nat.reduceSub, Nat.reduceAdd, BitVec.reduceExtractLsb'])]
    simp only [decode38, ext_hi, ext_lo, ext_all, Nat.reduceLeDiff, Nat.reduceSub, Nat.reduceAdd, BitVec.reduceToNat, BitVec.reduceExtractLsb', fieldsOk, hw, beq_self_eq_true,
      Bool.and_self, if_true]
theorem lsemi (a : BitVec 5) (h : BitVec 2) (w : BitVec 3) : Statement (.lsemi a h w) := by
  intro hw
  refine good_two rfl ?_ ?_
  · simp only [isLong, ext_hi, ext_lo, Nat.reduceLeDiff, Nat.reduceSub, Nat.reduceAdd, BitVec.reduceExtractLsb']; decide
  · rw [decode38_of _ (by simp only [ext_hi, ext_lo, ext_all, Nat.reduceLeDiff, Nat.reduceSub, Nat.reduceAdd, BitVec.reduceExtractLsb'])]
    simp only [decode38, ext_hi, ext_lo, ext_all, Nat.reduceLeDiff, Nat.reduceSub, Nat.reduceAdd, BitVec.reduceToNat, BitVec.reduceExtractLsb', fieldsOk, hw, beq_self_eq_true,
      Bool.and_self, if_true]
theorem lstat (d : BitVec 5) (h : BitVec 2) : Statement (.lstat d h) := by
  intro hw
  refine good_two rfl ?_ ?_
  · simp only [isLong, ext_hi, ext_lo, Nat.reduceLeDiff, Nat.reduceSub, Nat.reduceAdd, BitVec.reduceExtractLsb']; decide
  · rw [decode38_of _ (by simp only [ext_hi, ext_lo, ext_all, Nat.reduceLeDiff, Nat.reduceSub, Nat.reduceAdd, BitVec.reduceExtractLsb'])]
    simp only [decode38, ext_hi, ext_lo, ext_all, Nat.reduceLeDiff, Nat.reduceSub, Nat.reduceAdd, BitVec.reduceToNat, BitVec.reduceExtractLsb', fieldsOk, hw, beq_self_eq_true,
      Bool.and_self, if_true]
theorem topk (ro : BitVec 4) (rs : BitVec 4) (p : BitVec 5) (c : BitVec 5) (h : BitVec 2) (sb : BitVec 5) (mn : BitVec 1) (ky : BitVec 1) (sp : BitVec 1) (cl : BitVec 1) : Statement (.topk ro rs p c h sb mn ky sp cl) := by
  intro hw
  refine good_two rfl ?_ ?_
  · simp only [isLong, ext_hi, ext_lo, Nat.reduceLeDiff, Nat.reduceSub, Nat.reduceAdd, BitVec.reduceExtractLsb']; decide
  · rw [decode39_of _ (by simp only [ext_hi, ext_lo, ext_all, Nat.reduceLeDiff, Nat.reduceSub, Nat.reduceAdd, BitVec.reduceExtractLsb'])]
    simp only [decode39, ext_hi, ext_lo, ext_all, Nat.reduceLeDiff, Nat.reduceSub, Nat.reduceAdd, BitVec.reduceToNat, BitVec.reduceExtractLsb', fieldsOk, hw, beq_self_eq_true,
      Bool.and_self, if_true]
theorem rcsnap (rd : BitVec 4) (a : BitVec 5) (h : BitVec 2) : Statement (.rcsnap rd a h) := by
  intro hw
  refine good_two rfl ?_ ?_
  · simp only [isLong, ext_hi, ext_lo, Nat.reduceLeDiff, Nat.reduceSub, Nat.reduceAdd, BitVec.reduceExtractLsb']; decide
  · rw [decode39_of _ (by simp only [ext_hi, ext_lo, ext_all, Nat.reduceLeDiff, Nat.reduceSub, Nat.reduceAdd, BitVec.reduceExtractLsb'])]
    simp only [decode39, ext_hi, ext_lo, ext_all, Nat.reduceLeDiff, Nat.reduceSub, Nat.reduceAdd, BitVec.reduceToNat, BitVec.reduceExtractLsb', fieldsOk, hw, beq_self_eq_true,
      Bool.and_self, if_true]
theorem rcrd (d : BitVec 5) (a : BitVec 5) (h : BitVec 2) (x : BitVec 1) : Statement (.rcrd d a h x) := by
  intro hw
  refine good_two rfl ?_ ?_
  · simp only [isLong, ext_hi, ext_lo, Nat.reduceLeDiff, Nat.reduceSub, Nat.reduceAdd, BitVec.reduceExtractLsb']; decide
  · rw [decode39_of _ (by simp only [ext_hi, ext_lo, ext_all, Nat.reduceLeDiff, Nat.reduceSub, Nat.reduceAdd, BitVec.reduceExtractLsb'])]
    simp only [decode39, ext_hi, ext_lo, ext_all, Nat.reduceLeDiff, Nat.reduceSub, Nat.reduceAdd, BitVec.reduceToNat, BitVec.reduceExtractLsb', fieldsOk, hw, beq_self_eq_true,
      Bool.and_self, if_true]
theorem rfork (j : BitVec 5) (c : BitVec 5) (f : BitVec 5) (t : BitVec 5) (h : BitVec 2) (g : BitVec 16) : Statement (.rfork j c f t h g) := by
  intro hw
  refine good_two rfl ?_ ?_
  · simp only [isLong, ext_hi, ext_lo, Nat.reduceLeDiff, Nat.reduceSub, Nat.reduceAdd, BitVec.reduceExtractLsb']; decide
  · rw [decode3A_of _ (by simp only [ext_hi, ext_lo, ext_all, Nat.reduceLeDiff, Nat.reduceSub, Nat.reduceAdd, BitVec.reduceExtractLsb'])]
    simp only [decode3A, ext_hi, ext_lo, ext_all, Nat.reduceLeDiff, Nat.reduceSub, Nat.reduceAdd, BitVec.reduceToNat, BitVec.reduceExtractLsb', fieldsOk, hw, beq_self_eq_true,
      Bool.and_self, if_true]
theorem mfork (p : BitVec 5) (h : BitVec 2) : Statement (.mfork p h) := by
  intro hw
  refine good_two rfl ?_ ?_
  · simp only [isLong, ext_hi, ext_lo, Nat.reduceLeDiff, Nat.reduceSub, Nat.reduceAdd, BitVec.reduceExtractLsb']; decide
  · rw [decode3A_of _ (by simp only [ext_hi, ext_lo, ext_all, Nat.reduceLeDiff, Nat.reduceSub, Nat.reduceAdd, BitVec.reduceExtractLsb'])]
    simp only [decode3A, ext_hi, ext_lo, ext_all, Nat.reduceLeDiff, Nat.reduceSub, Nat.reduceAdd, BitVec.reduceToNat, BitVec.reduceExtractLsb', fieldsOk, hw, beq_self_eq_true,
      Bool.and_self, if_true]
theorem send (d : BitVec 5) (hd : BitVec 5) (h : BitVec 2) (n : BitVec 4) : Statement (.send d hd h n) := by
  intro hw
  refine good_two rfl ?_ ?_
  · simp only [isLong, ext_hi, ext_lo, Nat.reduceLeDiff, Nat.reduceSub, Nat.reduceAdd, BitVec.reduceExtractLsb']; decide
  · rw [decode3B_of _ (by simp only [ext_hi, ext_lo, ext_all, Nat.reduceLeDiff, Nat.reduceSub, Nat.reduceAdd, BitVec.reduceExtractLsb'])]
    simp only [decode3B, ext_hi, ext_lo, ext_all, Nat.reduceLeDiff, Nat.reduceSub, Nat.reduceAdd, BitVec.reduceToNat, BitVec.reduceExtractLsb', fieldsOk, hw, beq_self_eq_true,
      Bool.and_self, if_true]
theorem sendm (d : BitVec 5) (hd : BitVec 5) (m : BitVec 5) (h : BitVec 2) (n : BitVec 4) : Statement (.sendm d hd m h n) := by
  intro hw
  refine good_two rfl ?_ ?_
  · simp only [isLong, ext_hi, ext_lo, Nat.reduceLeDiff, Nat.reduceSub, Nat.reduceAdd, BitVec.reduceExtractLsb']; decide
  · rw [decode3B_of _ (by simp only [ext_hi, ext_lo, ext_all, Nat.reduceLeDiff, Nat.reduceSub, Nat.reduceAdd, BitVec.reduceExtractLsb'])]
    simp only [decode3B, ext_hi, ext_lo, ext_all, Nat.reduceLeDiff, Nat.reduceSub, Nat.reduceAdd, BitVec.reduceToNat, BitVec.reduceExtractLsb', fieldsOk, hw, beq_self_eq_true,
      Bool.and_self, if_true]
theorem rread (d : BitVec 5) (rl : BitVec 4) (sr : BitVec 5) (c : BitVec 5) (h : BitVec 2) : Statement (.rread d rl sr c h) := by
  intro hw
  refine good_two rfl ?_ ?_
  · simp only [isLong, ext_hi, ext_lo, Nat.reduceLeDiff, Nat.reduceSub, Nat.reduceAdd, BitVec.reduceExtractLsb']; decide
  · rw [decode3B_of _ (by simp only [ext_hi, ext_lo, ext_all, Nat.reduceLeDiff, Nat.reduceSub, Nat.reduceAdd, BitVec.reduceExtractLsb'])]
    simp only [decode3B, ext_hi, ext_lo, ext_all, Nat.reduceLeDiff, Nat.reduceSub, Nat.reduceAdd, BitVec.reduceToNat, BitVec.reduceExtractLsb', fieldsOk, hw, beq_self_eq_true,
      Bool.and_self, if_true]
theorem halo (rt : BitVec 4) (nb : BitVec 5) (h : BitVec 2) (hw : BitVec 4) : Statement (.halo rt nb h hw) := by
  intro hw
  refine good_two rfl ?_ ?_
  · simp only [isLong, ext_hi, ext_lo, Nat.reduceLeDiff, Nat.reduceSub, Nat.reduceAdd, BitVec.reduceExtractLsb']; decide
  · rw [decode3B_of _ (by simp only [ext_hi, ext_lo, ext_all, Nat.reduceLeDiff, Nat.reduceSub, Nat.reduceAdd, BitVec.reduceExtractLsb'])]
    simp only [decode3B, ext_hi, ext_lo, ext_all, Nat.reduceLeDiff, Nat.reduceSub, Nat.reduceAdd, BitVec.reduceToNat, BitVec.reduceExtractLsb', fieldsOk, hw, beq_self_eq_true,
      Bool.and_self, if_true]
theorem rwrite (d : BitVec 5) (rs : BitVec 4) (rt : BitVec 4) (c : BitVec 5) (h : BitVec 2) : Statement (.rwrite d rs rt c h) := by
  intro hw
  refine good_two rfl ?_ ?_
  · simp only [isLong, ext_hi, ext_lo, Nat.reduceLeDiff, Nat.reduceSub, Nat.reduceAdd, BitVec.reduceExtractLsb']; decide
  · rw [decode3B_of _ (by simp only [ext_hi, ext_lo, ext_all, Nat.reduceLeDiff, Nat.reduceSub, Nat.reduceAdd, BitVec.reduceExtractLsb'])]
    simp only [decode3B, ext_hi, ext_lo, ext_all, Nat.reduceLeDiff, Nat.reduceSub, Nat.reduceAdd, BitVec.reduceToNat, BitVec.reduceExtractLsb', fieldsOk, hw, beq_self_eq_true,
      Bool.and_self, if_true]
theorem shdw (r : BitVec 4) (h : BitVec 2) : Statement (.shdw r h) := by
  intro hw
  refine good_two rfl ?_ ?_
  · simp only [isLong, ext_hi, ext_lo, Nat.reduceLeDiff, Nat.reduceSub, Nat.reduceAdd, BitVec.reduceExtractLsb']; decide
  · rw [decode3C_of _ (by simp only [ext_hi, ext_lo, ext_all, Nat.reduceLeDiff, Nat.reduceSub, Nat.reduceAdd, BitVec.reduceExtractLsb'])]
    simp only [decode3C, ext_hi, ext_lo, ext_all, Nat.reduceLeDiff, Nat.reduceSub, Nat.reduceAdd, BitVec.reduceToNat, BitVec.reduceExtractLsb', fieldsOk, hw, beq_self_eq_true,
      Bool.and_self, if_true]
theorem publ (r : BitVec 4) (h : BitVec 2) : Statement (.publ r h) := by
  intro hw
  refine good_two rfl ?_ ?_
  · simp only [isLong, ext_hi, ext_lo, Nat.reduceLeDiff, Nat.reduceSub, Nat.reduceAdd, BitVec.reduceExtractLsb']; decide
  · rw [decode3C_of _ (by simp only [ext_hi, ext_lo, ext_all, Nat.reduceLeDiff, Nat.reduceSub, Nat.reduceAdd, BitVec.reduceExtractLsb'])]
    simp only [decode3C, ext_hi, ext_lo, ext_all, Nat.reduceLeDiff, Nat.reduceSub, Nat.reduceAdd, BitVec.reduceToNat, BitVec.reduceExtractLsb', fieldsOk, hw, beq_self_eq_true,
      Bool.and_self, if_true]
theorem disc (r : BitVec 4) (h : BitVec 2) : Statement (.disc r h) := by
  intro hw
  refine good_two rfl ?_ ?_
  · simp only [isLong, ext_hi, ext_lo, Nat.reduceLeDiff, Nat.reduceSub, Nat.reduceAdd, BitVec.reduceExtractLsb']; decide
  · rw [decode3C_of _ (by simp only [ext_hi, ext_lo, ext_all, Nat.reduceLeDiff, Nat.reduceSub, Nat.reduceAdd, BitVec.reduceExtractLsb'])]
    simp only [decode3C, ext_hi, ext_lo, ext_all, Nat.reduceLeDiff, Nat.reduceSub, Nat.reduceAdd, BitVec.reduceToNat, BitVec.reduceExtractLsb', fieldsOk, hw, beq_self_eq_true,
      Bool.and_self, if_true]
theorem cpyt (a : BitVec 5) (t : BitVec 5) (h : BitVec 2) : Statement (.cpyt a t h) := by
  intro hw
  refine good_two rfl ?_ ?_
  · simp only [isLong, ext_hi, ext_lo, Nat.reduceLeDiff, Nat.reduceSub, Nat.reduceAdd, BitVec.reduceExtractLsb']; decide
  · rw [decode3C_of _ (by simp only [ext_hi, ext_lo, ext_all, Nat.reduceLeDiff, Nat.reduceSub, Nat.reduceAdd, BitVec.reduceExtractLsb'])]
    simp only [decode3C, ext_hi, ext_lo, ext_all, Nat.reduceLeDiff, Nat.reduceSub, Nat.reduceAdd, BitVec.reduceToNat, BitVec.reduceExtractLsb', fieldsOk, hw, beq_self_eq_true,
      Bool.and_self, if_true]
theorem wmrd (d : BitVec 5) (a : BitVec 5) (h : BitVec 2) : Statement (.wmrd d a h) := by
  intro hw
  refine good_two rfl ?_ ?_
  · simp only [isLong, ext_hi, ext_lo, Nat.reduceLeDiff, Nat.reduceSub, Nat.reduceAdd, BitVec.reduceExtractLsb']; decide
  · rw [decode3C_of _ (by simp only [ext_hi, ext_lo, ext_all, Nat.reduceLeDiff, Nat.reduceSub, Nat.reduceAdd, BitVec.reduceExtractLsb'])]
    simp only [decode3C, ext_hi, ext_lo, ext_all, Nat.reduceLeDiff, Nat.reduceSub, Nat.reduceAdd, BitVec.reduceToNat, BitVec.reduceExtractLsb', fieldsOk, hw, beq_self_eq_true,
      Bool.and_self, if_true]
theorem digest (rd : BitVec 4) (rs : BitVec 4) (h : BitVec 2) : Statement (.digest rd rs h) := by
  intro hw
  refine good_two rfl ?_ ?_
  · simp only [isLong, ext_hi, ext_lo, Nat.reduceLeDiff, Nat.reduceSub, Nat.reduceAdd, BitVec.reduceExtractLsb']; decide
  · rw [decode3C_of _ (by simp only [ext_hi, ext_lo, ext_all, Nat.reduceLeDiff, Nat.reduceSub, Nat.reduceAdd, BitVec.reduceExtractLsb'])]
    simp only [decode3C, ext_hi, ext_lo, ext_all, Nat.reduceLeDiff, Nat.reduceSub, Nat.reduceAdd, BitVec.reduceToNat, BitVec.reduceExtractLsb', fieldsOk, hw, beq_self_eq_true,
      Bool.and_self, if_true]
theorem tmplinv (t : BitVec 5) (h : BitVec 2) (al : BitVec 1) : Statement (.tmplinv t h al) := by
  intro hw
  refine good_two rfl ?_ ?_
  · simp only [isLong, ext_hi, ext_lo, Nat.reduceLeDiff, Nat.reduceSub, Nat.reduceAdd, BitVec.reduceExtractLsb']; decide
  · rw [decode3C_of _ (by simp only [ext_hi, ext_lo, ext_all, Nat.reduceLeDiff, Nat.reduceSub, Nat.reduceAdd, BitVec.reduceExtractLsb'])]
    simp only [decode3C, ext_hi, ext_lo, ext_all, Nat.reduceLeDiff, Nat.reduceSub, Nat.reduceAdd, BitVec.reduceToNat, BitVec.reduceExtractLsb', fieldsOk, hw, beq_self_eq_true,
      Bool.and_self, if_true]
theorem spec (d : BitVec 5) (sr : BitVec 5) (ra : BitVec 4) (h : BitVec 2) : Statement (.spec d sr ra h) := by
  intro hw
  refine good_two rfl ?_ ?_
  · simp only [isLong, ext_hi, ext_lo, Nat.reduceLeDiff, Nat.reduceSub, Nat.reduceAdd, BitVec.reduceExtractLsb']; decide
  · rw [decode3D_of _ (by simp only [ext_hi, ext_lo, ext_all, Nat.reduceLeDiff, Nat.reduceSub, Nat.reduceAdd, BitVec.reduceExtractLsb'])]
    simp only [decode3D, ext_hi, ext_lo, ext_all, Nat.reduceLeDiff, Nat.reduceSub, Nat.reduceAdd, BitVec.reduceToNat, BitVec.reduceExtractLsb', fieldsOk, hw, beq_self_eq_true,
      Bool.and_self, if_true]
theorem hrel (hd : BitVec 5) (h : BitVec 2) : Statement (.hrel hd h) := by
  intro hw
  refine good_two rfl ?_ ?_
  · simp only [isLong, ext_hi, ext_lo, Nat.reduceLeDiff, Nat.reduceSub, Nat.reduceAdd, BitVec.reduceExtractLsb']; decide
  · rw [decode3D_of _ (by simp only [ext_hi, ext_lo, ext_all, Nat.reduceLeDiff, Nat.reduceSub, Nat.reduceAdd, BitVec.reduceExtractLsb'])]
    simp only [decode3D, ext_hi, ext_lo, ext_all, Nat.reduceLeDiff, Nat.reduceSub, Nat.reduceAdd, BitVec.reduceToNat, BitVec.reduceExtractLsb', fieldsOk, hw, beq_self_eq_true,
      Bool.and_self, if_true]
theorem href (hd : BitVec 5) (h : BitVec 2) : Statement (.href hd h) := by
  intro hw
  refine good_two rfl ?_ ?_
  · simp only [isLong, ext_hi, ext_lo, Nat.reduceLeDiff, Nat.reduceSub, Nat.reduceAdd, BitVec.reduceExtractLsb']; decide
  · rw [decode3D_of _ (by simp only [ext_hi, ext_lo, ext_all, Nat.reduceLeDiff, Nat.reduceSub, Nat.reduceAdd, BitVec.reduceExtractLsb'])]
    simp only [decode3D, ext_hi, ext_lo, ext_all, Nat.reduceLeDiff, Nat.reduceSub, Nat.reduceAdd, BitVec.reduceToNat, BitVec.reduceExtractLsb', fieldsOk, hw, beq_self_eq_true,
      Bool.and_self, if_true]
theorem hcall (hd : BitVec 5) (h : BitVec 2) : Statement (.hcall hd h) := by
  intro hw
  refine good_two rfl ?_ ?_
  · simp only [isLong, ext_hi, ext_lo, Nat.reduceLeDiff, Nat.reduceSub, Nat.reduceAdd, BitVec.reduceExtractLsb']; decide
  · rw [decode3D_of _ (by simp only [ext_hi, ext_lo, ext_all, Nat.reduceLeDiff, Nat.reduceSub, Nat.reduceAdd, BitVec.reduceExtractLsb'])]
    simp only [decode3D, ext_hi, ext_lo, ext_all, Nat.reduceLeDiff, Nat.reduceSub, Nat.reduceAdd, BitVec.reduceToNat, BitVec.reduceExtractLsb', fieldsOk, hw, beq_self_eq_true,
      Bool.and_self, if_true]
theorem hstat (d : BitVec 5) (hd : BitVec 5) (h : BitVec 2) : Statement (.hstat d hd h) := by
  intro hw
  refine good_two rfl ?_ ?_
  · simp only [isLong, ext_hi, ext_lo, Nat.reduceLeDiff, Nat.reduceSub, Nat.reduceAdd, BitVec.reduceExtractLsb']; decide
  · rw [decode3D_of _ (by simp only [ext_hi, ext_lo, ext_all, Nat.reduceLeDiff, Nat.reduceSub, Nat.reduceAdd, BitVec.reduceExtractLsb'])]
    simp only [decode3D, ext_hi, ext_lo, ext_all, Nat.reduceLeDiff, Nat.reduceSub, Nat.reduceAdd, BitVec.reduceToNat, BitVec.reduceExtractLsb', fieldsOk, hw, beq_self_eq_true,
      Bool.and_self, if_true]
theorem stgdef (a : BitVec 5) (r : BitVec 4) (h : BitVec 2) : Statement (.stgdef a r h) := by
  intro hw
  refine good_two rfl ?_ ?_
  · simp only [isLong, ext_hi, ext_lo, Nat.reduceLeDiff, Nat.reduceSub, Nat.reduceAdd, BitVec.reduceExtractLsb']; decide
  · rw [decode3E_of _ (by simp only [ext_hi, ext_lo, ext_all, Nat.reduceLeDiff, Nat.reduceSub, Nat.reduceAdd, BitVec.reduceExtractLsb'])]
    simp only [decode3E, ext_hi, ext_lo, ext_all, Nat.reduceLeDiff, Nat.reduceSub, Nat.reduceAdd, BitVec.reduceToNat, BitVec.reduceExtractLsb', fieldsOk, hw, beq_self_eq_true,
      Bool.and_self, if_true]
theorem stgput (st : BitVec 5) (i : BitVec 5) (h : BitVec 2) : Statement (.stgput st i h) := by
  intro hw
  refine good_two rfl ?_ ?_
  · simp only [isLong, ext_hi, ext_lo, Nat.reduceLeDiff, Nat.reduceSub, Nat.reduceAdd, BitVec.reduceExtractLsb']; decide
  · rw [decode3E_of _ (by simp only [ext_hi, ext_lo, ext_all, Nat.reduceLeDiff, Nat.reduceSub, Nat.reduceAdd, BitVec.reduceExtractLsb'])]
    simp only [decode3E, ext_hi, ext_lo, ext_all, Nat.reduceLeDiff, Nat.reduceSub, Nat.reduceAdd, BitVec.reduceToNat, BitVec.reduceExtractLsb', fieldsOk, hw, beq_self_eq_true,
      Bool.and_self, if_true]
theorem stgend (st : BitVec 5) (i : BitVec 5) (o : BitVec 5) (h : BitVec 2) : Statement (.stgend st i o h) := by
  intro hw
  refine good_two rfl ?_ ?_
  · simp only [isLong, ext_hi, ext_lo, Nat.reduceLeDiff, Nat.reduceSub, Nat.reduceAdd, BitVec.reduceExtractLsb']; decide
  · rw [decode3E_of _ (by simp only [ext_hi, ext_lo, ext_all, Nat.reduceLeDiff, Nat.reduceSub, Nat.reduceAdd, BitVec.reduceExtractLsb'])]
    simp only [decode3E, ext_hi, ext_lo, ext_all, Nat.reduceLeDiff, Nat.reduceSub, Nat.reduceAdd, BitVec.reduceToNat, BitVec.reduceExtractLsb', fieldsOk, hw, beq_self_eq_true,
      Bool.and_self, if_true]
theorem stgsnap (rd : BitVec 4) (st : BitVec 5) (w : BitVec 5) (h : BitVec 2) : Statement (.stgsnap rd st w h) := by
  intro hw
  refine good_two rfl ?_ ?_
  · simp only [isLong, ext_hi, ext_lo, Nat.reduceLeDiff, Nat.reduceSub, Nat.reduceAdd, BitVec.reduceExtractLsb']; decide
  · rw [decode3E_of _ (by simp only [ext_hi, ext_lo, ext_all, Nat.reduceLeDiff, Nat.reduceSub, Nat.reduceAdd, BitVec.reduceExtractLsb'])]
    simp only [decode3E, ext_hi, ext_lo, ext_all, Nat.reduceLeDiff, Nat.reduceSub, Nat.reduceAdd, BitVec.reduceToNat, BitVec.reduceExtractLsb', fieldsOk, hw, beq_self_eq_true,
      Bool.and_self, if_true]
theorem stgseq (st : BitVec 5) (i : BitVec 5) (h : BitVec 2) : Statement (.stgseq st i h) := by
  intro hw
  refine good_two rfl ?_ ?_
  · simp only [isLong, ext_hi, ext_lo, Nat.reduceLeDiff, Nat.reduceSub, Nat.reduceAdd, BitVec.reduceExtractLsb']; decide
  · rw [decode3E_of _ (by simp only [ext_hi, ext_lo, ext_all, Nat.reduceLeDiff, Nat.reduceSub, Nat.reduceAdd, BitVec.reduceExtractLsb'])]
    simp only [decode3E, ext_hi, ext_lo, ext_all, Nat.reduceLeDiff, Nat.reduceSub, Nat.reduceAdd, BitVec.reduceToNat, BitVec.reduceExtractLsb', fieldsOk, hw, beq_self_eq_true,
      Bool.and_self, if_true]
theorem glnch (rt : BitVec 4) (dd : BitVec 5) (h : BitVec 2) : Statement (.glnch rt dd h) := by
  intro hw
  refine good_two rfl ?_ ?_
  · simp only [isLong, ext_hi, ext_lo, Nat.reduceLeDiff, Nat.reduceSub, Nat.reduceAdd, BitVec.reduceExtractLsb']; decide
  · rw [decode3F_of _ (by simp only [ext_hi, ext_lo, ext_all, Nat.reduceLeDiff, Nat.reduceSub, Nat.reduceAdd, BitVec.reduceExtractLsb'])]
    simp only [decode3F, ext_hi, ext_lo, ext_all, Nat.reduceLeDiff, Nat.reduceSub, Nat.reduceAdd, BitVec.reduceToNat, BitVec.reduceExtractLsb', fieldsOk, hw, beq_self_eq_true,
      Bool.and_self, if_true]
theorem gres (a : BitVec 5) (h : BitVec 2) : Statement (.gres a h) := by
  intro hw
  refine good_two rfl ?_ ?_
  · simp only [isLong, ext_hi, ext_lo, Nat.reduceLeDiff, Nat.reduceSub, Nat.reduceAdd, BitVec.reduceExtractLsb']; decide
  · rw [decode3F_of _ (by simp only [ext_hi, ext_lo, ext_all, Nat.reduceLeDiff, Nat.reduceSub, Nat.reduceAdd, BitVec.reduceExtractLsb'])]
    simp only [decode3F, ext_hi, ext_lo, ext_all, Nat.reduceLeDiff, Nat.reduceSub, Nat.reduceAdd, BitVec.reduceToNat, BitVec.reduceExtractLsb', fieldsOk, hw, beq_self_eq_true,
      Bool.and_self, if_true]
theorem gstat (d : BitVec 5) (a : BitVec 5) (h : BitVec 2) : Statement (.gstat d a h) := by
  intro hw
  refine good_two rfl ?_ ?_
  · simp only [isLong, ext_hi, ext_lo, Nat.reduceLeDiff, Nat.reduceSub, Nat.reduceAdd, BitVec.reduceExtractLsb']; decide
  · rw [decode3F_of _ (by simp only [ext_hi, ext_lo, ext_all, Nat.reduceLeDiff, Nat.reduceSub, Nat.reduceAdd, BitVec.reduceExtractLsb'])]
    simp only [decode3F, ext_hi, ext_lo, ext_all, Nat.reduceLeDiff, Nat.reduceSub, Nat.reduceAdd, BitVec.reduceToNat, BitVec.reduceExtractLsb', fieldsOk, hw, beq_self_eq_true,
      Bool.and_self, if_true]
theorem load (t n j : Nat) : Statement (.load t n j) := fun _ => trivial
theorem enter (t n : Nat) : Statement (.enter t n) := fun _ => trivial
theorem drain (t n : Nat) (home : Bool) : Statement (.drain t n home) := fun _ => trivial
theorem loopBack (t n : Nat) : Statement (.loopBack t n) := fun _ => trivial
theorem fill (core line : Nat) : Statement (.fill core line) := fun _ => trivial
theorem writeBack (core line : Nat) : Statement (.writeBack core line) := fun _ => trivial
theorem drop (core line : Nat) : Statement (.drop core line) := fun _ => trivial
theorem atomic (t n : Nat) : Statement (.atomic t n) := fun _ => trivial
theorem fetch (t : Nat) : Statement (.fetch t) := fun _ => trivial
theorem fenceComplete (t : Nat) : Statement (.fenceComplete t) := fun _ => trivial
theorem lbfencComplete (t : Nat) : Statement (.lbfencComplete t) := fun _ => trivial
theorem ifencComplete (t : Nat) : Statement (.ifencComplete t) := fun _ => trivial
theorem efencComplete (t : Nat) : Statement (.efencComplete t) := fun _ => trivial
theorem accept (t : Nat) : Statement (.accept t) := fun _ => trivial
theorem engineRead (id i : Nat) : Statement (.engineRead id i) := fun _ => trivial
theorem engineWrite (id i : Nat) : Statement (.engineWrite id i) := fun _ => trivial
theorem complete (id : Nat) : Statement (.complete id) := fun _ => trivial
theorem publishStep (t : Nat) : Statement (.publishStep t) := fun _ => trivial
theorem discardStep (t : Nat) : Statement (.discardStep t) := fun _ => trivial
theorem shadowOpen (t : Nat) : Statement (.shadowOpen t) := fun _ => trivial
theorem park (id i : Nat) : Statement (.park id i) := fun _ => trivial
theorem replay (p : BitVec 3) (n : Nat) : Statement (.replay p n) := fun _ => trivial
theorem walk (core : Nat) (va : Word) : Statement (.walk core va) := fun _ => trivial
theorem niEntryDrop (core rank : Nat) : Statement (.niEntryDrop core rank) := fun _ => trivial
theorem decrement (n : Nat) : Statement (.decrement n) := fun _ => trivial
theorem taskRecordArrival (n : Nat) : Statement (.taskRecordArrival n) := fun _ => trivial
theorem queueEntryArrival (n : Nat) : Statement (.queueEntryArrival n) := fun _ => trivial
theorem handoverInstall (n : Nat) : Statement (.handoverInstall n) := fun _ => trivial
theorem messageForward (n : Nat) : Statement (.messageForward n) := fun _ => trivial
theorem forwardingEntryDrop (t : Nat) : Statement (.forwardingEntryDrop t) := fun _ => trivial
theorem liveMigration (t core : Nat) : Statement (.liveMigration t core) := fun _ => trivial
theorem migrationComplete (t : Nat) : Statement (.migrationComplete t) := fun _ => trivial
theorem taskAssign (core : Nat) : Statement (.taskAssign core) := fun _ => trivial
theorem recordAging (core prio : Nat) : Statement (.recordAging core prio) := fun _ => trivial
theorem steal (core : Nat) : Statement (.steal core) := fun _ => trivial
theorem residenceEnter (core : Nat) : Statement (.residenceEnter core) := fun _ => trivial
theorem residenceLeave (t : Nat) : Statement (.residenceLeave t) := fun _ => trivial
theorem blockedTimeout (t : Nat) : Statement (.blockedTimeout t) := fun _ => trivial
theorem wfiTimeout (t : Nat) : Statement (.wfiTimeout t) := fun _ => trivial
theorem interruptTake (t : Nat) : Statement (.interruptTake t) := fun _ => trivial
theorem gateClosing (core : Nat) : Statement (.gateClosing core) := fun _ => trivial
theorem gateClosed (core : Nat) : Statement (.gateClosed core) := fun _ => trivial
theorem wake (core : Nat) : Statement (.wake core) := fun _ => trivial
theorem powerRestored (core : Nat) : Statement (.powerRestored core) := fun _ => trivial
theorem pteCountUpdate (p : BitVec 3) (pte : Nat) : Statement (.pteCountUpdate p pte) := fun _ => trivial
theorem tierSweep (p : BitVec 3) : Statement (.tierSweep p) := fun _ => trivial
theorem tierSwapComplete (p : BitVec 3) : Statement (.tierSwapComplete p) := fun _ => trivial
theorem tierSwapAbandon (p : BitVec 3) (victim : Bool) : Statement (.tierSwapAbandon p victim) := fun _ => trivial
theorem launchPacketAccept (path : HostPath) (p : BitVec 3) (slot : Nat) (packet : BitVec 512) : Statement (.launchPacketAccept path p slot packet) := fun _ => trivial
theorem launchGrant (p : BitVec 3) : Statement (.launchGrant p) := fun _ => trivial
theorem forgeRun (die : BitVec 3) : Statement (.forgeRun die) := fun _ => trivial
theorem routingDecision (p : BitVec 3) (set : BitVec 4) (record : Nat) : Statement (.routingDecision p set record) := fun _ => trivial
theorem assayTileDecide (p : BitVec 3) (launch tile : Nat) : Statement (.assayTileDecide p launch tile) := fun _ => trivial
theorem lbswpExchange (id : Nat) : Statement (.lbswpExchange id) := fun _ => trivial
theorem gangStop (p : BitVec 3) (why : BitVec 8) : Statement (.gangStop p why) := fun _ => trivial
theorem chaltQuiet (p : BitVec 3) : Statement (.chaltQuiet p) := fun _ => trivial
theorem haltGroupStop (core : Nat) (g : BitVec 4) : Statement (.haltGroupStop core g) := fun _ => trivial
theorem ctrigHalt (p : BitVec 3) (g : BitVec 4) : Statement (.ctrigHalt p g) := fun _ => trivial
theorem ctrigRel (p : BitVec 3) (g : BitVec 4) : Statement (.ctrigRel p g) := fun _ => trivial
theorem hstopStop (p : BitVec 3) : Statement (.hstopStop p) := fun _ => trivial
theorem hstopRel (p : BitVec 3) : Statement (.hstopRel p) := fun _ => trivial
theorem replicaCompare (p : BitVec 3) (slot : BitVec 11) : Statement (.replicaCompare p slot) := fun _ => trivial
theorem machineCheck (code : BitVec 8) (site : CheckSite) (addr : Word) : Statement (.machineCheck code site addr) := fun _ => trivial
theorem correctedError (cluster : BitVec 7) : Statement (.correctedError cluster) := fun _ => trivial
theorem dieLinkFail (die1 die2 : BitVec 3) : Statement (.dieLinkFail die1 die2) := fun _ => trivial
theorem nictlFlush (core : Nat) : Statement (.nictlFlush core) := fun _ => trivial
theorem fqctlReplay (p : BitVec 3) : Statement (.fqctlReplay p) := fun _ => trivial
theorem wmwinOwn (t : Nat) (n : BitVec 2) (value : Word) : Statement (.wmwinOwn t n value) := fun _ => trivial
theorem dnoteWrite (p : BitVec 3) (pc : Word) : Statement (.dnoteWrite p pc) := fun _ => trivial
theorem dmodeWrite (p : BitVec 3) (value : Word) : Statement (.dmodeWrite p value) := fun _ => trivial
theorem dsaltWrite (p : BitVec 3) (value : Word) : Statement (.dsaltWrite p value) := fun _ => trivial
theorem dcauseClear (p : BitVec 3) (n : BitVec 4) : Statement (.dcauseClear p n) := fun _ => trivial
theorem alevelWrite (p : BitVec 3) (value : Word) : Statement (.alevelWrite p value) := fun _ => trivial
theorem tierctlWrite (p : BitVec 3) (value : Word) : Statement (.tierctlWrite p value) := fun _ => trivial
theorem cstageWrite (core : Nat) (value : Word) : Statement (.cstageWrite core value) := fun _ => trivial
theorem cschedStrandsWrite (core : Nat) (value : Word) : Statement (.cschedStrandsWrite core value) := fun _ => trivial
theorem frameStateStore (t : Nat) (value : Word) : Statement (.frameStateStore t value) := fun _ => trivial
theorem frameRegisterStore (t off : Nat) (value : Word) : Statement (.frameRegisterStore t off value) := fun _ => trivial
theorem registerWrite (reg : RegPlace) (value : Word) : Statement (.registerWrite reg value) := fun _ => trivial
theorem bar2Access (path : HostPath) (p : BitVec 3) (off : Nat) (size : Nat) (data : Option Word) : Statement (.bar2Access path p off size data) := fun _ => trivial
theorem pcmaskWrite (p : BitVec 3) (mask : BitVec 8) : Statement (.pcmaskWrite p mask) := fun _ => trivial
theorem csrWindowWrite (p : BitVec 3) (csr : BitVec 12) (value : Word) : Statement (.csrWindowWrite p csr value) := fun _ => trivial
theorem pcbootGo (p : BitVec 3) : Statement (.pcbootGo p) := fun _ => trivial
theorem identify (tag : BitVec 32) (len : BitVec 16) : Statement (.identify tag len) := fun _ => trivial
theorem readSensors (tag : BitVec 32) (len : BitVec 16) (temps : List (BitVec 16)) (power coolant : BitVec 32) : Statement (.readSensors tag len temps power coolant) := fun _ => trivial
theorem readErrorCounts (tag : BitVec 32) (len : BitVec 16) (io0 io1 : Word) : Statement (.readErrorCounts tag len io0 io1) := fun _ => trivial
theorem stageFirmwareBlock (tag : BitVec 32) (len : BitVec 16) : Statement (.stageFirmwareBlock tag len) := fun _ => trivial
theorem commitStagedImage (tag : BitVec 32) (len : BitVec 16) : Statement (.commitStagedImage tag len) := fun _ => trivial
theorem readMeasurement (tag : BitVec 32) (len : BitVec 16) : Statement (.readMeasurement tag len) := fun _ => trivial
theorem mailboxOperationEnd : Statement (.mailboxOperationEnd) := fun _ => trivial
theorem resetRelease : Statement (.resetRelease) := fun _ => trivial
theorem stage2 : Statement (.stage2) := fun _ => trivial
theorem stage3 : Statement (.stage3) := fun _ => trivial
theorem stageFailure (code : BitVec 16) : Statement (.stageFailure code) := fun _ => trivial
theorem spdmRequest (request : List Byte) : Statement (.spdmRequest request) := fun _ => trivial
theorem tdiConfigLock (p : BitVec 3) (link run : Bool) : Statement (.tdiConfigLock p link run) := fun _ => trivial
theorem stopInterface (p : BitVec 3) : Statement (.stopInterface p) := fun _ => trivial
theorem thermalTrip : Statement (.thermalTrip) := fun _ => trivial
theorem throttle : Statement (.throttle) := fun _ => trivial
theorem slenEnable (port : Fin 12) : Statement (.slenEnable port) := fun _ => trivial
theorem receiveBlock (port : Fin 12) (data : BitVec 512) (scales : Word) : Statement (.receiveBlock port data scales) := fun _ => trivial
theorem sltxdReady (port : Fin 12) (slot : BitVec 32) : Statement (.sltxdReady port slot) := fun _ => trivial
theorem transmitBlock (port : Fin 12) : Statement (.transmitBlock port) := fun _ => trivial
theorem linkUp (port : Fin 12) (peer : BitVec 16) (lanes : BitVec 4) : Statement (.linkUp port peer lanes) := fun _ => trivial
theorem linkDown (port : Fin 12) : Statement (.linkDown port) := fun _ => trivial
theorem peerAcknowledgement (port : Fin 12) (block : BitVec 32) : Statement (.peerAcknowledgement port block) := fun _ => trivial
theorem apertureWrite (path : HostPath) (p : BitVec 3) (off : Nat) : Statement (.apertureWrite path p off) := fun _ => trivial

end Sys2Proof.Laws.RoundTrip
end

