-- ==== Sys2Proof/Safety.lean ====
section
/-! DEFINITION. What counts as a safe run, and the words claims are stated in: invariants, frames (what a step leaves as it was) and
completion. -/

namespace Sys2Proof.Machine

/-! ## Invariants -/

/-- Memory is in its canonical form. -/
abbrev State.MemWf (s : State) : Prop := Memory.wf s.mem = true

/-- The zero register holds zero in every frame (R17). -/
def State.ZeroReg (s : State) : Prop := ∀ t, (s.strand t).rs 0 = 0

/-! ## Completion -/

/-- An instruction executes and the next state is as said. -/
def Completes (i : Instr) (s : State) (P : State → Prop) : Prop := ∃ t, exec i s = .next t ∧ P t

/-- An instruction raises a precise trap of a cause with a value (R238, R375): it does not retire, and TPC takes its address. -/
def Raises (i : Instr) (s : State) (c : BitVec 8) (v : Word) : Prop := exec i s = .next (s.deliver c v s.me.pc)

/-- An instruction cannot act yet: nothing changes. -/
def Waits (i : Instr) (s : State) : Prop := exec i s = .next s

/-! ## Frames -/

/-- Every byte of memory reads as before. -/
def MemKept (s t : State) : Prop := ∀ a, Memory.read t.mem a = Memory.read s.mem a

/-- Every other strand, and everything that is no strand, is as before: memory, cores, cells, clusters, dies, Looms, channels,
commands, the network, partitions, ports, the host's side. -/
def OthersKept (s t : State) : Prop :=
  { t with strands := s.strands } = s ∧ (∀ n, n ≠ s.cur → t.strand n = s.strand n) ∧ MemKept s t

/-- Of a strand only its scalar registers, with what they wait for, its PC and its fetch buffer may differ. -/
def Strand.SameButS (x y : Strand) : Prop := { y with s := x.s, tags := x.tags, pc := x.pc, fbuf := x.fbuf } = x
/-- ... its vector registers with their dead bits, what they wait for, its PC and its fetch buffer. -/
def Strand.SameButV (x y : Strand) : Prop := { y with v := x.v, dead := x.dead, tags := x.tags, pc := x.pc, fbuf := x.fbuf } = x
/-- ... its mask registers, with what they wait for, its PC and its fetch buffer. -/
def Strand.SameButK (x y : Strand) : Prop := { y with k := x.k, tags := x.tags, pc := x.pc, fbuf := x.fbuf } = x
/-- ... its buffer records, with what they wait for, its PC and its fetch buffer. -/
def Strand.SameButB (x y : Strand) : Prop := { y with b := x.b, tags := x.tags, pc := x.pc, fbuf := x.fbuf } = x
/-- No register but one has come to wait for a value, or ceased to wait (R113). -/
def Strand.OthersWait (x y : Strand) (d : RegName) : Prop := ∀ r id, r ≠ d → ((r, id) ∈ y.tags ↔ (r, id) ∈ x.tags)
/-- A strand with the sticky flags of FCTL set (R102). -/
def Strand.flagged (x : Strand) (f : Flags) : Strand := { x with csr := { x.csr with fctl := x.csr.fctl ||| f.setWidth 64 } }

/-- An instruction of n bytes wrote a scalar register and nothing else: s0 discards the write (R17, R242). -/
def WroteS (s t : State) (d : BitVec 5) (w : Word) (n : Nat) : Prop :=
  OthersKept s t ∧ Strand.SameButS s.me t.me ∧ Strand.OthersWait s.me t.me (.s d) ∧ (∀ r, r ≠ d → t.rs r = s.rs r) ∧ t.rs d = (if d = 0 then 0 else w)
  ∧ t.me.pc = s.me.pc + BitVec.ofNat 64 n

/-- It wrote a vector register, raising flags, and nothing else. -/
def WroteV (s t : State) (d : BitVec 5) (w : VReg) (f : Flags) (n : Nat) : Prop :=
  OthersKept s t ∧ Strand.SameButV (s.me.flagged f) t.me ∧ Strand.OthersWait s.me t.me (.v d) ∧ (∀ r, r ≠ d → t.rv r = s.rv r) ∧ t.rv d = w
  ∧ t.me.pc = s.me.pc + BitVec.ofNat 64 n

/-- It wrote a mask register, raising flags, and nothing else: k0 discards the write (R264). -/
def WroteK (s t : State) (d : BitVec 3) (w : Word) (f : Flags) (n : Nat) : Prop :=
  OthersKept s t ∧ Strand.SameButK (s.me.flagged f) t.me ∧ Strand.OthersWait s.me t.me (.k d) ∧ (∀ r, r ≠ d → t.rk r = s.rk r) ∧ (d ≠ 0 → t.rk d = w)
  ∧ t.me.pc = s.me.pc + BitVec.ofNat 64 n

/-- It wrote a buffer record and nothing else. -/
def WroteB (s t : State) (d : BitVec 4) (w : BRec) (n : Nat) : Prop :=
  OthersKept s t ∧ Strand.SameButB s.me t.me ∧ Strand.OthersWait s.me t.me (.b d) ∧ (∀ r, r ≠ d → t.rb r = s.rb r) ∧ t.rb d = w ∧ t.me.pc = s.me.pc + BitVec.ofNat 64 n

/-- It retired and wrote nothing. -/
def Retired (s t : State) (n : Nat) : Prop :=
  OthersKept s t ∧ { t.me with pc := s.me.pc, fbuf := s.me.fbuf } = s.me ∧ t.me.pc = s.me.pc + BitVec.ofNat 64 n

/-- Registers of the strand, its control registers apart, and memory are as before. -/
def RegsKept (s t : State) : Prop :=
  t.me.s = s.me.s ∧ t.me.v = s.me.v ∧ t.me.dead = s.me.dead ∧ t.me.k = s.me.k ∧ t.me.b = s.me.b ∧ t.me.weave = s.me.weave ∧ t.me.q = s.me.q

/-- Control went to an address, with a link written to d: the fetch buffer is empty (R132). A strand whose residency tag ends at that
address loses the tag (R351), unless earlier SO accesses of its are not performed: the tag then clears before the next instruction
(R402). Nothing else changes. -/
def Jumped (s t : State) (d : BitVec 5) (link target : Word) : Prop :=
  { t with strands := s.strands, parts := s.parts } = s ∧ (∀ n, n ≠ s.cur → t.strand n = s.strand n) ∧ MemKept s t
  ∧ { t.me with s := s.me.s, tags := s.me.tags, pc := s.me.pc, fbuf := s.me.fbuf, vecFetch := s.me.vecFetch, tag := s.me.tag,
                tagRet := s.me.tagRet } = s.me
  ∧ t.me.pc = target ∧ t.me.fbuf = [] ∧ Strand.OthersWait s.me t.me (.s d)
  ∧ (∀ r, r ≠ d → t.rs r = s.rs r) ∧ t.rs d = (if d = 0 then 0 else link)
  ∧ (s.me.tagRet = some target → s.me.soReady = true → t.me.tag = none)
  ∧ (s.me.tagRet ≠ some target ∨ s.me.soReady = false → t.me.tag = s.me.tag ∧ t.me.tagRet = s.me.tagRet ∧ t.parts = s.parts)

/-! ## Accesses -/

/-- The bits of a scalar access by its width code (R234): 8, 16, 32 or 64. -/
def accessBits (w : BitVec 3) : Nat := 8 * 2 ^ (w.toNat % 4)
/-- A loaded value in a register: codes 0 to 2 extend the sign, the others extend with zeros (R282). -/
def loadedWord (w : BitVec 3) (v : Nat) : Word :=
  if w.toNat < 3 then (if v % 2 ^ accessBits w < 2 ^ (accessBits w - 1) then BitVec.ofNat 64 (v % 2 ^ accessBits w)
                       else BitVec.ofInt 64 ((v % 2 ^ accessBits w : Nat) - 2 ^ accessBits w))
  else BitVec.ofNat 64 (v % 2 ^ accessBits w)

/-- The strand that executes has nothing under way: every register's value is known, no access is unperformed, no store stands in an
outbox or the loop-back port, no fence is open, no watermark window is enabled; no engine command holds its core's local memory, its
partition swaps no two pages, and its access is performed at once. -/
abbrev State.Settled (s : State) : Prop :=
  s.late = false ∧ s.me.tags = [] ∧ s.me.pend = [] ∧ s.me.out = [] ∧ s.me.port = [] ∧ s.me.fences = []
  ∧ s.me.csr.wmwin.toList.all (fun w => !w.getLsbD 63) = true ∧ s.myCore.board = [] ∧ s.myPart.swap = none

/-- The place a part names takes an access now: its core is awake (R228), no LBLD or LBSWP is under way at its staging window (R23), and no
frame register there waits for a value (R113). -/
abbrev State.Takes (s : State) (a : Part1) : Prop := s.sleeps a = false ∧ s.stagingBusy a = false ∧ s.frameUnknown s.fresh a = false

/-- An instruction raises a trap of an access: a translation fault discards the cached translation that refused it first (R77). -/
def RaisesAccess (acc : Acc) (i : Instr) (s : State) (c : BitVec 8) (v : Word) : Prop :=
  exec i s = .next ((if c = acc.cause then s.discard (s.ctx s.cur) acc v.toNat else s).deliver c v s.me.pc)

/-- A byte that a dirty line of the strand's core holds: a write-back may move it (R42). -/
def State.dirtyAt (s : State) (a : Nat) : Prop := ∃ l ∈ s.myCore.lines, l.1 ≤ a ∧ a < l.1 + 64 ∧ l.2.dirty.getLsbD (a - l.1) = true

/-- Memory is as before but for what a write-back of the strand's core moves home. -/
def MemSynced (s t : State) : Prop := s.MemWf → ∀ a, ¬ s.dirtyAt a → Memory.read t.mem a = Memory.read s.mem a

/-- The state in which cached translations that refused parts of an access are gone, with the lines they covered (R77, R43). -/
def State.refreshed (s : State) (acc : Acc) (ps : List Part1) : State := s.discardParts (s.ctx s.cur) acc ps

/-- What an access may touch beside the strand and what it does: cached translations that refused it and the lines they covered, which bytes
are commands' own (R135), page counters to be raised, DCAUSE, the gate of a core it reaches, clean lines that an acquire drops. -/
def Touched (s t : State) (acc : Acc) (ps : List Part1) : Prop :=
  { t with strands := s.strands, mem := s.mem, parts := s.parts, cores := s.cores, clusters := s.clusters, dies := s.dies, ptePend := s.ptePend,
           lands := s.lands } = s
  ∧ (∀ n, n ≠ s.cur → t.strand n = s.strand n) ∧ t.mem = (s.refreshed acc ps).mem ∧ MemSynced s t

/-- A store's parts stand in the strand's outbox, in order, and nothing else happened but its retiring. The lanes of a scatter are accesses
of their own (R127). -/
def Posted (s t : State) (ps : List (Part1 × Word)) (rel : Option (BitVec 3)) (lanes : Bool := false) : Prop :=
  { t with strands := s.strands, fresh := s.fresh } = { s.refreshed .store (ps.map (·.1)) with strands := s.strands, fresh := s.fresh }
  ∧ (∀ n, n ≠ s.cur → t.strand n = s.strand n) ∧ MemSynced s t
  ∧ { t.me with out := [], pc := s.me.pc, fbuf := s.me.fbuf } = { s.me with out := [] }
  ∧ t.me.out = ps.zipIdx.map (fun (a, i) => (⟨a.1, a.2, rel, if lanes then s.fresh + i else s.fresh⟩ : Out)) ∧ t.me.pc = s.me.pc + 4

/-- The parts of the checked units of a buffer access, as it performs them. -/
def State.unitParts (s : State) (r : BRec) (u : Nat) (l : List Unit1) (isStore merge : Bool) : List Part1 :=
  let ps := placeUnits (s.thruOf (s.ctx s.cur).p r isStore) (8 * u) l
  if merge then mergeParts ps else ps

/-- The bits that dropped units of a buffer load read as (R84, R287). -/
def State.unitFill (s : State) (r : BRec) (cls u : Nat) (l : List Unit1) : BitVec 576 :=
  if l.any (·.isNone) then dropFill (zeroCode (s.zeroFmt (s.ctx s.cur) r)) (8 * u) u (cls = 5) l else 0

/-- The bits a load of parts fixes. -/
def State.loadBits (s : State) (got : BitVec 576) (ps : List Part1) : BitVec 576 :=
  ((s.refreshed .load ps).loadEvents s.cur ps).fix s.cur got ps

/-- The scale bytes of n slots in a k register that keeps its other bytes (R287). -/
def scaleBytes (old : Word) (n new : Nat) : Word := BitVec.ofNat 64 (new % 2 ^ (8 * n) + old.toNat / 2 ^ (8 * n) * 2 ^ (8 * n))

/-- An address range in the local memory of the executing strand's core, by its private alias (R12, R16). -/
abbrev inLocal (va : Word) (n : Nat) : Prop := va.toNat + n ≤ 0x20000 ∨ (0x30000 ≤ va.toNat ∧ va.toNat + n ≤ 0x40000)

/-- The home of an address of the private alias (R12). -/
def State.localHome (s : State) (va : Word) : Nat := coreAddr (coreOf s.cur) va.toNat

/-- The bytes of memory from a on are those of a number, n of them, and every other byte reads as before. -/
def Stored (s t : State) (a n x : Nat) : Prop :=
  Memory.readN t.mem a n = x % 256 ^ n ∧ ∀ b, (b < a ∨ a + n ≤ b) → Memory.read t.mem b = Memory.read s.mem b

/-! ## Lanes -/

/-- Lane i of a vector register, as bits (R263). -/
def vlane (v : VReg) (w i : Nat) : BitVec w := v.extractLsb' (w * i) w

/-- Every lane of vd is as said, and nothing else is written (R264, R265). -/
def LanesWritten (s t : State) (d : BitVec 5) (w : Nat) (f : Flags) (g : (i : Nat) → BitVec w) : Prop :=
  ∃ v, WroteV s t d v f 4 ∧ ∀ i, i < 512 / w → vlane v w i = g i

/-- The active lanes of vd are as said, and the inactive ones keep their value (R264). -/
def LanesMerged (s t : State) (d : BitVec 5) (w : Nat) (k : Word) (f : Flags) (g : (i : Nat) → BitVec w) : Prop :=
  LanesWritten s t d w f fun i => if k.getLsbD i then g i else vlane (s.rv d) w i

/-- A k register takes a bit for each active lane that passes, and zeros elsewhere (R264). -/
def BitsWritten (s t : State) (d : BitVec 3) (n : Nat) (k : Word) (f : Flags) (g : Nat → Prop) : Prop :=
  ∃ v, WroteK s t d v f 4 ∧ ∀ i, i < 64 → (v.getLsbD i = true ↔ i < n ∧ k.getLsbD i = true ∧ g i)

/-- The flags of the active lanes, ORed (R266). -/
def activeFlags (n : Nat) (k : Word) (g : Nat → Flags) : Flags :=
  (List.range n).foldl (fun a i => if k.getLsbD i then a ||| g i else a) 0

/-- An instruction that raised flags retires as said, or raises cause 0x0F with the flags in TVAL when one is enabled (R102, R266). -/
def FlagsOrTrap (i : Instr) (s : State) (f : Flags) (P : State → Prop) : Prop :=
  (f &&& fctlEnables s.me.csr.fctl = 0 → Completes i s P) ∧ (f &&& fctlEnables s.me.csr.fctl ≠ 0 → Raises i s 0x0F (f.setWidth 64))

/-! ## Tasks and commands -/

/-- The strand's wait of R123 is over: it is released, and no swap holds a write-back of its core (R60). -/
abbrev State.Released (s : State) : Prop := s.me.released = true ∧ s.backHeld (coreOf s.cur) = false

/-- A byte of the spill area of a core: its records and payload words may go there (R216). -/
def State.spillIn (s : State) (core a : Nat) : Prop :=
  (s.core core).cspill.getLsbD 0 = true ∧ (s.core core).spillBase ≤ a ∧ a < (s.core core).spillBase + 0x10000
/-- A byte of the spill area of the strand's core. -/
abbrev State.spillAt (s : State) (a : Nat) : Prop := s.spillIn (coreOf s.cur) a

/-- Memory is as before but for what a write-back of the strand's core moves home, and what its queues put into its spill area. -/
def TaskSynced (s t : State) : Prop :=
  s.MemWf → ∀ a, ¬ s.dirtyAt a → ¬ s.spillAt a → Memory.read t.mem a = Memory.read s.mem a

/-- Records of a queue that stand in the core (R211). -/
def inCore (q : List TRec) : Nat := q.countP (·.slot.isNone)

/-- A record was handed to a core: to the tail of its queue, when the issuer stands there, no earlier record of its waits in the network
and there is room, else to the network (R209, R211). The queue keeps its records in order; at most 16 of them stand in the core. -/
def Handed (s t : State) (home : Nat) (r : TRec) : Prop :=
  let q := (s.core home).queues.get r.prio.toFin
  if home = coreOf s.cur ∧ s.recordAhead s.cur home = false ∧ (s.core home).hasRoom r.prio = true ∧ s.accepts home = true then
    ((t.core home).queues.get r.prio.toFin).map (fun x => { x with slot := none }) = (q ++ [r]).map (fun x => { x with slot := none })
    ∧ (inCore q < 16 → (t.core home).queues.get r.prio.toFin = q ++ [r])
  else ∃ m : Msg, t.net = s.net ++ [m] ∧ m.body = .record r ∧ m.dest = home * 16 ∧ m.sender = s.cur

/-- A strand of a core that waits for residence (R205, R203). -/
abbrev State.waitsForRoom (s : State) (core : Nat) : Prop :=
  ∃ f < 16, (s.strand (core * 16 + f)).resident = false
    ∧ ((s.strand (core * 16 + f)).st = .ready ∨ (s.strand (core * 16 + f)).st = .blocked
       ∨ ((s.strand (core * 16 + f)).st = .parked ∧ (s.strand (core * 16 + f)).again = true))

/-- RREAD and RWRITE count when they are accepted: as sent by their strand, and as received by the one that holds the rank (R393). -/
def State.countedFor (s : State) (op : CmdOp) (n : Nat) (x : Strand) : Strand :=
  match op with
  | .rread _ rk _ | .rwrite _ _ rk =>
    { x with sent := x.sent + (if n = s.cur then 1 else 0), rcvd := x.rcvd + (if s.rankPlace (s.partOf s.cur) rk = some n then 1 else 0) }
  | _ => x

/-- An engine command is issued (R123, R133, R134): it waits for the strand's release; then it takes the next number and joins its
queue with the snapshot of its strand, when the queue and the scoreboard have room; an acceptance left for later stands in `issued`.
`o` is what the instruction answers, s the state behind its operand loads, `back` the one before them, to which an instruction that
waits returns, `more` what its issue changes of the strand. -/
def Submitted (o : Out1) (s back : State) (op : CmdOp) (cw : Word) (more : Strand → Strand) : Prop :=
  let c := s.newCmd op cw
  let s0 := s.writeBackAll (coreOf s.cur)
  let room := (op.isLoom = true → (s.cmds.countP fun k => k.core = c.core && k.op.isLoom) < 16) ∧ s0.boardRoom (s0.ranges c) = true
  (¬ s.Released → o = .next back)
  ∧ (s.Released → s.late = false → room →
      ∃ t q, o = .next t ∧ t.cmds = s.cmds ++ [{ c with seq := q }] ∧ t.me = (s0.countedFor op s.cur (more s.me)).advance 8 ∧ t.mem = s0.mem
        ∧ ∀ n, n ≠ s.cur → t.strand n = s0.countedFor op n (s.strand n))
  ∧ (s.Released → s.late = false → ¬ room → o = .next back)
  ∧ (s.Released → s.late = true →
      ∃ t, o = .next t ∧ t.cmds = s.cmds ∧ t.issued = s.issued ++ [c] ∧ t.me = { more s.me with wait := .accept } ∧ t.mem = s0.mem)

/-- A byte that a dirty line of a core holds. -/
def State.dirtyIn (s : State) (core a : Nat) : Prop :=
  ∃ l ∈ (s.core core).lines, l.1 ≤ a ∧ a < l.1 + 64 ∧ l.2.dirty.getLsbD (a - l.1) = true
/-- Memory is as before but for what a write-back of a core moves home (R42). -/
def CoreSynced (core : Nat) (s t : State) : Prop := s.MemWf → ∀ a, ¬ s.dirtyIn core a → Memory.read t.mem a = Memory.read s.mem a
/-- Every strand but one is as before. -/
def OtherStrands (n : Nat) (s t : State) : Prop := ∀ m, m ≠ n → t.strand m = s.strand m

/-- A strand apart from which parts of its accesses have still to raise a page counter (R54). -/
def Strand.uncounted (x : Strand) : Strand :=
  let bare : Part1 → Part1 := fun a => { a with pte := none }
  { x with out := x.out.map fun o => { o with at_ := bare o.at_ }, pend := x.pend.map fun q => { q with parts := q.parts.map bare } }

/-- A strand apart from which parts of its accesses may be performed in the core copy. -/
def Strand.uncached (x : Strand) : Strand :=
  let bare : Part1 → Part1 := fun a => { a with cached := false }
  { x with out := x.out.map fun o => { o with at_ := bare o.at_ }, pend := x.pend.map fun q => { q with parts := q.parts.map bare } }

/-- Partitions hold no die in common (R35). -/
def State.Disjoint (s : State) : Prop := ∀ p q, p ≠ q → (s.part p).mask &&& (s.part q).mask = 0

end Sys2Proof.Machine
end

