-- ==== Sys2Proof/Certificates/Slice0/Obligations.lean ====
section
/-! DEFINITION. The statements for the provers. -/

open Sys2Proof Sys2Proof.Machine

/-! ## Scalar instructions (R242 to R247) -/

/-- R243: every ALU function but those of R244 executes for every operand and writes its value to d and nothing else. -/
def Sys2Proof.Claims.AluBinary : Prop :=
  ∀ (s : State) (d a b : BitVec 5) (h : BitVec 2),
    let x := s.rs a
    let y := s.rs b
    let n := (y &&& 63).toNat
    let W := fun i (w : Word) => Completes i s fun t => WroteS s t d w 4
    W (.add d a b h) (x + y) ∧ W (.sub d a b h) (x - y) ∧ W (.and d a b h) (x &&& y) ∧ W (.or d a b h) (x ||| y)
    ∧ W (.xor d a b h) (x ^^^ y) ∧ W (.andn d a b h) (x &&& ~~~y)
    ∧ W (.shl d a b h) (x <<< n) ∧ W (.shr d a b h) (x >>> n) ∧ W (.sha d a b h) (x.sshiftRight n)
    ∧ W (.rotl d a b h) ((x <<< n) ||| (x >>> (64 - n)))
    ∧ W (.min d a b h) (if x.toInt ≤ y.toInt then x else y) ∧ W (.max d a b h) (if x.toInt ≤ y.toInt then y else x)
    ∧ W (.minn d a b h) (if x.toNat ≤ y.toNat then x else y) ∧ W (.maxn d a b h) (if x.toNat ≤ y.toNat then y else x)
    ∧ W (.slt d a b h) (if x.toInt < y.toInt then 1 else 0) ∧ W (.sltn d a b h) (if x.toNat < y.toNat then 1 else 0)
    ∧ W (.seq d a b h) (if x = y then 1 else 0)
    ∧ (∀ k : BitVec 3, W (.lea d a b h k) (x + BitVec.ofNat 64 (y.toNat * 2 ^ k.toNat)))
    ∧ W (.mul d a b h) (x * y)
    ∧ W (.mulh d a b h) ((x.signExtend 128 * y.signExtend 128).extractLsb' 64 64)
    ∧ W (.mulhn d a b h) ((x.setWidth 128 * y.setWidth 128).extractLsb' 64 64)
    ∧ (x ≠ 0 → W (.cmov d a b h) y)
    ∧ (x = 0 → Completes (.cmov d a b h) s fun t => Retired s t 4)

/-- R243: the functions of one operand. The counts are said by what they count. -/
def Sys2Proof.Claims.AluUnary : Prop :=
  ∀ (s : State) (d a : BitVec 5) (h : BitVec 2),
    let x := s.rs a
    let W := fun i (w : Word) => Completes i s fun t => WroteS s t d w 4
    (∃ n ≤ 64, W (.clz d a h) (BitVec.ofNat 64 n) ∧ x.toNat < 2 ^ (64 - n) ∧ (n < 64 → 2 ^ (63 - n) ≤ x.toNat))
    ∧ (∃ n ≤ 64, W (.ctz d a h) (BitVec.ofNat 64 n) ∧ (∀ j < n, x.getLsbD j = false) ∧ (n < 64 → x.getLsbD n = true))
    ∧ W (.popc d a h) (BitVec.ofNat 64 (((List.range 64).map fun j => (x.getLsbD j).toNat).sum))
    ∧ W (.sext d a h 0) ((x.setWidth 8).signExtend 64) ∧ W (.sext d a h 1) ((x.setWidth 16).signExtend 64)
    ∧ W (.sext d a h 2) ((x.setWidth 32).signExtend 64)
    ∧ W (.zext d a h 4) ((x.setWidth 8).setWidth 64) ∧ W (.zext d a h 5) ((x.setWidth 16).setWidth 64)
    ∧ W (.zext d a h 6) ((x.setWidth 32).setWidth 64)

/-- R243: the divisions by a divisor that is not zero. -/
def Sys2Proof.Claims.AluDivide : Prop :=
  ∀ (s : State) (d a b : BitVec 5) (h : BitVec 2),
    let x := s.rs a
    let y := s.rs b
    let W := fun i (w : Word) => Completes i s fun t => WroteS s t d w 4
    y ≠ 0 →
    W (.div d a b h) (BitVec.ofInt 64 (x.toInt.tdiv y.toInt)) ∧ W (.divn d a b h) (BitVec.ofNat 64 (x.toNat / y.toNat))
    ∧ W (.rem d a b h) (BitVec.ofInt 64 (x.toInt - y.toInt * x.toInt.tdiv y.toInt))
    ∧ W (.remn d a b h) (BitVec.ofNat 64 (x.toNat - y.toNat * (x.toNat / y.toNat)))

/-- R243: every ALU function: those of two operands, those of one, and the divisions; d takes the value of the table and nothing else
changes. -/
def Obligations.AluResults : Prop := Claims.AluBinary ∧ Claims.AluUnary ∧ Claims.AluDivide

/-- A word that is no instruction (R238): it decodes to nothing, and a strand that issues it raises cause 0x01. -/
def Sys2Proof.Claims.Illegal (w : IWord) : Prop :=
  ∀ (x : IWord), (∃ e, decode w x = .error e)
    ∧ ∀ (s s1 : State) (t : Nat) (late : Bool), s.prepare t late = .words w x s1 → issue t late s = .next (s1.deliver 0x01 s1.ir s1.me.pc)

/-- R244: a zero divisor raises cause 0x0A with TVAL holding the dividend and writes nothing; −2^63 by −1 gives −2^63 and 0; every other
ALU function completes for all operands; a sub that R243 does not give, and a b that must be zero, make a word illegal; the words of
R244's table. -/
def Obligations.Division : Prop :=
  (∀ (s : State) (d a b : BitVec 5) (h : BitVec 2),
    let x := s.rs a
    (s.rs b = 0 → Raises (.div d a b h) s 0x0A x ∧ Raises (.divn d a b h) s 0x0A x ∧ Raises (.rem d a b h) s 0x0A x
        ∧ Raises (.remn d a b h) s 0x0A x)
    ∧ (x = BitVec.intMin 64 → s.rs b = BitVec.allOnes 64 →
        (Completes (.div d a b h) s fun t => WroteS s t d (BitVec.intMin 64) 4) ∧ (Completes (.rem d a b h) s fun t => WroteS s t d 0 4))
    ∧ (∀ k : BitVec 3, ∀ i ∈ ([.add d a b h, .sub d a b h, .and d a b h, .or d a b h, .xor d a b h, .andn d a b h, .shl d a b h, .shr d a b h,
          .sha d a b h, .rotl d a b h, .min d a b h, .max d a b h, .minn d a b h, .maxn d a b h, .slt d a b h, .sltn d a b h, .seq d a b h,
          .clz d a h, .ctz d a h, .popc d a h, .sext d a h 0, .sext d a h 1, .sext d a h 2, .zext d a h 4, .zext d a h 5, .zext d a h 6,
          .lea d a b h k, .mul d a b h, .mulh d a b h, .mulhn d a b h, .cmov d a b h] : List Instr),
        Completes i s fun t => OthersKept s t ∧ Strand.SameButS s.me t.me ∧ t.me.pc = s.me.pc + 4))
  ∧ (∀ w : IWord, w.extractLsb' 26 6 = 1 →
      let fn := (w.extractLsb' 5 6).toNat
      let sub := (w.extractLsb' 0 3).toNat
      ((fn = 20 ∧ 2 < sub) ∨ (fn = 21 ∧ (sub < 4 ∨ 6 < sub)) ∨ (fn < 20 ∧ sub ≠ 0) ∨ (22 < fn ∧ sub ≠ 0) → Claims.Illegal w)
      ∧ (17 ≤ fn → fn ≤ 21 → w.extractLsb' 11 5 ≠ 0 → Claims.Illegal w))
  ∧ ∀ x, decode 0x04C62000 x = .ok (.add 6 6 4 0) ∧ decode 0x04853340 x = .ok (.div 4 5 6 0) ∧ decode 0x04850281 x = .ok (.sext 4 5 0 1)
      ∧ decode 0x048532C3 x = .ok (.lea 4 5 6 0 3) ∧ decode 0x048533C0 x = .ok (.cmov 4 5 6 0)

/-- R245: the immediate instructions complete for all operands with the values of the table; an SHI with a bit of imm[15:8] and an LIH
with an a are illegal words; the words of R245's table. -/
def Obligations.Immediates : Prop :=
  (∀ (s : State) (d a : BitVec 5) (i : BitVec 16) (c : BitVec 6),
    let x := s.rs a
    let si := i.signExtend 64
    let ui := i.setWidth 64
    let W := fun i (w : Word) => Completes i s fun t => WroteS s t d w 4
    W (.addi d a i) (x + si) ∧ W (.andi d a i) (x &&& ui) ∧ W (.ori d a i) (x ||| ui) ∧ W (.xori d a i) (x ^^^ ui)
    ∧ W (.slti d a i) (if x.toInt < i.toInt then 1 else 0)
    ∧ W (.shi d a 0 c) (x <<< c.toNat) ∧ W (.shi d a 1 c) (x >>> c.toNat) ∧ W (.shi d a 2 c) (x.sshiftRight c.toNat)
    ∧ W (.shi d a 3 c) ((x <<< c.toNat) ||| (x >>> (64 - c.toNat)))
    ∧ W (.lih d i) (ui <<< 16) ∧ W (.lix d a i) (x <<< 16 ||| ui))
  ∧ (∀ w : IWord, (w.extractLsb' 26 6 = 7 → w.extractLsb' 8 8 ≠ 0 → Claims.Illegal w)
      ∧ (w.extractLsb' 26 6 = 8 → w.extractLsb' 16 5 ≠ 0 → Claims.Illegal w))
  ∧ ∀ x, decode 0x08E00001 x = .ok (.addi 7 0 1) ∧ decode 0x10C01000 x = .ok (.ori 6 0 0x1000) ∧ decode 0x1C850043 x = .ok (.shi 4 5 1 3)
      ∧ decode 0x20801234 x = .ok (.lih 4 0x1234) ∧ decode 0x24845678 x = .ok (.lix 4 4 0x5678)

/-- R230, R246: a branch is taken when its condition holds, to its address + 4 × displacement, which raises cause 0x03 where it is off a
word boundary (so is the branch itself then); else the next word follows. -/
def Sys2Proof.Claims.Branches : Prop :=
  ∀ (s : State) (a b : BitVec 5) (i : BitVec 16),
    let x := s.rs a
    let y := s.rs b
    let target := s.me.pc + BitVec.ofInt 64 (4 * i.toInt)
    let B := fun n (c : Prop) =>
      (c → (target.toNat % 4 = 0 → Completes n s fun t => Jumped s t 0 0 target) ∧ (target.toNat % 4 ≠ 0 → Raises n s 0x03 target))
      ∧ (¬ c → Completes n s fun t => Retired s t 4)
    B (.beq a b i) (x = y) ∧ B (.bne a b i) (x ≠ y) ∧ B (.blt a b i) (x.toInt < y.toInt) ∧ B (.bge a b i) (y.toInt ≤ x.toInt)
    ∧ B (.bltn a b i) (x.toNat < y.toNat) ∧ B (.bgen a b i) (y.toNat ≤ x.toNat)

/-- R247, R230: the jumps and their links; a target off a word boundary raises cause 0x03 with TVAL holding it and writes no link. -/
def Sys2Proof.Claims.Jumps : Prop :=
  ∀ (s : State) (d a : BitVec 5) (i : BitVec 16) (j : BitVec 26),
    let rel := s.me.pc + BitVec.ofInt 64 (4 * j.toInt)
    let tgt := s.rs a + BitVec.ofInt 64 (4 * i.toInt)
    (rel.toNat % 4 = 0 →
      (Completes (.j j) s fun t => Jumped s t 0 0 rel) ∧ (Completes (.jl j) s fun t => Jumped s t 1 (s.me.pc + 4) rel))
    ∧ (rel.toNat % 4 ≠ 0 → Raises (.j j) s 0x03 rel ∧ Raises (.jl j) s 0x03 rel)
    ∧ (tgt.toNat % 4 = 0 → Completes (.jlr d a i) s fun t => Jumped s t d (s.me.pc + 4) tgt)
    ∧ (tgt.toNat % 4 ≠ 0 → Raises (.jlr d a i) s 0x03 tgt)

/-- R230, R246, R247: the branches, and the jumps with their links. The way a residency tag ends as control reaches its return address
(`Jumped`; R351, R402) is the model's reading: log 35. -/
def Obligations.ControlTransfers : Prop := Claims.Branches ∧ Claims.Jumps

/-! ## Scalar memory access (R282, R283) -/

/-- R12, R282: a load from the core's own local memory writes the bytes there, extended, to d, and nothing else changes. -/
def Sys2Proof.Claims.LocalLoads : Prop :=
  ∀ (s : State) (d a : BitVec 5) (w c : BitVec 3) (i : BitVec 13) (j : BitVec 10),
    s.Settled → w.toNat ≤ 6 →
    let V := fun (va : Word) => loadedWord w (Memory.readN s.mem (s.localHome va) (accessBits w / 8))
    let va := s.rs a + i.signExtend 64
    let vb := s.rs a + j.signExtend 64
    (inLocal va (accessBits w / 8) → va.toNat % (accessBits w / 8) = 0 → Completes (.lds d a w i) s fun t => WroteS s t d (V va) 4)
    ∧ (c = 0 → inLocal vb (accessBits w / 8) → vb.toNat % (accessBits w / 8) = 0 →
        Completes (.ldaq d a w c j) s fun t => WroteS s t d (V vb) 4)

/-- R282, R283, R117: a scalar load whose address passes its checks completes: the value its part holds, extended, goes to d; every other
register stays, and no byte of memory changes but where a discarded translation's dirty lines go home (R77, R43). A load of the core's own
slot by the physical map goes to the loop-back port (R129) instead, and d is written later. A route that waits (for a walk, or for an LBLD
or LBSWP at its staging window, R23), a frame register that waits for a value and a core that does not take the access yet hold the load.
-/
def Sys2Proof.Claims.RoutedLoads : Prop :=
  ∀ (s : State) (d a : BitVec 5) (w c : BitVec 3) (i : BitVec 13) (j : BitVec 10) (p : Part1) (e : Option TlbEntry),
    s.Settled → w.toNat ≤ 6 →
    let L := fun n (va : Word) =>
      (s.routeScalar (s.ctx s.cur) .load va (accessBits w / 8) = .wait → Waits n s)
      ∧ (s.routeScalar (s.ctx s.cur) .load va (accessBits w / 8) = .ok p e →
      (s.Takes p → ownPort (coreOf s.cur) p = false →
        Completes n s fun t =>
          Touched s t .load [p] ∧ Strand.SameButS s.me t.me ∧ Strand.OthersWait s.me t.me (.s d) ∧ (∀ r, r ≠ d → t.rs r = s.rs r)
          ∧ t.me.pc = s.me.pc + 4 ∧ t.rs d = if d = 0 then 0 else loadedWord w ((s.loadBits 0 [p]).toNat))
      ∧ (s.Takes p → ownPort (coreOf s.cur) p = true →
        Completes n s fun t =>
          MemKept s t ∧ (∀ r, t.rs r = s.rs r) ∧ t.me.pc = s.me.pc + 4 ∧ t.me.pend.map (·.dst) = [.sreg d (accessBits w) (w.toNat < 3)]
          ∧ t.me.port.map (·.at_) = [p])
      ∧ (s.sleeps p = false → s.frameUnknown s.fresh p = true → Waits n s)
      ∧ (s.sleeps p = true → exec n s = s.stallAt [p]))
    L (.lds d a w i) (s.rs a + i.signExtend 64) ∧ L (.ldaq d a w c j) (s.rs a + j.signExtend 64)

/-- R282, R283: scalar loads, from the core's own local memory and by any route. -/
def Obligations.ScalarLoads : Prop := Claims.LocalLoads ∧ Claims.RoutedLoads

/-- R113, R282: a scalar store whose address passes its checks, to no register, completes: its bytes stand in the strand's outbox and
memory still reads as before; the drain step moves them. -/
def Sys2Proof.Claims.PostedStores : Prop :=
  ∀ (s : State) (d a : BitVec 5) (w c : BitVec 3) (i : BitVec 13) (j : BitVec 10) (p : Part1) (e : Option TlbEntry),
    s.Settled → w.toNat ≤ 6 → special p = false → ownPort (coreOf s.cur) p = false → s.stagingBusy p = false →
    let v := BitVec.ofNat 64 ((s.rs d).toNat % 2 ^ accessBits w)
    (s.routeScalar (s.ctx s.cur) .store (s.rs a + i.signExtend 64) (accessBits w / 8) = .ok p e →
      Completes (.sts d a w i) s fun t => Posted s t [(p, v)] none)
    ∧ (s.routeScalar (s.ctx s.cur) .store (s.rs a + j.signExtend 64) (accessBits w / 8) = .ok p e →
      Completes (.strl d a w c j) s fun t => Posted s t [(p, v)] (some c))

/-- R116, R117, R18, R22, R50: a store into a frame, a core control block or the cluster controls is checked as it issues: what its rule
refuses raises the trap of that rule; else the store stands in the outbox, and the drain step of an STS at an awake core then does what the
register's rule says, or nothing where what has happened since makes that refuse it. A frame register whose value an earlier access has yet
to bring holds the store. -/
def Sys2Proof.Claims.RegisterStores : Prop :=
  ∀ (s : State) (d a : BitVec 5) (w c : BitVec 3) (i : BitVec 13) (j : BitVec 10) (p : Part1) (e : Option TlbEntry),
    s.Settled → w.toNat ≤ 6 → special p = true →
    let v := BitVec.ofNat 64 ((s.rs d).toNat % 2 ^ accessBits w)
    let L := fun n (va : Word) rel =>
      s.routeScalar (s.ctx s.cur) .store va (accessBits w / 8) = .ok p e →
      (∀ x, s.specialStore p v s.me.level = .error x → Raises n s x.cause x.val)
      ∧ (∀ u, s.specialStore p v s.me.level = .ok u →
          (s.frameUnknown s.fresh p = true → Waits n s)
          ∧ (s.frameUnknown s.fresh p = false →
            Completes n s fun t =>
              Posted s t [(p, v)] rel
              ∧ (rel = none → s.sleeps p = false → s.enableHeld p = false →
                let t0 := t.modStrand s.cur fun x => { x with out := [] }
                let put := match t0.specialStore p v s.me.level with | .ok u => u | .error _ => t0
                ∃ u, t.drainStep s.cur 0 true = some u ∧ { u with strands := put.strands, lands := put.lands } = put
                  ∧ ∀ m, (u.strand m).uncounted = (put.strand m).uncounted)))
    L (.sts d a w i) (s.rs a + i.signExtend 64) none ∧ L (.strl d a w c j) (s.rs a + j.signExtend 64) (some c)

/-- R18, R22, R50, R113, R116, R117, R282, R283: scalar stores, to memory and to registers. Clauses that rest on the model's reading of an
open point: logs 16, 43, 72. -/
def Obligations.ScalarStores : Prop := Claims.PostedStores ∧ Claims.RegisterStores

/-- R7, R283: an address that names nothing raises cause 0x04 for a load and 0x05 for a store; a misaligned one that names something
raises cause 0x03; TVAL holds the address. A translation fault discards the cached translation that refused the access (R77). -/
def Sys2Proof.Claims.ScalarAccessTraps : Prop :=
  ∀ (s : State) (d a : BitVec 5) (w c : BitVec 3) (i : BitVec 13) (j : BitVec 10),
    w.toNat ≤ 6 →
    let va := s.rs a + i.signExtend 64
    let vb := s.rs a + j.signExtend 64
    (s.unsorted (s.ctx s.cur) va = true → RaisesAccess .load (.lds d a w i) s 0x04 va ∧ RaisesAccess .store (.sts d a w i) s 0x05 va)
    ∧ (s.unsorted (s.ctx s.cur) vb = true → RaisesAccess .load (.ldaq d a w c j) s 0x04 vb ∧ RaisesAccess .store (.strl d a w c j) s 0x05 vb)
    ∧ (s.unsorted (s.ctx s.cur) va = false → va.toNat % (accessBits w / 8) ≠ 0 →
        Raises (.lds d a w i) s 0x03 va ∧ Raises (.sts d a w i) s 0x03 va)
    ∧ (s.unsorted (s.ctx s.cur) vb = false → vb.toNat % (accessBits w / 8) ≠ 0 →
        Raises (.ldaq d a w c j) s 0x03 vb ∧ Raises (.strl d a w c j) s 0x03 vb)

/-- What R71 refuses of a leaf entry: to an apprentice without `appr`, a load without `r`, a store without `w`. -/
def Sys2Proof.Claims.Denies (acc : Acc) (level : BitVec 2) (e : TlbEntry) : Prop :=
  (level = 0 ∧ Pte.appr e.lo = false) ∨ (acc = .load ∧ Pte.r e.lo = false) ∨ (acc = .store ∧ Pte.w e.lo = false)

/-- R14, R15, R71, R77, R161, R283: a scalar access whose address names something and is aligned. On a page: where no cached translation
permits it and a fresh walk finds no entry, a malformed one or one that refuses it, the translation fault of its kind; where the entry that
permits a store is sealed with a key the strand does not hold, cause 0x06. By the physical map: a width but 8 at a frame, a join cell, a
control block or the cluster controls raises cause 0x03; then a level R15 does not allow raises cause 0x02, and a store to a join cell cause
0x0B; a store to a name table, and any access to the search arrays, raises cause 0x05 (R24, R355). -/
def Sys2Proof.Claims.ScalarFaults : Prop :=
  ∀ (s : State) (d a : BitVec 5) (w c : BitVec 3) (i : BitVec 13) (j : BitVec 10),
    w.toNat ≤ 6 →
    let x := s.ctx s.cur
    let n := accessBits w / 8
    let F := fun (acc : Acc) i (va : Word) =>
      let R := RaisesAccess acc i s
      s.unsorted x va = false → va.toNat % n = 0 →
      (vaRegion va = .translated →
        ((∀ e, s.cached x.p x.core va.toNat = some e → Claims.Denies acc s.me.level e) →
          (s.walk x.p va.toNat = .invalid ∨ s.walk x.p va.toNat = .fault
            ∨ ∃ e, s.walk x.p va.toNat = .ok e ∧ Claims.Denies acc s.me.level e) →
          R acc.cause va)
        ∧ (∀ e, acc = .store → s.translate x .store va.toNat = .ok e → Pte.sealed e.lo = true → (e.key = 0 ∨ e.key ∉ s.me.heldKeys) →
            R 0x06 va))
      ∧ (vaRegion va = .mesh →
        match meshRegion va.toNat with
        | .frame _ _ => (n ≠ 8 → R 0x03 va) ∧ (n = 8 → s.me.level = 0 → R 0x02 va)
        | .cell _ _ _ => (n ≠ 8 → R 0x03 va) ∧ (n = 8 → acc = .store → R 0x0B va)
        | .ctl _ _ => (n ≠ 8 → R 0x03 va) ∧ (n = 8 → s.me.level = 0 ∨ (acc = .store ∧ s.me.level ≠ 2) → R 0x02 va)
        | .clusterCtl cl off =>
          (n ≠ 8 → R 0x03 va)
          ∧ (n = 8 → s.me.level = 0
                ∨ (acc = .store ∧ s.me.level ≠ 2 ∧ ¬ ((gatewayPort cl).isSome = true ∧ (off = 0x420 ∨ off = 0x428))) → R 0x02 va)
        | .pool cl off =>
          ((s.cluster cl).searching off = true → R 0x05 va) ∧ (acc = .store → s.myPart.inNames va.toNat = true → R 0x05 va)
        | _ => True)
    let va := s.rs a + i.signExtend 64
    let vb := s.rs a + j.signExtend 64
    F .load (.lds d a w i) va ∧ F .store (.sts d a w i) va ∧ F .load (.ldaq d a w c j) vb ∧ F .store (.strl d a w c j) vb

/-! ## Buffer access (R284 to R289) -/

/-- R285 to R287: a load through a record whose units all pass their checks completes: the bits of its parts, with those that dropped
units read as, go to the destination; every other register stays, and memory but where a discarded translation's dirty lines go home. -/
def Sys2Proof.Claims.BufferLoads : Prop :=
  ∀ (s : State) (d : BitVec 5) (r : BitVec 4) (o : BitVec 5) (i : BitVec 7) (h : BitVec 2) (c k : BitVec 3) (u : Nat) (l : List Unit1),
    s.Settled → recRefused (s.rb r) false = false →
    let b := s.rb r
    let x := s.ctx s.cur
    let G := fun n cls (offs : Nat → List Int) merge (P : BitVec 576 → State → Prop) =>
      s.unitOf x b cls offs = .ok u → s.checkUnits x b u cls .load (offs u) = .ok l →
      (∀ p ∈ s.unitParts b u l false merge, s.Takes p ∧ ownPort (coreOf s.cur) p = false) →
      Completes n s fun t =>
        Touched s t .load (s.unitParts b u l false merge) ∧ t.me.pc = s.me.pc + 4
        ∧ P (s.loadBits (s.unitFill b cls u l) (s.unitParts b u l false merge)) t
    let V := fun (g : BitVec 576) (t : State) => Strand.SameButV s.me t.me ∧ (∀ n, n ≠ d → t.rv n = s.rv n) ∧ t.rv d = g.setWidth 512
    G (.vld d r o i h c) c.toNat (unitOffsets (s.rs o) i.toInt) true V
    ∧ G (.vldg d r o h c) c.toNat (fun _ => laneOffsets (s.rv o) c.toNat) false V
    ∧ G (.sld d r o i h c) c.toNat (fun u => [(s.rs o).toInt + i.toInt * u]) false (fun g t =>
        Strand.SameButS s.me t.me ∧ (∀ n, n ≠ d → t.rs n = s.rs n)
        ∧ t.rs d = if d = 0 then 0
                   else if (match l with | [some (_, eff)] => signedFmt eff | _ => false) then BitVec.ofInt 64 (sxN (8 * u) (g.toNat % 2 ^ (8 * u)))
                   else BitVec.ofNat 64 (g.toNat % 2 ^ (8 * u)))
    ∧ (k ≠ 0 → G (.vldx d r o k h) 5 (unitOffsets (s.rs o) 0) false (fun g t =>
        (∀ n, n ≠ d → t.rv n = s.rv n) ∧ t.rv d = g.setWidth 512 ∧ (∀ n, t.rs n = s.rs n) ∧ (∀ n, n ≠ k → t.rk n = s.rk n)
        ∧ t.rk k = scaleBytes (s.rk k) (64 / u) (g.toNat / 2 ^ 512)))

/-- R285, R287: a store through a record whose units all pass their checks completes: each part stands in the outbox with its bytes of
the source, the lanes of a scatter as accesses of their own. -/
def Sys2Proof.Claims.BufferStores : Prop :=
  ∀ (s : State) (d : BitVec 5) (r : BitVec 4) (o : BitVec 5) (i : BitVec 7) (h : BitVec 2) (c k : BitVec 3) (u : Nat) (l : List Unit1),
    s.Settled → recRefused (s.rb r) false = false →
    let b := s.rb r
    let x := s.ctx s.cur
    let G := fun n cls (offs : Nat → List Int) merge lanes (data : Nat) =>
      s.unitOf x b cls offs = .ok u → s.checkUnits x b u cls .store (offs u) = .ok l →
      (∀ p ∈ s.unitParts b u l true merge, ownPort (coreOf s.cur) p = false ∧ special p = false ∧ s.stagingBusy p = false) →
      Completes n s fun t =>
        Posted s t ((s.unitParts b u l true merge).map fun p => (p, BitVec.ofNat 64 (data / 2 ^ p.pos % 2 ^ (8 * p.size)))) none lanes
    G (.vst d r o i h c) c.toNat (unitOffsets (s.rs o) i.toInt) true false (s.rv d).toNat
    ∧ G (.vsts d r o h c) c.toNat (fun _ => laneOffsets (s.rv o) c.toNat) false true (s.rv d).toNat
    ∧ G (.sst d r o i h c) c.toNat (fun u => [(s.rs o).toInt + i.toInt * u]) false false (s.rs d).toNat
    ∧ G (.vstx d r o k h) 5 (unitOffsets (s.rs o) 0) false false ((s.rv d).toNat + 2 ^ 512 * (s.rk k).toNat)

/-- R284 to R289: loads and stores through records. Clauses that rest on the model's reading of an open point: logs 43, 80, 91, 94. -/
def Obligations.BufferAccess : Prop := Claims.BufferLoads ∧ Claims.BufferStores

/-- R85, R286: a record that is refused raises cause 0x08 with TVAL holding its base, whatever its units; else the trap of the page holding
`base` where it gives the size of a block (R235), or that of the lowest failing unit, for every load and store through a record. PFETCH
raises nothing, in any state (R289). -/
def Sys2Proof.Claims.BufferTraps : Prop :=
  ∀ (s : State) (d : BitVec 5) (r : BitVec 4) (o : BitVec 5) (i : BitVec 7) (h : BitVec 2) (c k : BitVec 3),
    let b := s.rb r
    let x := s.ctx s.cur
    (recRefused b false = true →
      Raises (.vld d r o i h c) s 0x08 (Rec.base b) ∧ Raises (.vst d r o i h c) s 0x08 (Rec.base b)
      ∧ Raises (.vldg d r o h c) s 0x08 (Rec.base b) ∧ Raises (.vsts d r o h c) s 0x08 (Rec.base b)
      ∧ Raises (.vldx d r o k h) s 0x08 (Rec.base b) ∧ Raises (.vstx d r o k h) s 0x08 (Rec.base b)
      ∧ Raises (.sld d r o i h c) s 0x08 (Rec.base b) ∧ Raises (.sst d r o i h c) s 0x08 (Rec.base b))
    ∧ (recRefused b false = false →
        let T := fun acc n cls (offs : Nat → List Int) =>
          (∀ e, s.unitOf x b cls offs = .trap e → RaisesAccess .load n s e.cause e.val)
          ∧ (∀ u k e, s.unitOf x b cls offs = .ok u → k < (offs u).length →
              (s.bmUnit x b ((offs u).getD k 0) u cls acc = .invalid e ∨ s.bmUnit x b ((offs u).getD k 0) u cls acc = .fault e) →
              (∀ l < k, s.bmUnit x b ((offs u).getD l 0) u cls acc = .dropped
                ∨ ∃ ps f g, s.bmUnit x b ((offs u).getD l 0) u cls acc = .ok ps f g) →
              RaisesAccess acc n s e.cause e.val)
        let one := fun (u : Nat) => [(s.rs o).toInt + i.toInt * u]
        T .load (.vld d r o i h c) c.toNat (unitOffsets (s.rs o) i.toInt) ∧ T .store (.vst d r o i h c) c.toNat (unitOffsets (s.rs o) i.toInt)
        ∧ T .load (.vldg d r o h c) c.toNat (fun _ => laneOffsets (s.rv o) c.toNat)
        ∧ T .store (.vsts d r o h c) c.toNat (fun _ => laneOffsets (s.rv o) c.toNat)
        ∧ T .load (.vldx d r o k h) 5 (unitOffsets (s.rs o) 0) ∧ T .store (.vstx d r o k h) 5 (unitOffsets (s.rs o) 0)
        ∧ T .load (.sld d r o i h c) c.toNat one ∧ T .store (.sst d r o i h c) c.toNat one)
    ∧ (Completes (.pfetch r o i h c) s fun t => t.me = s.me.advance 4 ∧ ∀ n, n ≠ s.cur → t.strand n = s.strand n)

/-- R7, R14, R15, R71, R85, R235, R283, R286: where scalar and buffer accesses trap. Clauses that rest on the model's reading of an open
point: logs 9, 77, 80, 88. -/
def Obligations.AccessTraps : Prop := Claims.ScalarAccessTraps ∧ Claims.ScalarFaults ∧ Claims.BufferTraps

/-! ## Atomics (R290 to R292) -/

/-- R126, R290, R291: an atomic on the core's own local memory reads the location into d and leaves the function's result there, in
one step; every other byte and register stays. -/
def Sys2Proof.Claims.LocalAtomics : Prop :=
  ∀ (s : State) (d a b : BitVec 5) (ty h : BitVec 2) (c : BitVec 3),
    s.Settled → s.MemWf → ty.toNat ≤ 1 →
    let n := if ty = 0 then 4 else 8
    let va := s.rs a
    inLocal va n → va.toNat % n = 0 →
    let home := s.localHome va
    let old := Memory.readN s.mem home n
    let x := (s.rs b).toNat % 2 ^ (8 * n)
    let sx := fun (v : Nat) => if v < 2 ^ (8 * n - 1) then (v : Int) else (v : Int) - 2 ^ (8 * n)
    let A := fun i (new : Nat) => Completes i s fun t =>
      Stored s t home n new ∧ Strand.SameButS s.me t.me ∧ (∀ r, r ≠ d → t.rs r = s.rs r)
      ∧ t.rs d = (if d = 0 then 0 else BitVec.ofNat 64 old) ∧ (∀ m, m ≠ s.cur → t.strand m = s.strand m) ∧ t.me.pc = s.me.pc + 4
    A (.aadd d a b ty h c) (old + x) ∧ A (.aand d a b ty h c) (old &&& x) ∧ A (.aor d a b ty h c) (old ||| x)
    ∧ A (.axor d a b ty h c) (old ^^^ x)
    ∧ A (.amin d a b ty h c) (if sx old ≤ sx x then old else x) ∧ A (.amax d a b ty h c) (if sx old ≥ sx x then old else x)
    ∧ A (.aminn d a b ty h c) (min old x) ∧ A (.amaxn d a b ty h c) (max old x) ∧ A (.axchg d a b ty h c) x
    ∧ A (.acas d a b ty h c) (if old = (s.rs d).toNat % 2 ^ (8 * n) then x else old)

/-- R126, R154, R290: every atomic whose address is aligned and passes its checks completes, with the effect of its one step; the
float atomics among them; through the core's own slot by the physical map it joins the loop-back port (R129). A misaligned address raises
cause 0x03 and a failing one its translation's cause; only an apprentice's request wider than `.clu` parks (R156). -/
def Sys2Proof.Claims.RoutedAtomics : Prop :=
  ∀ (s : State) (d a b : BitVec 5) (ty h : BitVec 2) (c : BitVec 3),
    let A := fun i (op : AtomOp) (ty : BitVec 2) (expect : Word) =>
      let va := s.rs a
      let r : AtomReq := ⟨op, ty, c, d, s.rs b, expect, s.me.pc⟩
      (va.toNat % op.size ty ≠ 0 → Raises i s 0x03 va)
      ∧ (∀ e, va.toNat % op.size ty = 0 → s.route (s.ctx s.cur) .atomic va (op.size ty) 0 = .fault e →
          RaisesAccess .atomic i s e.cause e.val)
      ∧ (∀ e, va.toNat % op.size ty = 0 → s.route (s.ctx s.cur) .atomic va (op.size ty) 0 = .invalid e → c.toNat < 2 ∨ s.me.level ≠ 0 →
          RaisesAccess .atomic i s e.cause e.val)
      ∧ (∀ p e, s.Settled → s.Takes p → va.toNat % op.size ty = 0 → s.route (s.ctx s.cur) .atomic va (op.size ty) 0 = .ok p e →
          (ownPort (coreOf s.cur) p = false →
            let u := ((s.refreshed .atomic [p]).loadEvents s.cur [p]).atomStep (s.partOf s.cur) (coreOf s.cur) p r
            Completes i s fun t => t.mem = u.1.mem ∧ t.me.pc = s.me.pc + 4 ∧ (∀ n, n ≠ d → t.rs n = s.rs n)
              ∧ t.rs d = (if d = 0 then 0 else BitVec.ofNat 64 u.2)
              ∧ t.me.csr.fctl = (if d = 0 then s.me.csr.fctl else s.me.csr.fctl ||| (r.flags u.2).setWidth 64))
          ∧ (ownPort (coreOf s.cur) p = true →
            Completes i s fun t => MemKept s t ∧ (∀ n, t.rs n = s.rs n) ∧ t.me.pc = s.me.pc + 4 ∧ t.me.pend.map (·.atom) = [some r]
              ∧ t.me.port.map (·.at_) = [p]))
    A (.aadd d a b ty h c) .add ty 0 ∧ A (.aand d a b ty h c) .and ty 0 ∧ A (.aor d a b ty h c) .or ty 0 ∧ A (.axor d a b ty h c) .xor ty 0
    ∧ A (.amin d a b ty h c) .min ty 0 ∧ A (.amax d a b ty h c) .max ty 0 ∧ A (.aminn d a b ty h c) .minn ty 0
    ∧ A (.amaxn d a b ty h c) .maxn ty 0 ∧ A (.axchg d a b ty h c) .xchg ty 0 ∧ A (.acas d a b ty h c) .cas ty (s.rs d)
    ∧ A (.afadd d a b h c) .fadd 0 0 ∧ A (.afaddh d a b ty h c) .faddh ty 0 ∧ A (.afmax d a b ty h c) .fmax ty 0

/-- R126, R154, R290 to R292: atomics, on the core's own local memory and by any route.
Clauses that rest on the model's reading of an open point: logs 1, 79. -/
def Obligations.Atomics : Prop := Claims.LocalAtomics ∧ Claims.RoutedAtomics

/-! ## Fences (R122, R131, R132, R293) -/

/-- A fence of a strand with nothing under way is complete when it retires: a `fence` wider than `.core` leaves the core copy empty
with its dirty bytes at home; LBFENC does nothing more; IFENC empties the fetch buffer; EFENC, with no command, message or handover of
the strand under way, drops the clean RC lines. One that must wait stays open, and the strand goes on.
Clauses that rest on the model's reading of an open point: logs 17, 61. -/
def Obligations.Fences : Prop :=
  ∀ (s : State) (h : BitVec 2) (c : BitVec 3),
    (s.Settled →
      (Completes (.fence h 0) s fun t => Retired s t 4) ∧ (Completes (.lbfenc h) s fun t => Retired s t 4)
      ∧ (c ≠ 0 → Completes (.fence h c) s fun t =>
          t.me = s.me.advance 4 ∧ t.myCore.lines = []
          ∧ ∀ a, (∀ l ∈ s.myCore.lines, ¬ (l.1 ≤ a ∧ a < l.1 + 64 ∧ l.2.dirty.getLsbD (a - l.1) = true)) → s.MemWf →
              Memory.read t.mem a = Memory.read s.mem a)
      ∧ (Completes (.ifenc h) s fun t => t.me = { s.me.advance 4 with fbuf := [] } ∧ ∀ l ∈ t.myCore.lines, l.2.dirty = 0)
      ∧ (s.cmds = [] → s.issued = [] → s.net = [] → Completes (.efenc h) s fun t =>
          t.me = s.me.advance 4 ∧ MemKept s t ∧ t.myCore.lines = s.myCore.lines.filter fun l => !(l.2.dirty = 0 && l.2.rc)))
    ∧ (s.me.out ≠ [] →
        let open_ := fun f (t : State) =>
          { t with strands := s.strands, fresh := s.fresh } = s ∧ (∀ n, n ≠ s.cur → t.strand n = s.strand n) ∧ t.fresh = s.fresh + 1
          ∧ t.me = { s.me.advance 4 with fences := s.me.fences ++ [(s.fresh, f)] }
        (∀ o ∈ s.me.out, o.id < s.fresh) → Completes (.fence h c) s (open_ (.fence c)) ∧ Completes (.ifenc h) s (open_ .ifenc))

/-! ## Buffer records (R237, R294) -/

/-- R294: BRLD reads 32 bytes, here of the core's own local memory; BRST posts them; BRCPY copies a record. -/
def Sys2Proof.Claims.RecordMoves : Prop :=
  ∀ (s : State) (d e : BitVec 4) (a : BitVec 5) (h : BitVec 2),
    (s.Settled → inLocal (s.rs a) 32 → (s.rs a).toNat % 32 = 0 →
      Completes (.brld d a h) s fun t => WroteB s t d (BitVec.ofNat 256 (Memory.readN s.mem (s.localHome (s.rs a)) 32)) 4)
    ∧ (∀ ps, s.Settled → s.recParts .load (s.rs a) = .ok ps → (∀ p ∈ ps, s.Takes p ∧ ownPort (coreOf s.cur) p = false) →
        Completes (.brld d a h) s fun t => Touched s t .load ps ∧ Strand.SameButB s.me t.me ∧ (∀ r, r ≠ d → t.rb r = s.rb r)
          ∧ t.rb d = (s.loadBits 0 ps).setWidth 256 ∧ t.me.pc = s.me.pc + 4)
    ∧ (∀ ps, s.Settled → s.recParts .store (s.rs a) = .ok ps →
        (∀ p ∈ ps, ownPort (coreOf s.cur) p = false ∧ special p = false ∧ s.stagingBusy p = false) →
        Completes (.brst d a h) s fun t => Posted s t (ps.map fun p => (p, (s.rb d).extractLsb' p.pos 64)) none)
    ∧ (Completes (.brcpy d e h) s fun t => WroteB s t d (s.rb e) 4)

/-- R237, R294: the fields of a record by their selectors: first bit, width, signedness. BRGETF reads one; BRSETF replaces its bits
alone, and raises cause 0x05 with TVAL holding a value that does not fit. -/
def Sys2Proof.Claims.RecordFields : Prop :=
  ∀ (s : State) (d : BitVec 5) (r : BitVec 4) (a : BitVec 5) (h : BitVec 2),
    ∀ f ∈ ([(0, 0, 56, false), (1, 56, 32, false), (2, 88, 32, true), (3, 120, 32, true), (4, 152, 16, false), (5, 168, 16, false),
            (6, 184, 5, false), (7, 192, 3, false), (8, 195, 3, false), (9, 198, 3, false), (10, 201, 2, false),
            (11, 224, 32, false)] : List (BitVec 5 × Nat × Nat × Bool)),
      let lo := f.2.1
      let n := f.2.2.1
      let v := s.rs a
      let fits := if f.2.2.2 then -(2 ^ (n - 1) : Int) ≤ v.toInt ∧ v.toInt < 2 ^ (n - 1) else v.toNat < 2 ^ n
      (Completes (.brgetf d r f.1 h) s fun t => WroteS s t d
        (if f.2.2.2 then ((s.rb r).extractLsb' lo n).signExtend 64 else ((s.rb r).extractLsb' lo n).setWidth 64) 4)
      ∧ (fits → Completes (.brsetf r a f.1 h) s fun t =>
          ∃ w : BRec, WroteB s t r w 4 ∧ w.extractLsb' lo n = v.setWidth n ∧ ∀ j, (j < lo ∨ lo + n ≤ j) → w.getLsbD j = (s.rb r).getLsbD j)
      ∧ (¬ fits → Raises (.brsetf r a f.1 h) s 0x05 v)

/-- R237, R294: the instructions on buffer records. A clause that rests on the model's reading of an open point: log 43. -/
def Obligations.BufferRecords : Prop := Claims.RecordMoves ∧ Claims.RecordFields

/-! ## Queue registers (R226, R227, R295) -/

/-- R220, R227, R295: a read of a queue register takes its oldest entry; a read of an empty one blocks; QTRY reports instead; a read of a
register that may not be read is misuse, cause 0x0C with TVAL 0; q6 refills from the payload of its firing. -/
def Sys2Proof.Claims.QueueReads : Prop :=
  ∀ (s : State) (d a : BitVec 5) (h : BitVec 2) (n : BitVec 3),
    (s.me.readMisuse n = true → Raises (.qrd d h n) s 0x0C 0 ∧ Raises (.qtry d a h n) s 0x0C 0)
    ∧ (s.me.wait = .none → (n = 3 ∨ n = 4 ∨ n = 5) → s.me.paired = true →
        (∀ v rest, s.me.q.get n.toFin = v :: rest →
          (Completes (.qrd d h n) s fun t => MemKept s t ∧ t.me.q.get n.toFin = rest ∧ (∀ r, r ≠ d → t.rs r = s.rs r)
            ∧ t.rs d = (if d = 0 then 0 else v) ∧ t.me.pc = s.me.pc + 4)
          ∧ (Completes (.qtry d a h n) s fun t => MemKept s t ∧ t.me.q.get n.toFin = rest
            ∧ (∀ r, r ≠ d → r ≠ a → t.rs r = s.rs r) ∧ t.rs a = (if a = 0 then 0 else 1) ∧ (d ≠ a → t.rs d = if d = 0 then 0 else v)
            ∧ t.me.pc = s.me.pc + 4))
        ∧ (s.me.q.get n.toFin = [] →
          (Completes (.qrd d h n) s fun t => OthersKept s t ∧ t.me = { s.me with st := .blocked, wait := .qread n, slow := false })
          ∧ (Completes (.qtry d a h n) s fun t => MemKept s t ∧ (∀ r, r ≠ a → t.rs r = s.rs r) ∧ t.rs a = 0 ∧ t.me.pc = s.me.pc + 4)))
    ∧ (s.me.task.handler.isSome = true → s.me.q.get 6 = [] → Raises (.qrd d h 6) s 0x0C 0)
    ∧ (∀ v rest, s.me.task.handler.isSome = true → s.me.q.get 6 = v :: rest →
        Completes (.qrd d h 6) s fun t => MemKept s t
          ∧ t.me.q.get 6 = rest ++ (s.me.task.words.take (8 - rest.length)).map (s.pword (coreOf s.cur))
          ∧ t.me.task.words = s.me.task.words.drop (8 - rest.length)
          ∧ (∀ r, r ≠ d → t.rs r = s.rs r) ∧ t.rs d = (if d = 0 then 0 else v) ∧ t.me.pc = s.me.pc + 4)

/-- R226, R295: QWR appends to q7, or sends an entry to the partner's queue; it blocks while eight entries stand there; it is misuse
of q3 to q6, of an unpaired strand, and of a full q7. QCNT counts. -/
def Sys2Proof.Claims.QueueWrites : Prop :=
  ∀ (s : State) (d a : BitVec 5) (h : BitVec 2) (n : BitVec 3),
    ((s.me.entries 7).length < 8 → Completes (.qwr a h 7) s fun t => MemKept s t ∧ t.me.q.get 7 = s.me.q.get 7 ++ [s.rs a]
      ∧ (∀ r, t.rs r = s.rs r) ∧ t.me.pc = s.me.pc + 4)
    ∧ ((s.me.entries 7).length ≥ 8 → Raises (.qwr a h 7) s 0x0C 0)
    ∧ (3 ≤ n.toNat → n.toNat ≤ 6 → Raises (.qwr a h n) s 0x0C 0)
    ∧ (n.toNat ≤ 2 → s.me.paired = false → Raises (.qwr a h n) s 0x0C 0)
    ∧ (∀ u, n.toNat ≤ 2 → s.me.paired = true → s.heldFor s.cur = none → s.partnerOf s.cur = some u →
        (s.queueCount s.cur n < 8 → Completes (.qwr a h n) s fun t => MemKept s t ∧ t.me = s.me.advance 4
          ∧ t.net = s.net ++ [⟨s.fresh, s.fresh, s.cur, s.me.partner, u, false, false, none, false, .entry (n + 3) (s.rs a)⟩])
        ∧ (8 ≤ s.queueCount s.cur n → Completes (.qwr a h n) s fun t =>
            OthersKept s t ∧ t.me = { s.me with st := .blocked, wait := .qwrite n, slow := false }))
    ∧ (Completes (.qcnt d h n) s fun t => MemKept s t ∧ (∀ r, r ≠ d → t.rs r = s.rs r)
        ∧ t.rs d = (if d = 0 then 0 else BitVec.ofNat 64 (s.queueCount s.cur n)) ∧ t.me.pc = s.me.pc + 4)

/-- R226, R295: QPAIR names a partner when its operand resolves, the rank is not in transit and no queue of the strand holds an entry; its
own rank ends the pairing. An operand that does not resolve raises cause 0x05 with TVAL holding it. -/
def Sys2Proof.Claims.QueuePairing : Prop :=
  ∀ (s : State) (a : BitVec 5) (h : BitVec 2),
    let p := s.partOf s.cur
    (s.resolve (coreOf s.cur) p (s.rs a) = none → Raises (.qpair a h) s 0x05 (s.rs a))
    ∧ (∀ rk e, s.resolve (coreOf s.cur) p (s.rs a) = some (rk, e) → entryState e = 1 →
        (∀ n < 6, s.queueCount s.cur (BitVec.ofNat 3 n) = 0 ∧ (s.me.q.toList.getD n []).length = 0) →
        Completes (.qpair a h) s fun t => MemKept s t ∧ (∀ r, t.rs r = s.rs r) ∧ t.me.pc = s.me.pc + 4
          ∧ (rk = s.me.rank → t.me.partner = none ∧ t.me.paired = false) ∧ (rk ≠ s.me.rank → t.me.partner = some rk))

/-- R226, R227, R295: the queue registers. Clauses that rest on the model's reading of an open point: logs 30, 37, 95. -/
def Obligations.QueueRegisters : Prop := Claims.QueueReads ∧ Claims.QueueWrites ∧ Claims.QueuePairing

/-! ## Vector instructions (R263 to R280) -/

/-- R268: the integer functions complete lane by lane for every type and mask; VABS and VNEG of an unsigned type, a compare into a vd above
7, and a vb in the unary functions make a word illegal; the word of R268. -/
def Obligations.VectorIntegers : Prop :=
  (∀ (s : State) (d a b : BitVec 5) (m ty : BitVec 3),
    let w := vBits ty
    let k := s.rk m
    let x := fun i => vlane (s.rv a) w i
    let y := fun i => vlane (s.rv b) w i
    let signed := ty.toNat < 4
    let val := fun (v : BitVec w) => if signed then v.toInt else (v.toNat : Int)
    let lo : Int := if signed then -(2 ^ (w - 1)) else 0
    let hi : Int := if signed then 2 ^ (w - 1) - 1 else 2 ^ w - 1
    let sat := fun (v : Int) => BitVec.ofInt w (if v < lo then lo else if hi < v then hi else v)
    let L := fun n (g : (i : Nat) → BitVec w) => Completes n s fun t => LanesMerged s t d w k 0 g
    L (.vadd d a b m ty) (fun i => x i + y i) ∧ L (.vsub d a b m ty) (fun i => x i - y i) ∧ L (.vmul d a b m ty) (fun i => x i * y i)
    ∧ L (.vmulh d a b m ty) (fun i => BitVec.ofInt w (val (x i) * val (y i) / 2 ^ w))
    ∧ L (.vmin d a b m ty) (fun i => if val (x i) ≤ val (y i) then x i else y i)
    ∧ L (.vmax d a b m ty) (fun i => if val (x i) ≤ val (y i) then y i else x i)
    ∧ L (.vand d a b m ty) (fun i => x i &&& y i) ∧ L (.vor d a b m ty) (fun i => x i ||| y i) ∧ L (.vxor d a b m ty) (fun i => x i ^^^ y i)
    ∧ L (.vshl d a b m ty) (fun i => x i <<< ((y i).toNat % w)) ∧ L (.vshr d a b m ty) (fun i => x i >>> ((y i).toNat % w))
    ∧ L (.vsha d a b m ty) (fun i => (x i).sshiftRight ((y i).toNat % w))
    ∧ (signed → L (.vabs d a m ty) (fun i => if (x i).toInt < 0 then - x i else x i) ∧ L (.vneg d a m ty) (fun i => - x i))
    ∧ L (.vadds d a b m ty) (fun i => sat (val (x i) + val (y i))) ∧ L (.vsubs d a b m ty) (fun i => sat (val (x i) - val (y i)))
    ∧ (Completes (.vsel d a b m ty) s fun t => LanesWritten s t d w 0 fun i => if k.getLsbD i then x i else y i)
    ∧ ∀ e : BitVec 3,
      (Completes (.vcmpeq e a b m ty) s fun t => BitsWritten s t e (512 / w) k 0 fun i => x i = y i)
      ∧ (Completes (.vcmplt e a b m ty) s fun t => BitsWritten s t e (512 / w) k 0 fun i => val (x i) < val (y i))
      ∧ (Completes (.vcmple e a b m ty) s fun t => BitsWritten s t e (512 / w) k 0 fun i => val (x i) ≤ val (y i)))
  ∧ (∀ w : IWord, w.extractLsb' 26 6 = 0x26 →
      let fn := (w.extractLsb' 3 5).toNat
      (fn = 12 ∨ fn = 13 → 3 < (w.extractLsb' 0 3).toNat ∨ w.extractLsb' 11 5 ≠ 0 → Claims.Illegal w)
      ∧ (16 ≤ fn → fn ≤ 18 → 7 < (w.extractLsb' 21 5).toNat → Claims.Illegal w))
  ∧ ∀ x, decode 0x98221870 x = .ok (.vadds 1 2 3 0 0)

/-- R266, R267, R269, R272: the float functions on types f32, f16 and bf16: each active lane is flushed in, computed once, flushed out;
the flags of the active lanes are ORed into FCTL, or trap when enabled. -/
def Sys2Proof.Claims.FloatArithmetic : Prop :=
  ∀ (s : State) (d a b : BitVec 5) (m ty : BitVec 3),
    ty.toNat ≤ 2 →
    let w := vfBits ty
    let f := vFmt ty
    let k := s.rk m
    let rm := s.me.rm
    let x := fun i => s.flane ty (s.rv a) i
    let y := fun i => s.flane ty (s.rv b) i
    let z := fun i => s.flane ty (s.rv d) i
    let L := fun n (g : Nat → Nat × Flags) =>
      FlagsOrTrap n s (activeFlags (512 / w) k fun i => (f.flushOut s.me.ftz (g i)).2) fun t =>
        LanesMerged s t d w k (activeFlags (512 / w) k fun i => (f.flushOut s.me.ftz (g i)).2)
          fun i => BitVec.ofNat w (f.flushOut s.me.ftz (g i)).1
    let sum := fun (p q : FV) => f.rounded rm (FV.add rm p q)
    L (.vfadd d a b m ty) (fun i => sum (f.value (x i)) (f.value (y i)))
    ∧ L (.vfsub d a b m ty) (fun i => sum (f.value (x i)) (f.value (y i)).neg)
    ∧ L (.vfmul d a b m ty) (fun i => f.rounded rm ((f.value (x i)).mul (f.value (y i))))
    ∧ L (.vfma d a b m ty) (fun i => f.fused rm false false (x i) (y i) (z i))
    ∧ L (.vfms d a b m ty) (fun i => f.fused rm false true (x i) (y i) (z i))
    ∧ L (.vfnma d a b m ty) (fun i => f.fused rm true false (x i) (y i) (z i))
    ∧ L (.vfrcp d a m ty) (fun i => f.seedRcp (x i)) ∧ L (.vfrsq d a m ty) (fun i => f.seedRsq (x i))

/-- R267, R269 to R271: the float functions every float type has: minimum and maximum, the sign bit functions, the class and the compares;
VFCEQ raises nothing. -/
def Sys2Proof.Claims.FloatSelection : Prop :=
  ∀ (s : State) (d a b : BitVec 5) (m ty e : BitVec 3),
    ty.toNat ≤ 4 →
    let w := vfBits ty
    let f := vFmt ty
    let k := s.rk m
    let n := 512 / w
    let x := fun i => s.flane ty (s.rv a) i
    let y := fun i => s.flane ty (s.rv b) i
    let top : BitVec w := 1#w <<< (w - 1)
    let L := fun i (g : Nat → Nat × Flags) =>
      FlagsOrTrap i s (activeFlags n k fun i => (f.flushOut s.me.ftz (g i)).2) fun t =>
        LanesMerged s t d w k (activeFlags n k fun i => (f.flushOut s.me.ftz (g i)).2) fun i => BitVec.ofNat w (f.flushOut s.me.ftz (g i)).1
    let sig := activeFlags n k fun i => (f.value (x i)).sig ||| (f.value (y i)).sig
    let num := fun i => (f.value (x i)).isNan = false ∧ (f.value (y i)).isNan = false
    L (.vfmin d a b m ty) (fun i => f.pick false (x i) (y i)) ∧ L (.vfmax d a b m ty) (fun i => f.pick true (x i) (y i))
    ∧ (Completes (.vfabs d a m ty) s fun t => LanesMerged s t d w k 0 fun i => vlane (s.rv a) w i &&& ~~~top)
    ∧ (Completes (.vfneg d a m ty) s fun t => LanesMerged s t d w k 0 fun i => vlane (s.rv a) w i ^^^ top)
    ∧ (Completes (.vfclass d a m ty) s fun t => LanesMerged s t d w k 0 fun i => BitVec.ofNat w (f.classOf (vlane (s.rv a) w i).toNat))
    ∧ (Completes (.vfceq e a b m ty) s fun t => BitsWritten s t e n k 0 fun i =>
        num i ∧ (f.value (x i)).lt (f.value (y i)) = false ∧ (f.value (y i)).lt (f.value (x i)) = false)
    ∧ (FlagsOrTrap (.vfclt e a b m ty) s sig fun t => BitsWritten s t e n k sig fun i => num i ∧ (f.value (x i)).lt (f.value (y i)) = true)
    ∧ (FlagsOrTrap (.vfcle e a b m ty) s sig fun t => BitsWritten s t e n k sig fun i => num i ∧ (f.value (y i)).lt (f.value (x i)) = false)

/-- R266, R267, R269 to R272: the vector float functions. -/
def Obligations.VectorFloats : Prop := Claims.FloatArithmetic ∧ Claims.FloatSelection

/-- R273: VCVT converts each active element of the low min(64, 512 / wider) ones, keeps the others of that range, and clears the bits
above it. Clauses that rest on the model's reading of an open point: logs 13, 14. -/
def Obligations.VectorConvert : Prop :=
  ∀ (s : State) (d a : BitVec 5) (b g : BitVec 5) (m r : BitVec 3),
    cvtFormat b = true → cvtFormat g = true → r.toNat ≤ 6 →
    let sw := fmtBits b.toNat
    let dw := fmtBits g.toNat
    let n := min 64 (512 / max sw dw)
    let k := s.rk m
    let c := fun (i : Nat) => if r = 6 then Conv.keyed (s.rs 30) (s.rs 31 + BitVec.ofNat 64 i) else .rm (s.me.rounding r)
    let out := fun i => flushOutCode g.toNat s.me.ftz (convert (flushInCode b.toNat s.me.ftz (lane (s.rv a) sw i)) b.toNat g.toNat (c i))
    let fl := activeFlags n k fun i => (out i).2
    FlagsOrTrap (.vcvt d a b m g r) s fl fun t =>
      ∃ v, WroteV s t d v fl 4
        ∧ (∀ i < n, vlane v dw i = if k.getLsbD i then BitVec.ofNat dw (out i).1 else vlane (s.rv d) dw i)
        ∧ ∀ j, n * dw ≤ j → v.getLsbD j = false

/-- R275: the block functions: one slot quantised or dequantised with its scale byte, two packed registers added block by block, the
scales stepped within 0 to 254. -/
def Obligations.VectorBlocks : Prop :=
  ∀ (s : State) (d a b : BitVec 5) (k ty : BitVec 3),
    k ≠ 0 → ty.toNat ≤ 5 →
    let ef := blkElem ty
    let w := fmtBits ef
    let scale := fun (v : Word) j => v.extractLsb' (8 * j) 8
    let q := quantise16 ((List.range 16).map fun i => fF32.value (fF32.flushIn s.me.ftz (lane (s.rv a) 32 i))) ef
    let dq := fun i => fF32.flushOut s.me.ftz (fF32.round 1 (blockValue ef (lane (s.rv a) w (16 * b.toNat + i)) (scale (s.rk k) b.toNat).toNat))
    let add := fun j => blockAdd ef (s.rv d) (s.rv a) (s.rk k) (s.rk (k + 1)) j
    let addFl := (List.range (blockSlots ty)).foldl (fun (x : Flags) j => x ||| (add j).2.2) 0
    let step := fun j => scaleStep (scale (s.rk k) j).toNat (s.rs a).toInt
    let stepFl := (List.range (blockSlots ty)).foldl (fun (x : Flags) j => x ||| (step j).2) 0
    (b.toNat < blockSlots ty →
      (FlagsOrTrap (.vqblk d a b k ty) s q.2.2 fun t =>
        MemKept s t ∧ t.me.pc = s.me.pc + 4 ∧ (∀ r, r ≠ d → t.rv r = s.rv r) ∧ (∀ r, r ≠ k → t.rk r = s.rk r)
        ∧ (∀ i < 512 / w, vlane (t.rv d) w i = if i / 16 = b.toNat then BitVec.ofNat w (q.2.1.getD (i % 16) 0) else vlane (s.rv d) w i)
        ∧ (∀ j < 8, scale (t.rk k) j = if j = b.toNat then BitVec.ofNat 8 q.1 else scale (s.rk k) j))
      ∧ (FlagsOrTrap (.vdqblk d a b k ty) s ((List.range 16).foldl (fun (x : Flags) i => x ||| (dq i).2) 0) fun t =>
        LanesWritten s t d 32 ((List.range 16).foldl (fun (x : Flags) i => x ||| (dq i).2) 0) fun i => BitVec.ofNat 32 (dq i).1))
    ∧ (k.toNat ≤ 6 → FlagsOrTrap (.vbaddq d a k ty) s addFl fun t =>
        MemKept s t ∧ t.me.pc = s.me.pc + 4 ∧ (∀ r, r ≠ d → t.rv r = s.rv r) ∧ (∀ r, r ≠ k → t.rk r = s.rk r)
        ∧ (∀ j < blockSlots ty, ∀ e < 16, vlane (t.rv d) w (16 * j + e) = BitVec.ofNat w ((add j).2.1.getD e 0))
        ∧ (∀ j < 8, scale (t.rk k) j = if j < blockSlots ty then BitVec.ofNat 8 (add j).1 else scale (s.rk k) j))
    ∧ (FlagsOrTrap (.vbscal a k ty) s stepFl fun t =>
        ∃ v, WroteK s t k v stepFl 4
          ∧ ∀ j < 8, scale v j = if j < blockSlots ty then BitVec.ofNat 8 (step j).1 else scale (s.rk k) j)

/-- R276, R279, R280: the transfer functions and VRAND complete with the lanes of their rules; VLIVE makes the registers it does not name
read zero. A mask in VEXT or VINS, a vb where none is taken, and a VRAND of another type than n32 make a word illegal; the word of R279. -/
def Obligations.VectorTransfers : Prop :=
  (∀ (s : State) (d a b : BitVec 5) (m ty : BitVec 3),
    let w := vBits ty
    let n := 512 / w
    let k := s.rk m
    let x := fun i => vlane (s.rv a) w i
    let j := (s.rs b).toNat % n
    let act := (List.range n).filter fun i => k.getLsbD i
    let L := fun n (g : (i : Nat) → BitVec w) => Completes n s fun t => LanesMerged s t d w k 0 g
    L (.vbcast d a m ty) (fun _ => (s.rs a).setWidth w) ∧ L (.vmov d a m ty) x
    ∧ L (.viota d a m ty) (fun i => (s.rs a).setWidth w + BitVec.ofNat w i)
    ∧ L (.vperm d a b m ty) (fun i => x ((vlane (s.rv b) w i).toNat % n))
    ∧ L (.vslide d a b m ty) (fun i => if 0 ≤ i + (s.rs b).toInt ∧ i + (s.rs b).toInt < n then x (i + (s.rs b).toInt).toNat else 0)
    ∧ L (.vexpd d a m ty) (fun i => x ((act.filter (· < i)).length))
    ∧ (Completes (.vext d a b ty) s fun t => WroteS s t d (if ty.toNat < 4 then (x j).signExtend 64 else (x j).setWidth 64) 4)
    ∧ (Completes (.vins d a b ty) s fun t => LanesWritten s t d w 0 fun i => if i = j then (s.rs a).setWidth w else vlane (s.rv d) w i)
    ∧ (Completes (.vcomp d a b m ty) s fun t =>
        MemKept s t ∧ t.me.pc = s.me.pc + 4 ∧ (∀ r, r ≠ d → t.rv r = s.rv r) ∧ (∀ r, r ≠ b → t.rs r = s.rs r)
        ∧ t.rs b = (if b = 0 then 0 else BitVec.ofNat 64 act.length)
        ∧ ∀ i < n, vlane (t.rv d) w i = if h : i < act.length then x act[i] else 0)
    ∧ (Completes (.vrand d a b m) s fun t => LanesMerged s t d 32 k 0 fun i => (m64 (s.rs a) (s.rs b + BitVec.ofNat 64 i)).extractLsb' 32 32)
    ∧ (Completes (.vlive a) s fun t => OthersKept s t ∧ t.me = { s.me.advance 4 with dead := t.me.dead, tags := t.me.tags }
        ∧ (∀ q id, (q, id) ∈ t.me.tags ↔ (q, id) ∈ s.me.tags ∧ ∀ r : BitVec 5, q = .v r → (s.rs a).getLsbD r.toNat = true)
        ∧ (∀ r : BitVec 5, t.rv r = if (s.rs a).getLsbD r.toNat then s.rv r else 0)))
  ∧ (∀ w : IWord,
      let fn := (w.extractLsb' 3 5).toNat
      (w.extractLsb' 26 6 = 0x2A → fn = 1 ∨ fn = 2 → w.extractLsb' 8 3 ≠ 0 → Claims.Illegal w)
      ∧ (w.extractLsb' 26 6 = 0x2A → fn = 0 ∨ fn = 5 ∨ fn = 6 ∨ fn = 8 → w.extractLsb' 11 5 ≠ 0 → Claims.Illegal w)
      ∧ (w.extractLsb' 26 6 = 0x2D → fn = 0 → w.extractLsb' 0 3 ≠ 6 → Claims.Illegal w))
  ∧ ∀ x, decode 0xB4242806 x = .ok (.vrand 1 4 5 0)

/-- R277: integer reductions and the scan. -/
def Sys2Proof.Claims.IntegerReductions : Prop :=
  ∀ (s : State) (d a : BitVec 5) (m ty : BitVec 3),
    let w := vBits ty
    let k := s.rk m
    let act := (List.range (512 / w)).filter fun i => k.getLsbD i
    let val := fun i => if ty.toNat < 4 then (vlane (s.rv a) w i).toInt else ((vlane (s.rv a) w i).toNat : Int)
    let lo : Int := if ty.toNat < 4 then -(2 ^ (w - 1)) else 0
    let hi : Int := if ty.toNat < 4 then 2 ^ (w - 1) - 1 else 2 ^ w - 1
    (Completes (.vredadd d a m ty) s fun t => WroteS s t d (BitVec.ofInt 64 (act.map val).sum) 4)
    ∧ (∃ g : Int, ((act = [] ∧ g = lo) ∨ (∃ i ∈ act, val i = g ∧ ∀ j ∈ act, val j ≤ g)) ∧
        Completes (.vredmax d a m ty) s fun t => WroteS s t d (BitVec.ofInt 64 g) 4)
    ∧ (∃ g : Int, ((act = [] ∧ g = hi) ∨ (∃ i ∈ act, val i = g ∧ ∀ j ∈ act, g ≤ val j)) ∧
        Completes (.vredmin d a m ty) s fun t => WroteS s t d (BitVec.ofInt 64 g) 4)
    ∧ (Completes (.vscanadd d a m ty) s fun t => LanesWritten s t d w 0 fun i =>
        (((List.range (i + 1)).filter fun j => k.getLsbD j).map fun j => vlane (s.rv a) w j).foldl (· + ·) 0)

/-- R108, R109, R277: the float reductions run their tree, and the scan its prefix, over the widened lanes, an inactive lane as the
identity; the flags of every step are ORed. -/
def Sys2Proof.Claims.FloatReductions : Prop :=
  ∀ (s : State) (d a : BitVec 5) (m ty : BitVec 3),
    ty.toNat ≤ 2 →
    let n := 512 / vfBits ty
    let lanes := fun ident => (List.range n).map fun i => s.widened a m ty ident i
    let R := fun i ident (f : Nat → Nat → Nat × Flags) =>
      let r := fred f (if n = 16 then 4 else 5) ((lanes ident).map (·.1))
      let fl := laneFlags (lanes ident) ||| r.2
      FlagsOrTrap i s fl fun t => MemKept s t ∧ (∀ q, q ≠ d → t.rs q = s.rs q) ∧ t.rs d = (if d = 0 then 0 else BitVec.ofNat 64 r.1)
        ∧ t.me.pc = s.me.pc + 4 ∧ t.me.csr.fctl = s.me.csr.fctl ||| fl.setWidth 64
    R (.vfredadd d a m ty) 0x80000000 s.me.addF32 ∧ R (.vfredmax d a m ty) 0xFF800000 s.me.maxF32
    ∧ (∀ x l, lanes 0x80000000 = x :: l →
        let ps := (x.1, 0) :: scanF32 s.me.addF32 x.1 (l.map (·.1))
        let out := ps.map fun p => (vFmt ty).flushOut s.me.ftz ((vFmt ty).round s.me.rm (fF32.value p.1))
        let fl := laneFlags (lanes 0x80000000) ||| laneFlags ps ||| laneFlags out
        FlagsOrTrap (.vfscanadd d a m ty) s fl fun t =>
          LanesWritten s t d (vfBits ty) fl fun i => BitVec.ofNat (vfBits ty) (out.map (·.1))[i]!)

/-- R108, R109, R277: the reductions and scans. A clause that rests on the model's reading of an open point: log 15. -/
def Obligations.VectorReductions : Prop := Claims.IntegerReductions ∧ Claims.FloatReductions

/-- R278: the mask functions complete for all operands with the values of the table; a k field above 7, a vb that must be zero, and a
mask or type field that is not zero make a word illegal. -/
def Obligations.MaskOperations : Prop :=
  (∀ (s : State) (d a b : BitVec 3) (e : BitVec 5),
    let x := s.rk a
    let y := s.rk b
    let K := fun n (w : Word) => Completes n s fun t => WroteK s t d w 0 4
    K (.kand d a b) (x &&& y) ∧ K (.kor d a b) (x ||| y) ∧ K (.kxor d a b) (x ^^^ y) ∧ K (.knot d a) (~~~x) ∧ K (.kmov d a) x
    ∧ (Completes (.kget e a) s fun t => WroteS s t e x 4)
    ∧ (Completes (.kpopc e a) s fun t => WroteS s t e (BitVec.ofNat 64 (((List.range 64).map fun j => (x.getLsbD j).toNat).sum)) 4)
    ∧ (∃ n ≤ 64, (Completes (.kfirst e a) s fun t => WroteS s t e (BitVec.ofNat 64 n) 4)
        ∧ (∀ j < n, x.getLsbD j = false) ∧ (n < 64 → x.getLsbD n = true)))
  ∧ ∀ w : IWord, w.extractLsb' 26 6 = 0x2C →
      let fn := (w.extractLsb' 3 5).toNat
      (w.extractLsb' 8 3 ≠ 0 ∨ w.extractLsb' 0 3 ≠ 0 → Claims.Illegal w)
      ∧ (7 < (w.extractLsb' 16 5).toNat ∨ (fn < 5 ∧ 7 < (w.extractLsb' 21 5).toNat) ∨ (fn < 3 ∧ 7 < (w.extractLsb' 11 5).toNat) → Claims.Illegal w)
      ∧ (3 ≤ fn → w.extractLsb' 11 5 ≠ 0 → Claims.Illegal w)

/-! ## Tasks (R322 to R330) -/

/-- R209, R323: FORK checks its completion word and its code address; it waits until the strand is released; then it takes the next
ordinal and hands one record to the core of R210; it retires once its records for its own core have entered (R211). No register changes, and
no byte but those a write-back moves or a full queue puts into the spill area. That a local completion word means the cell of the issuing
core is the model's reading: log 12; where a spilled record stands: log 52. -/
def Obligations.Forks : Prop :=
  ∀ (s : State) (d a b : BitVec 5) (h p : BitVec 2),
    let x := s.me
    let cw := s.rs d
    let code := s.rs a
    let core := coreOf s.cur
    let path := x.childPath x.task.ordinal
    let home := s.forkCore (s.partOf s.cur) core path
    let okCode := code.extractLsb' 0 2 = 0 ∧ code.extractLsb' 56 8 = 0
    let okCw := s.checkCw core (s.partOf s.cur) cw = none ∧ (cwRemote cw = true → s.namesOrdered (s.partOf s.cur) core cw = false)
    let F := fun i prio =>
      (cw.extractLsb' 30 34 ≠ 0 → Raises i s 0x0B cw)
      ∧ (cw.extractLsb' 30 34 = 0 → ¬ okCode → Raises i s 0x03 code)
      ∧ (okCode → okCw → ¬ s.Released → Waits i s)
      ∧ (okCode → okCw → s.Released → Completes i s fun t =>
          ∃ r : TRec, Handed s t home r ∧ r.code = code ∧ r.frame = s.rs b ∧ r.level = x.level ∧ r.prio = prio ∧ r.cw = cw.extractLsb' 0 30
            ∧ r.cwCore = core ∧ r.path = path ∧ r.a0 = 0 ∧ r.a1 = 0 ∧ r.a2 = 0 ∧ r.a3 = 0
            ∧ t.me.task.ordinal = x.task.ordinal + 1 ∧ (∀ r, t.rs r = s.rs r) ∧ TaskSynced s t
            ∧ (t.spawnHeld s.cur = false → t.me.pc = x.pc + 4) ∧ (t.spawnHeld s.cur = true → t.me.pc = x.pc ∧ t.me.wait = .spawn 4))
    F (.fork d a b h) x.task.prio ∧ F (.forkP d a b h p) p

/-- R215, R324: DONE of n words. It is misuse with n above 8 or above what q7 holds, with an entry left in q3 to q5, or with words and no
completion word; it waits for the strand's commands, its instructions that wait for a value, and its release; then the strand is idle with
q7 empty, and a local cell of its core takes a decrement of 1 with the words, which stand in the core where they find room there and
nothing the strand sent waits. Clauses that rest on the model's reading of an open point: logs 23, 52. -/
def Obligations.TaskEnd : Prop :=
  ∀ (s : State) (n : BitVec 5) (h : BitVec 2),
    let x := s.me
    let cw : Word := x.task.cw.setWidth 64
    let bad := 8 < n.toNat ∨ (x.q.get 7).length < n.toNat ∨ x.q.get 3 ≠ [] ∨ x.q.get 4 ≠ [] ∨ x.q.get 5 ≠ [] ∨ (n ≠ 0 ∧ cwValid cw = false)
    let core := coreOf s.cur
    let j := (cwCell cw).toNat
    (bad → Raises (.done n h) s 0x0C 0)
    ∧ (¬ bad → cwValid cw = true → s.cwGone cw = true → Raises (.done n h) s 0x05 cw)
    ∧ (¬ bad → (cwValid cw = true → s.cwGone cw = false) →
        ((∃ c ∈ s.cmds, c.by_ = s.cur) ∨ x.held ≠ [] ∨ ¬ s.Released → Waits (.done n h) s)
        ∧ ((∀ c ∈ s.cmds, c.by_ ≠ s.cur) → x.held = [] → s.Released → Completes (.done n h) s fun t =>
            t.me.st = .idle ∧ t.me.q.get 7 = [] ∧ t.me.fbuf = [] ∧ t.me.task.cw = 0 ∧ t.me.task.words = []
            ∧ (x.task.role = .none → x.tag = none → cwValid cw = false →
                (∀ r, t.rs r = s.rs r) ∧ MemSynced s t ∧ t.cells = s.cells ∧ t.net = s.net ∧ ∀ m, m ≠ s.cur → t.strand m = s.strand m)
            ∧ (x.task.role = .none → x.tag = none → cwValid cw = true → cwRemote cw = false → x.task.cwCore = core →
                (∀ m ∈ s.net, m.sender ≠ s.cur) → (s.payloadOf core).length + n.toNat ≤ 512 → 1 < (s.cell core j).count.toNat →
                (∀ r, t.rs r = s.rs r) ∧ MemSynced s t ∧ (t.cell core j).count = (s.cell core j).count - 1
                ∧ ((t.cell core j).arrivals.map (·.words)).flatten
                    = ((s.cell core j).arrivals.map (·.words)).flatten ++ ((x.q.get 7).take n.toNat).map fun w => ⟨w, none⟩)))

/-- R205, R324, R327 to R329: YIELD, SELF, JCRD, JCWAIT and GATE. -/
def Obligations.TaskControl : Prop :=
  ∀ (s : State) (d a : BitVec 5) (h : BitVec 2) (sc : BitVec 3),
    let w := s.rs a
    let core := coreOf s.cur
    let j := (w.extractLsb' 0 12).toNat
    let c := s.cell core j
    let field : Word := match sc.toNat with
      | 0 => (bit c.parked <<< 35) ||| (bit c.failed <<< 34) ||| (bit c.reinit <<< 33) ||| (bit c.ordered <<< 32) ||| c.count.setWidth 64
      | 1 => c.code
      | 2 => c.frame
      | _ => (BitVec.ofNat 64 c.arrivals.length <<< 32) ||| c.initial.setWidth 64
    (s.waitsForRoom core → Completes (.yield h) s fun t =>
      RegsKept s t ∧ MemKept s t ∧ (∀ m, m ≠ s.cur → t.strand m = s.strand m) ∧ t.me.resident = false ∧ t.me.pc = s.me.pc + 4)
    ∧ (¬ s.waitsForRoom core → Completes (.yield h) s fun t => Retired s t 4)
    ∧ (w.extractLsb' 12 52 ≠ 0 → Raises (.self d a h) s 0x0B w ∧ Raises (.jcrd d a h sc) s 0x0B w ∧ Raises (.jcwait a h) s 0x0B w)
    ∧ (w.extractLsb' 12 52 = 0 →
        (Completes (.self d a h) s fun t => WroteS s t d ((s.me.rank.setWidth 64 <<< 14) ||| (1 <<< 13) ||| (1 <<< 12) ||| w) 4)
        ∧ (Completes (.jcrd d a h sc) s fun t => WroteS (s.event 0) t d field 4)
        ∧ (c.reinit = true → Raises (.jcwait a h) s 0x0B w)
        ∧ (c.reinit = false → c.count = 0 → Completes (.jcwait a h) s fun t =>
            MemKept s t ∧ t.me = s.me.advance 4 ∧ (∀ m, m ≠ s.cur → t.strand m = s.strand m)
            ∧ ∀ l, l ∈ t.myCore.lines ↔ l ∈ s.myCore.lines ∧ l.2.dirty ≠ 0)
        ∧ (c.reinit = false → c.count ≠ 0 → Completes (.jcwait a h) s fun t =>
            MemKept s t ∧ t.me = { s.me with st := .parked, wait := .cell core (w.extractLsb' 0 12) } ∧ t.cell core j = { c with parked := true }
            ∧ ∀ m, m ≠ s.cur → t.strand m = s.strand m))
    ∧ (Completes (.gate h) s fun t =>
        MemKept s t ∧ t.me = s.me.advance 4 ∧ (∀ m, m ≠ s.cur → t.strand m = s.strand m) ∧ t.myCore = { s.myCore with gateReq := true }
        ∧ ∀ m, m ≠ core → t.core m = s.core m)

/-- R218, R325: JCINIT arms a cell no strand is parked on and no payload has reached, with no handler or with the handler of a block,
here one of the core's own local memory; the forced form asks for level 1 and takes the cell whatever it holds. Every other cell, every
register and every byte stays. -/
def Sys2Proof.Claims.CellInit : Prop :=
  ∀ (s : State) (d a b : BitVec 5) (h : BitVec 2),
    let dj := s.rs d
    let n := s.rs a
    let hd := s.rs b
    let core := coreOf s.cur
    let j := dj.extractLsb' 0 12
    let c := s.cell core j.toNat
    let clear := c.parked = false ∧ c.arrivals = []
    let alone := ∀ t, ¬ ((s.strand t).wait = .cell core j
      ∧ ((s.strand t).st = .parked ∨ ((s.strand t).st = .moving ∧ (s.strand t).rest = .parked)))
    let code := BitVec.ofNat 64 (Memory.readN s.mem (s.localHome hd) 8)
    let frame := BitVec.ofNat 64 (Memory.readN s.mem (s.localHome hd + 8) 8)
    let I := fun i (code frame : Word) => Completes i s fun t =>
      t.cell core j.toNat =
        { count := n.extractLsb' 0 32, initial := n.extractLsb' 0 32, ordered := dj.getLsbD 12, reinit := dj.getLsbD 13, failed := false,
          parked := false, code := code, frame := frame, arrivals := [], spawned := 0, next := 0, hpath := s.me.task.path,
          hord := s.me.task.ordinal, firing := 0, launches := s.me.task.launches }
      ∧ (∀ k, k ≠ cellKey core j.toNat → t.cells.get .zero k = s.cells.get .zero k) ∧ MemKept s t
      ∧ (∀ m, m ≠ s.cur → t.strand m = s.strand m)
      ∧ t.me = { s.me.advance 4 with task := { s.me.task with ordinal := s.me.task.ordinal + 1 } }
    (dj.extractLsb' 14 50 ≠ 0 ∨ n.extractLsb' 32 32 ≠ 0 → Raises (.jcinit d a b h) s 0x0B s.ir)
    ∧ (s.me.level = 0 → Raises (.jcinitForce d a b h) s 0x02 s.ir)
    ∧ (dj.extractLsb' 14 50 = 0 → n.extractLsb' 32 32 = 0 →
        (hd = 0 → clear → I (.jcinit d a b h) 0 0) ∧ (hd = 0 → s.me.level ≠ 0 → alone → I (.jcinitForce d a b h) 0 0)
        ∧ (s.Settled → hd ≠ 0 → inLocal hd 16 → hd.toNat % 16 = 0 → code.extractLsb' 56 6 = 0 → code.extractLsb' 62 2 ≠ 3 →
            (code.extractLsb' 62 2).toNat ≤ s.me.level.toNat →
            (clear → I (.jcinit d a b h) code frame) ∧ (s.me.level ≠ 0 → alone → I (.jcinitForce d a b h) code frame))
        ∧ (hd ≠ 0 → hd.toNat % 16 ≠ 0 → Raises (.jcinit d a b h) s 0x03 hd))

/-- R218, R326: JCDEC of a local cell. A decrement that leaves a count lowers it; one that brings it to 0 fires the cell, which is armed
again when it reinits; one that meets 0 is dropped and fails the cell unless it is a decrement of 0. The n oldest words of q7 go with
it; where they find no room it waits at the network interface (R220). `alone`: nothing the strand sent is under way, so that nothing of
its goes first (R29). A decrement of a remote cell is a message to its rank. -/
def Sys2Proof.Claims.CellDecrement : Prop :=
  ∀ (s : State) (d a n : BitVec 5) (h : BitVec 2),
    let x := s.me
    let cw := s.rs d
    let amt := s.rs a
    let core := coreOf s.cur
    let j := (cwCell cw).toNat
    let c := s.cell core j
    let ws := (x.q.get 7).take n.toNat
    let alone := ∀ m ∈ s.net, m.sender ≠ s.cur
    (∀ e, s.checkCw core (s.partOf s.cur) cw = some e → Raises (.jcdec d a n h) s e.cause e.val)
    ∧ (cw = 0 → Raises (.jcdec d a n h) s 0x0B cw)
    ∧ (s.checkCw core (s.partOf s.cur) cw = none → cw ≠ 0 → amt.toNat < 256 →
        (8 < n.toNat ∨ (x.q.get 7).length < n.toNat → Raises (.jcdec d a n h) s 0x0C 0)
        ∧ (n.toNat ≤ 8 → n.toNat ≤ (x.q.get 7).length →
            (¬ s.Released → Waits (.jcdec d a n h) s)
            ∧ (s.Released → cwRemote cw = false → alone → s.payloadRoom core n.toNat = false → c.count ≠ 0 →
                Completes (.jcdec d a n h) s fun t =>
                  (∃ m : Msg, t.net = s.net ++ [m] ∧ m.rank = none ∧ m.dest = core * 16 ∧ m.sender = s.cur ∧ m.counted = false
                    ∧ m.body = .decrement (cwCell cw) (amt.extractLsb' 0 8) ws none false)
                  ∧ (∀ r, t.rs r = s.rs r) ∧ MemSynced s t ∧ t.cells = s.cells ∧ t.me.pc = x.pc + 4)
            ∧ (s.Released → cwRemote cw = false → alone → s.payloadRoom core n.toNat = true → Completes (.jcdec d a n h) s fun t =>
                (∀ r, t.rs r = s.rs r)
                ∧ (amt.toNat < c.count.toNat → t.me = { x.advance 4 with q := x.q.set 7 ((x.q.get 7).drop n.toNat) } ∧ TaskSynced s t
                    ∧ (∃ ps : List PWord, ps.length = ws.length ∧ ((s.payloadOf core).length + n.toNat ≤ 512 → ps = ws.map fun w => ⟨w, none⟩)
                      ∧ t.cell core j = { c with count := c.count - amt.setWidth 32,
                                                 arrivals := if ws = [] then c.arrivals else c.arrivals ++ [⟨ps, none, s.cur⟩] }))
                ∧ (c.count = 0 → t.cell core j = { c with failed := c.failed || decide (amt ≠ 0) })
                ∧ (c.count ≠ 0 → c.count.toNat ≤ amt.toNat → (t.cell core j).firing = c.firing + 1 ∧ (t.cell core j).arrivals = []
                    ∧ (t.cell core j).parked = false ∧ (t.cell core j).count = if c.reinit then c.initial else 0))
            ∧ (s.Released → cwRemote cw = true → Completes (.jcdec d a n h) s fun t =>
                (∃ m : Msg, t.net = s.net ++ [m] ∧ m.rank = some (cwRank cw) ∧ m.body = .decrement (cwCell cw) (amt.extractLsb' 0 8) ws none false
                  ∧ m.sender = s.cur ∧ m.counted = true)
                ∧ (∀ r, t.rs r = s.rs r) ∧ MemSynced s t ∧ t.me.sent = x.sent + 1 ∧ t.me.pc = x.pc + 4)))

/-- R217 to R220, R325, R326: JCINIT and JCDEC, forced or not, local or remote.
Clauses that rest on the model's reading of an open point: logs 10, 11, 12, 52, 75. -/
def Obligations.JoinCells : Prop := Claims.CellInit ∧ Claims.CellDecrement

/-- R164 to R166: SEALG hands a key it holds to a rank, and drops it from every slot, once no atomic of the strand's is parked; SEALQ asks
whether an address's page is sealed. Clauses that rest on the model's reading of an open point: logs 24, 77. -/
def Obligations.SealWords : Prop :=
  ∀ (s : State) (d a b : BitVec 5) (h : BitVec 2),
    let x := s.me
    let core := coreOf s.cur
    let p := s.partOf s.cur
    let k := (s.rs a).extractLsb' 0 32
    let va := s.rs a
    (s.resolve core p (s.rs d) = none → Raises (.sealg d a b h) s 0x05 (s.rs d))
    ∧ (∀ rk e, s.resolve core p (s.rs d) = some (rk, e) → s.checkCw core p (s.rs b) = none →
        ((k = 0 ∨ x.heldKeys.contains k = false) → Raises (.sealg d a b h) s 0x06 (k.setWidth 64))
        ∧ (k ≠ 0 → x.heldKeys.contains k = true → (∃ q ∈ x.pend, q.parked = true) → Waits (.sealg d a b h) s)
        ∧ (k ≠ 0 → x.heldKeys.contains k = true → (∀ q ∈ x.pend, q.parked = false) → Completes (.sealg d a b h) s fun t =>
            (∃ m : Msg, t.net = s.net ++ [m] ∧ m.rank = some rk ∧ m.body = .handover k (s.rs b) core x.pc ∧ m.counted = true)
            ∧ t.me = { x.advance 4 with sent := x.sent + 1,
                                        csr := { x.csr with sealk := x.csr.sealk.map fun w => if w.extractLsb' 0 32 = k then 0 else w } }
            ∧ MemKept s t ∧ ∀ m, m ≠ s.cur → t.strand m = s.strand m))
    ∧ (s.unsorted (s.ctx s.cur) va = true → Raises (.sealq d a h) s 0x04 va)
    ∧ (s.unsorted (s.ctx s.cur) va = false → vaRegion va ≠ .translated → Completes (.sealq d a h) s fun t => WroteS s t d 0 4)
    ∧ (∀ e, s.unsorted (s.ctx s.cur) va = false → vaRegion va = .translated → s.translate (s.ctx s.cur) .load va.toNat = .ok e →
        let held := e.key ≠ 0 ∧ x.heldKeys.contains e.key = true
        (Pte.sealed e.lo = false → Completes (.sealq d a h) s fun t => WroteS s t d 0 4)
        ∧ (Pte.sealed e.lo = true → ¬ held → Completes (.sealq d a h) s fun t => WroteS s t d 0x8000000000000000 4)
        ∧ (Pte.sealed e.lo = true → held → Completes (.sealq d a h) s fun t =>
            WroteS s t d (0xC000000000000000 ||| e.key.setWidth 64) 4))

/-- R330: MIGR asks for level 1; it answers 0 at once on the strand's own core, 1 when no frame is free, and else begins the move: the
strand is `moving` towards the lowest free frame. It waits while anything the strand issued is under way, or a swap holds a write-back of
its core (R60).
Clauses that rest on the model's reading of an open point: logs 18, 23. -/
def Obligations.Migrate : Prop :=
  ∀ (s : State) (d a : BitVec 5) (h : BitVec 2),
    let w := s.rs a
    let core := ((w.extractLsb' 14 3).toNat * 16 + (w.extractLsb' 10 4).toNat) * 48 + (w.extractLsb' 4 6).toNat
    let bad := w.extractLsb' 17 47 ≠ 0 ∨ w.extractLsb' 0 4 ≠ 0 ∨ 47 < (w.extractLsb' 4 6).toNat
      ∨ (s.mask (s.partOf s.cur)).getLsbD (w.extractLsb' 14 3).toNat = false ∨ (s.core core).stage ≠ s.myCore.stage
    (s.me.level = 0 → Raises (.migr d a h) s 0x02 s.ir)
    ∧ (s.me.level ≠ 0 → bad → Raises (.migr d a h) s 0x05 w)
    ∧ (s.me.level ≠ 0 → ¬ bad →
        (s.settled s.cur = false → Waits (.migr d a h) s)
        ∧ (s.settled s.cur = true →
            (core = coreOf s.cur → Completes (.migr d a h) s fun t => WroteS s t d 0 4)
            ∧ (core ≠ coreOf s.cur → s.freeFrame core = none → Completes (.migr d a h) s fun t => WroteS s t d 1 4)
            ∧ (∀ u, core ≠ coreOf s.cur → s.freeFrame core = some u →
                (s.backHeld (coreOf s.cur) = true → Waits (.migr d a h) s)
                ∧ (s.backHeld (coreOf s.cur) = false → Completes (.migr d a h) s fun t =>
                    t.me.st = .moving ∧ t.me.fwd = some u ∧ t.me.rest = s.me.st ∧ t.me.fbuf = [] ∧ t.me.pc = s.me.pc + 4
                    ∧ (∀ r, r ≠ d → t.rs r = s.rs r) ∧ t.rs d = 0 ∧ ∀ m, m ≠ s.cur → t.strand m = s.strand m))))

/-! ## Control registers and traps (R248 to R256, R373 to R376) -/

/-- R248, R249: a CSR operation on an unassigned number, or a write of a read-only one, raises cause 0x01; below its level, 0x02; a value
its register refuses, 0x05 with TVAL holding the value. Else d takes the old value and the register the new one, in one step. A
partition-kept register is read as by an SO access (R249) and written when the strand is released; FCTL waits for the flags of earlier
float instructions (R102), not for those of a returning atomic (R249). Clauses that rest on the model's reading of an open point: logs 9,
68. -/
def Obligations.CsrOperations : Prop :=
  ∀ (s : State) (d a : BitVec 5) (c : BitVec 12),
    let lvl := s.me.level.toNat
    let old := s.csrValue s.cur c
    let x := s.rs a
    let due := c = 0x10 ∧ s.me.flagsDue = true
    let noted := fun (s' : State) => if d = 0 then s' else match csrEvent c with | some e => s'.event e | none => s'
    let s0 := if partKept c then s.writeBackAll (coreOf s.cur) else s
    let Wr := fun (G : Instr → Word → Prop) =>
      G (.csrwr d a c) x ∧ G (.csrset d a c) (if c.toNat = 0x109 then x else old ||| x)
      ∧ G (.csrclr d a c) (if c.toNat = 0x109 then ~~~x else old &&& ~~~x)
    (csrLevels c = none → Raises (.csrrd d c) s 0x01 s.ir ∧ Wr fun i _ => Raises i s 0x01 s.ir)
    ∧ (∀ r w, csrLevels c = some (r, w) →
        (lvl < r → Raises (.csrrd d c) s 0x02 s.ir ∧ Wr fun i _ => Raises i s 0x02 s.ir)
        ∧ (r ≤ lvl →
            (due → Waits (.csrrd d c) s) ∧ (partKept c = true → s.me.soReady = false → Waits (.csrrd d c) s)
            ∧ (¬ due → (partKept c = true → s.me.soReady = true) → Completes (.csrrd d c) s fun t => WroteS (noted s) t d old 4)
            ∧ (w = none → Wr fun i _ => Raises i s 0x01 s.ir)
            ∧ (∀ n, w = some n → lvl < n → Wr fun i _ => Raises i s 0x02 s.ir)
            ∧ (∀ n, w = some n → n ≤ lvl → (partKept c = true ∧ ¬ s.Released) ∨ due → Wr fun i _ => Waits i s)
            ∧ (∀ n, w = some n → n ≤ lvl → ¬ due → (partKept c = true → s.Released) → Wr fun i v =>
                (s0.csrStore s.cur c v = none → exec i s = .next (s0.deliver 0x05 v s.me.pc))
                ∧ ∀ s', s0.csrStore s.cur c v = some s' → Completes i s fun t => WroteS (noted s') t d old 4)))

/-- R373: at level 1 and above a write of a trap register keeps the bits the register has, changes no other register and no byte; ATVEC
may be written at any level. A TSTAT whose PLEV is 3 is refused. -/
def Obligations.TrapRegisters : Prop :=
  ∀ (s : State) (a : BitVec 5),
    let x := s.me
    let v := s.rs a
    let C := fun (n : BitVec 12) (c : StrandCsrs) => Completes (.csrwr 0 a n) s fun t => OthersKept s t ∧ t.me = { x.advance 4 with csr := c }
    C 0xA0 { x.csr with atvec := v &&& 0x00FFFFFFFFFFFFFC }
    ∧ (1 ≤ x.level.toNat →
        C 0x100 { x.csr with tvec := v &&& 0x00FFFFFFFFFFFFFC } ∧ C 0x101 { x.csr with tcause := v &&& 0x80000000000000FF }
        ∧ C 0x102 { x.csr with tval := v } ∧ C 0x103 { x.csr with tpc := v }
        ∧ (v.extractLsb' 4 2 ≠ 3 → C 0x104 { x.csr with tstat := v &&& 0x33 })
        ∧ (v.extractLsb' 4 2 = 3 → Raises (.csrwr 0 a 0x104) s 0x05 v)
        ∧ C 0x105 { x.csr with tdeleg := v &&& 0x3FFFFE } ∧ C 0x106 { x.csr with tscratch := v })

/-- R375: taking a trap. TRAP 0x40 to 0x7F of an apprentice with an ATVEC stays at level 0 and goes there; a cause of 0x20 or above, a trap
of a master and a cause TDELEG does not name go to the core's master vector; the others to TVEC at level 1. TCAUSE, TVAL and TPC take the
cause, the value and the address; TSTAT saves the level and `ie` and clears `ie`. With no vector the strand halts with reason 5. No
register changes. -/
def Obligations.TrapEntry : Prop :=
  ∀ (s : State) (c : BitVec 8) (val tpc : Word),
    let x := s.me
    let own := c = 0x10 ∧ 0x40 ≤ val.toNat ∧ val.toNat ≤ 0x7F ∧ x.level = 0 ∧ x.csr.atvec ≠ 0
    let up := 0x20 ≤ c.toNat ∨ x.level = 2 ∨ x.csr.tdeleg.getLsbD c.toNat = false
    let t := s.deliver c val tpc
    let E := fun (lvl : BitVec 2) (vec : Word) =>
      (vec ≠ 0 →
        t.me.pc = vec ∧ t.me.level = lvl ∧ t.me.csr.tcause = c.setWidth 64 ∧ t.me.csr.tval = val ∧ t.me.csr.tpc = tpc
        ∧ t.me.csr.tstat = (x.level.setWidth 64 <<< 4) ||| (bit (x.csr.tstat.getLsbD 0) <<< 1) ∧ t.me.fbuf = [] ∧ RegsKept s t ∧ MemKept s t
        ∧ ∀ n, n ≠ s.cur → t.strand n = s.strand n)
      ∧ (vec = 0 → x.st ≠ .free → x.st ≠ .halted → x.st ≠ .moving →
          t.me.st = .halted ∧ t.me.halt.why = 5 ∧ t.me.halt.hpc = tpc ∧ t.me.halt.lvl = x.level ∧ t.me.halt.prior = x.st ∧ t.me.pc = tpc
          ∧ RegsKept s t)
    (own → E 0 x.csr.atvec) ∧ (¬ own → up → E 2 s.myCore.cmtvec) ∧ (¬ own → ¬ up → E 1 x.csr.tvec)

/-- R252 to R256: SYSC raises cause 0x11 and TRAP cause 0x10 with the code in TVAL and TPC at the next instruction; ERET goes to TPC at the
saved level with the saved `ie`, and raises cause 0x02 where it would raise the level and 0x03 off a word boundary; BRK traps with cause
0x12, or halts the strand where the core's debug bit is set, its frame PC at the next word; HALTG asks for level 1 and signals a group; WFI
waits until an arrival. Clauses that rest on the model's reading of an open point: logs 49 (the signal on its way), 69 (WFI). -/
def Obligations.SystemOperations : Prop :=
  ∀ (s : State) (c : BitVec 12) (g : BitVec 4),
    let x := s.me
    let plev := x.csr.tstat.extractLsb' 4 2
    let pie := bit (x.csr.tstat.getLsbD 1)
    exec (.sysc c) s = .next (s.deliver 0x11 (c.setWidth 64) (x.pc + 4))
    ∧ exec (.trap c) s = .next (s.deliver 0x10 (c.setWidth 64) (x.pc + 4))
    ∧ (x.level.toNat < plev.toNat → Raises .eret s 0x02 s.ir)
    ∧ (plev.toNat ≤ x.level.toNat → x.csr.tpc.toNat % 4 ≠ 0 → Raises .eret s 0x03 x.csr.tpc)
    ∧ (plev.toNat ≤ x.level.toNat → x.csr.tpc.toNat % 4 = 0 → Completes .eret s fun t =>
        t.me.pc = x.csr.tpc ∧ t.me.level = plev ∧ t.me.csr = { x.csr with tstat := (plev.setWidth 64 <<< 4) ||| (pie <<< 1) ||| pie }
        ∧ t.me.fbuf = [] ∧ RegsKept s t ∧ MemKept s t
        ∧ ∀ n, n ≠ s.cur → t.strand n = s.strand n)
    ∧ (s.myCore.cdbg.getLsbD 0 = false → Raises .brk s 0x12 0)
    ∧ (s.myCore.cdbg.getLsbD 0 = true → x.st = .ready → Completes .brk s fun t =>
        t.me.st = .halted ∧ t.me.halt.why = 3 ∧ t.me.halt.hpc = x.pc ∧ t.me.halt.prior = .ready ∧ t.me.pc = x.pc + 4 ∧ RegsKept s t
        ∧ MemKept s t)
    ∧ (x.level = 0 → Raises (.haltg g) s 0x02 s.ir)
    ∧ (x.level ≠ 0 → x.st = .ready → Completes (.haltg g) s fun t =>
        RegsKept s t ∧ MemKept s t ∧ t.me.pc = x.pc + 4
        ∧ (s.myCore.cdbg.getLsbD (32 + g.toNat) = true → t.me.st = .halted ∧ t.me.halt.why = 4 ∧ t.me.halt.hpc = x.pc + 4)
        ∧ (s.myCore.cdbg.getLsbD (32 + g.toNat) = false → t.me.st = .ready)
        ∧ ∀ n, s.partOfCore n = s.partOf s.cur → (s.core n).cdbg.getLsbD (32 + g.toNat) = true → (t.core n).sig.getLsbD g.toNat = true)
    ∧ (x.irq = none → Completes .wfi s fun t => OthersKept s t ∧ t.me = { x.advance 4 with wait := .wfi })
    ∧ (x.irq ≠ none → Completes .wfi s fun t => OthersKept s t ∧ t.me = { x.advance 4 with wait := .none })

/-! ## Privileged instructions (R257 to R262) -/

/-- R31, R258, R259: RKSET writes a rank's entry and RKTRN exchanges two, at level 1, once the strand is released and nothing is on its way
to the ranks; where RTBASE names no pool of the partition there is no table to write (log 27). A word out of the table, or an entry that
names no place of the partition, raises cause 0x05 with TVAL holding it. A network interface of the partition that cached the entry forgets
it. Clauses that rest on the model's reading of an open point: logs 19, 27. -/
def Obligations.RankEntries : Prop :=
  ∀ (s : State) (a b : BitVec 5) (h : BitVec 2),
    let p := s.partOf s.cur
    let x := s.rs a
    let y := s.rs b
    let rx : BitVec 16 := x.extractLsb' 0 16
    let ry : BitVec 16 := y.extractLsb' 0 16
    let s0 := s.writeBackAll (coreOf s.cur)
    let slot := fun (r : BitVec 16) => (s.part p).rtbase.toNat + 4 * r.toNat
    let forgets := fun (t : State) (r : BitVec 16) => ∀ c, s.partOfCore c = p → ∀ e ∈ (t.core c).ni, e.1 ≠ r.toNat
    let live := fun (e : BitVec 32) => entryState e = 1 ∧ (s.mask p).getLsbD (e.extractLsb' 14 3).toNat = true
    (s.me.level = 0 → Raises (.rkset a b h) s 0x02 s.ir ∧ Raises (.rktrn a b h) s 0x02 s.ir)
    ∧ (s.me.level ≠ 0 → (s.part p).rtlim.toNat ≤ x.toNat → (s.part p).rtlim.toNat ≤ 65536 →
        Raises (.rkset a b h) s 0x05 x ∧ Raises (.rktrn a b h) s 0x05 x)
    ∧ (s.me.level ≠ 0 → s.rankBad p x = false → s.entryBad p y = true → Raises (.rkset a b h) s 0x05 y)
    ∧ (s.me.level ≠ 0 → s.rankBad p x = false → s.entryBad p y = false → s.Released → entryState (s.rankEntry p rx) ≤ 1 →
        s.routedTo p rx = false → Completes (.rkset a b h) s fun t =>
          t.mem = (if (s.part p).tables then Memory.writeN s0.mem (slot rx) 4 (y.toNat % 2 ^ 32) else s0.mem) ∧ forgets t rx ∧ (∀ r, t.rs r = s.rs r) ∧ t.me.pc = s.me.pc + 4
          ∧ (entryState (y.setWidth 32) = 1 → (t.strand (entryPlace (y.setWidth 32))).rank = rx))
    ∧ (s.me.level ≠ 0 → s.rankBad p x = false → s.rankBad p y = false → s.entryLive p (s.rankEntry p rx) = false →
        Raises (.rktrn a b h) s 0x05 x)
    ∧ (s.me.level ≠ 0 → s.rankBad p x = false → s.rankBad p y = false → rx ≠ ry → s.Released →
        live (s.rankEntry p rx) → live (s.rankEntry p ry) → s.routedTo p rx = false → s.routedTo p ry = false →
        Completes (.rktrn a b h) s fun t =>
          t.mem = Memory.writeN (Memory.writeN s0.mem (slot rx) 4 (s.rankEntry p ry).toNat) (slot ry) 4 (s.rankEntry p rx).toNat
          ∧ forgets t rx ∧ forgets t ry ∧ (∀ r, t.rs r = s.rs r) ∧ t.me.pc = s.me.pc + 4)

/-- R78 to R81: TLBINV removes the leaf entries its form names from the TLBs of the partition's cores and of the clusters, and remembers
the range; accesses of other strands that were translated there and have yet to be performed then go home, past the core copy; no byte of
memory changes but where a core's dirty line is written back; PTSYNC waits until no access of the partition that
was translated in those ranges is left. Both ask for level 1.
A clause that rests on the model's reading of an open point: log 28. -/
def Obligations.TranslationRemoval : Prop :=
  ∀ (s : State) (a : BitVec 5) (h : BitVec 2),
    let p := s.partOf s.cur
    let va := ((s.rs a).extractLsb' 0 56).toNat
    let big := va / 2 ^ 26 * 2 ^ 26
    let page := va / 2 ^ 16 * 2 ^ 16
    let sorted := 0x40000 ≤ va ∧ va < 2 ^ 55
    let T := fun i (named : TlbEntry → Prop) => Completes i s fun t =>
      (∀ c, s.partOfCore c = p → ∀ e, e ∈ (t.core c).tlb ↔ e ∈ (s.core c).tlb ∧ ¬ (e.part = p ∧ named e))
      ∧ (∀ c e, e ∈ (t.cluster c).tlb ↔ e ∈ (s.cluster c).tlb ∧ ¬ (e.part = p ∧ named e))
      ∧ (s.MemWf → ∀ x, (∀ k, ¬ s.dirtyIn k x) → Memory.read t.mem x = Memory.read s.mem x)
      ∧ (∃ r, t.me = { s.me.advance 4 with inv := r :: s.me.inv } ∧ (named ⟨p, page, false, 0, 0, 0, 0⟩ → r.1 ≤ va ∧ va < r.2)
        ∧ ∀ n, s.partOf n = p → ∀ o ∈ (t.strand n).out, o.at_.within [r] = true → o.at_.cached = false)
      ∧ ∀ n, n ≠ s.cur → (t.strand n).uncached = (s.strand n).uncached
    (s.me.level = 0 →
      Raises (.tlbinv a h) s 0x02 s.ir ∧ Raises (.tlbinvRng a h) s 0x02 s.ir ∧ Raises (.tlbinvAll h) s 0x02 s.ir ∧ Raises (.ptsync h) s 0x02 s.ir)
    ∧ (s.me.level ≠ 0 →
        (s.me.out ≠ [] → Waits (.tlbinv a h) s ∧ Waits (.tlbinvRng a h) s ∧ Waits (.tlbinvAll h) s)
        ∧ (s.Settled →
            (sorted → T (.tlbinv a h) (fun e => if e.large then e.va = big else e.va = page)
              ∧ T (.tlbinvRng a h) (fun e => e.va / 2 ^ 26 * 2 ^ 26 = big))
            ∧ (¬ sorted → (Completes (.tlbinv a h) s fun t => MemSynced s t ∧ t.me = s.me.advance 4)
              ∧ (Completes (.tlbinvRng a h) s fun t => MemSynced s t ∧ t.me = s.me.advance 4))
            ∧ T (.tlbinvAll h) (fun _ => True))
        ∧ (s.rangesQuiet p s.me.inv = true → Completes (.ptsync h) s fun t => OthersKept s t ∧ t.me = { s.me.advance 4 with inv := [] })
        ∧ (s.rangesQuiet p s.me.inv = false → Waits (.ptsync h) s))

/-- R260, R261, R387: PART, PREEMPT.save and PREEMPT.rest ask for level 2 in the partition that holds die 0. PART refuses a locked
interface and a mask it may not give; else the partition takes the mask, every other loses its dies, and d takes the old mask. A save
leaves the partition's cores without a line or a cached translation (R43). Clauses that rest on the model's reading of an open point: logs
20, 29, 66. -/
def Obligations.Partitioning : Prop :=
  ∀ (s : State) (d a b : BitVec 5) (h : BitVec 2),
    let p := s.partOf s.cur
    let aw := s.rs a
    let bw := s.rs b
    let n := (aw.extractLsb' 0 3).toNat
    let m : BitVec 8 := bw.extractLsb' 0 8
    let may := s.me.level = 2 ∧ (s.mask p).getLsbD 0 = true
    let refusedA := aw.extractLsb' 3 61 ≠ 0 ∨ (s.part n).tdi = .locked ∨ (s.part n).tdi = .run ∨ ((s.part n).saved.isSome = true ∧ m ≠ 0)
    let refusedB := bw.extractLsb' 8 56 ≠ 0 ∨ ∃ k < 8, s.dieRefused n m p (dieOfCore (coreOf s.cur)) k = true
    (¬ may → Raises (.part d a b h) s 0x02 s.ir ∧ Raises (.preemptSave d a h) s 0x02 s.ir ∧ Raises (.preemptRest d a h) s 0x02 s.ir)
    ∧ (may → refusedA → Raises (.part d a b h) s 0x05 aw)
    ∧ (may → ¬ refusedA → refusedB → Raises (.part d a b h) s 0x05 bw)
    ∧ (may → ¬ refusedA → ¬ refusedB → s.me.drained = false ∨ s.me.fences ≠ [] ∨ s.backHeld (coreOf s.cur) = true ∨ s.maskHeld n m = true →
        Waits (.part d a b h) s)
    ∧ (may → ¬ refusedA → ¬ refusedB → s.me.drained = true → s.me.fences = [] → s.backHeld (coreOf s.cur) = false →
        s.maskHeld n m = false → s.Disjoint → Completes (.part d a b h) s fun t =>
        (t.part n).mask = m ∧ (∀ q < 8, q ≠ n → (t.part q).mask = (s.part q).mask &&& ~~~m)
        ∧ (∀ r, r ≠ d → t.rs r = s.rs r) ∧ t.rs d = (if d = 0 then 0 else (s.part n).mask.setWidth 64) ∧ t.me.pc = s.me.pc + 4)
    ∧ (may → ((s.part n).tdi = .locked ∨ (s.part n).tdi = .run ∨ n = p) → Raises (.preemptSave d a h) s 0x05 aw ∧ Raises (.preemptRest d a h) s 0x05 aw)
    ∧ (may → (s.part n).tdi ≠ .locked → (s.part n).tdi ≠ .run → n ≠ p → s.mask n ≠ 0 →
        let full := ∃ k < 8, (s.mask n).getLsbD k = true ∧ 4 ≤ s.storedOn k
        ((s.part n).saved.isSome = true → Completes (.preemptSave d a h) s fun t => WroteS s t d 1 4)
        ∧ ((s.part n).saved = none → full → Completes (.preemptSave d a h) s fun t => WroteS s t d 2 4)
        ∧ ((s.part n).saved = none → ¬ full → (s.part n).gang = some 8 → (s.part n).quiet = false → Waits (.preemptSave d a h) s)
        ∧ ((s.part n).saved = none → ¬ full → (s.part n).gang = some 8 → (s.part n).quiet = true →
            (∀ c, s.partOfCore c = n → s.backHeld c = false) → s.Disjoint →
            Completes (.preemptSave d a h) s fun t =>
              (∃ v, (t.part n).saved = some v ∧ v.mask = s.mask n)
              ∧ (∀ c, s.partOfCore c = n → (t.core c).lines = [] ∧ ∀ e ∈ (t.core c).tlb, e.part ≠ n) ∧ (∀ c ∈ t.cmds, c.part ≠ n) ∧ (∀ r, r ≠ d → t.rs r = s.rs r)
              ∧ t.rs d = 0 ∧ t.me.pc = s.me.pc + 4)
        ∧ ((s.part n).saved = none → Completes (.preemptRest d a h) s fun t => WroteS s t d 1 4))
    ∧ (∀ v, may → (s.part n).tdi ≠ .locked → (s.part n).tdi ≠ .run → n ≠ p → (s.part n).saved = some v →
        ((∃ k < 8, v.mask.getLsbD k = true ∧ s.partOfDie k ≠ n ∧ s.partOfDie k ≠ 8) → Raises (.preemptRest d a h) s 0x05 aw)
        ∧ ((∀ k < 8, v.mask.getLsbD k = true → s.partOfDie k = n ∨ s.partOfDie k = 8) → s.Disjoint → p < 8 → Completes (.preemptRest d a h) s fun t =>
            (t.part n).saved = none ∧ (t.part n).mask = v.mask ∧ (t.part n).gang = none ∧ (∀ r, r ≠ d → t.rs r = s.rs r) ∧ t.rs d = 0
            ∧ t.me.pc = s.me.pc + 4))

/-! ## The Loom and the search (R296 to R318, R355 to R359) -/

/-- R307, R308, R314 to R316: LMM, LMMS and LMMG raise the first check that fails, in the order completion word, records, conditions by
number (cause 0x13 with TVAL the number); LMMG then reads its offsets, and raises cause 0x0E at the lowest bad one. Else the command is
issued. -/
def Sys2Proof.Claims.LoomProducts : Prop :=
  ∀ (s : State) (rc ra ro : BitVec 4) (n f c : BitVec 5) (h : BitVec 2) (w : BitVec 3) (u : BitVec 1) (cs : BitVec 2),
    let C := s.rb rc
    let A := s.rb ra
    let O := s.rb ro
    let d := (s.loom (octetOf (coreOf s.cur))).viewAct
    let K := d.kblk.toNat
    let pair := s.me.weave.get w.toFin
    let un := u = 1
    let cw := s.rs c
    let cnt := (s.rs n).toNat
    let first := (s.rs f).toNat
    let combo := (2, !loomCombo pair (Rec.fmt A) d.bfmt.toNat un)
    let acc := (5, accBad C [loomAccFmt pair])
    let cols := (7, decide (Rec.dim0 C ≤ 128 * cs.toNat))
    let rows := (4, decide (64 < cnt) || (decide (cnt ≠ 0) && decide (min (Rec.dim1 A) (Rec.dim1 C) < first + cnt)))
    let dense := s.loomCheck cw [recCheck C 4 (accOffsets C), recCheck A (unitBytes (Rec.fmt A)) (walkOffsets A)]
      [(1, K = 0), combo, (3, Rec.fmt C = 31 || Rec.fmt A = 31), rows, acc, (6, Rec.space A = 3 || decide (kPositions A < 16 * K)), cols]
    let packed := s.loomCheck cw [recCheck C 4 (accOffsets C), recCheck A 144 (walkOffsets A)]
      [(1, K = 0), combo, (3, Rec.fmt C = 31 || Rec.fmt A = 31), rows, acc, (6, Rec.space A = 3 || decide (Rec.dim0 A < (K + 7) / 8)), cols,
       (8, decide (d.pad.toNat ≠ loomPad pair un d.bfmt.toNat)), (9, !d.sbm),
       (10, (decide (Rec.fmt A ≠ 0) && decide (Rec.fmt A ≠ 11)) || decide ((Rec.base A).toNat % 16 ≠ 0) || decide (Rec.stride0 A % 16 ≠ 0)
          || decide (Rec.stride1 A % 16 ≠ 0) || decide (Rec.stride0 A < 144))]
    let grouped := s.loomCheck cw [recCheck C 4 (accOffsets C), recCheck A (unitBytes (Rec.fmt A)) (walkOffsets A),
        recCheck O 4 ((List.range (Rec.dim0 O)).map fun i => recOffset O i 0) false]
      [(1, d.kblk = 0), combo, (3, Rec.fmt C = 31 || Rec.fmt A = 31 || Rec.fmt O = 31), acc, (6, Rec.space A = 3 || decide (kPositions A < 128)),
       cols, (8, decide (d.pad.toNat ≠ loomPad pair un d.bfmt.toNat)), (13, decide (Rec.fmt O ≠ 2) || decide (Rec.dim0 O < 2) || decide (5 < Rec.dim0 O))]
    (∀ e, dense = some e → Raises (.lmm rc ra n f h c w u cs) s e.cause e.val)
    ∧ (dense = none → Submitted (exec (.lmm rc ra n f h c w u cs) s) s s (.lmm C A pair un cs d first cnt false) cw id)
    ∧ (∀ e, packed = some e → Raises (.lmms rc ra n f h c w u cs) s e.cause e.val)
    ∧ (packed = none → Submitted (exec (.lmms rc ra n f h c w u cs) s) s s (.lmm C A pair un cs d first cnt true) cw id)
    ∧ (∀ e, grouped = some e → Raises (.lmmg rc ra ro c h w u cs) s e.cause e.val)
    ∧ (∀ s1 vs, grouped = none → s.loadValues O 4 2 ((List.range (Rec.dim0 O)).map fun i => recOffset O i 0) = .ok (s1, vs) →
        let os := vs.map (sxN 32)
        let G := os.length - 1
        let badAt := fun g => (g = 0 ∧ os.getD 0 0 < 0) ∨ (g < G ∧ os.getD (g + 1) 0 < os.getD g 0) ∨ 64 < os.getD g 0 - os.getD 0 0
          ∨ (g = G ∧ (min (Rec.dim1 A) (Rec.dim1 C) : Nat) < os.getD G 0)
        (∀ g ≤ G, badAt g → (∀ k < g, ¬ badAt k) →
          exec (.lmmg rc ra ro c h w u cs) s = .next (s1.deliver 0x0E (BitVec.ofNat 64 g) s1.me.pc))
        ∧ ((∀ g ≤ G, ¬ badAt g) →
          Submitted (exec (.lmmg rc ra ro c h w u cs) s) s1 s (.lmmg C A pair un cs d (os.map Int.toNat)) cw id))

/-- R309 to R313, R317: LBLD, LBSWP, LAINI and LADR are issued when their checks pass; LSEMI sets a weave slot to a pair code below 8;
LSTAT reads the Loom's status. -/
def Sys2Proof.Claims.LoomControl : Prop :=
  ∀ (s : State) (rb rc rd : BitVec 4) (p c d : BitVec 5) (h : BitVec 2) (w rm : BitVec 3),
    let B := s.rb rb
    let C := s.rb rc
    let D := s.rb rd
    let cw := s.rs c
    let pad := s.rs p
    let pair := s.me.weave.get w.toFin
    let f := Rec.fmt D
    let wide := if loomPer f = 2 then (Rec.dim0 C + 1) / 2 else Rec.dim0 C
    let lb := s.loomCheck cw [recCheck B (unitBytes (Rec.fmt B)) (walkOffsets B)]
      [(3, Rec.fmt B = 31), (11, !loomBFmt (Rec.fmt B) || decide (Rec.dim0 B = 0) || decide (128 < Rec.dim0 B) || decide (Rec.dim1 B = 0)
        || decide (32 < Rec.dim1 B) || decide (256 ≤ pad.toNat) || decide (Rec.space B = 3))]
    let la := s.loomCheck cw [recCheck C 4 (accOffsets C)] [(3, Rec.fmt C = 31), (5, accBad C [loomAccFmt pair])]
    let ld := s.loomCheck cw [recCheck D (unitBytes f) (walkOffsets D), recCheck C 4 (accOffsets C)]
      [(3, f = 31 || Rec.fmt C = 31), (5, accBad C [8, 2]),
       (12, Rec.space D = 3 || f = 23 || (decide (sizeClass f ≠ 5) && (decide (Rec.dim1 D ≠ Rec.dim1 C) || decide (Rec.dim0 D ≠ wide))))]
    (∀ e, lb = some e → Raises (.lbld rb p c h) s e.cause e.val)
    ∧ (lb = none → Submitted (exec (.lbld rb p c h) s) s s (.lbld B (pad.setWidth 8)) cw id)
    ∧ Submitted (exec (.lbswp h) s) s s .lbswp 0 id
    ∧ (∀ e, la = some e → Raises (.laini rc c h w) s e.cause e.val)
    ∧ (la = none → Submitted (exec (.laini rc c h w) s) s s (.laini C pair) cw id)
    ∧ (∀ e, ld = some e → Raises (.ladr rd rc c h rm) s e.cause e.val)
    ∧ (ld = none → Submitted (exec (.ladr rd rc c h rm) s) s s (.ladr D C (if rm = 0 then BitVec.ofNat 3 s.me.rm else rm)) cw id)
    ∧ ((s.rs p).toNat < 8 → Completes (.lsemi p h w) s fun t =>
        OthersKept s t ∧ ∃ v, t.me = { s.me.advance 8 with weave := v } ∧ v.get w.toFin = (s.rs p).setWidth 3
          ∧ ∀ k : BitVec 3, k ≠ w → v.get k.toFin = s.me.weave.get k.toFin)
    ∧ (8 ≤ (s.rs p).toNat → Raises (.lsemi p h w) s 0x05 (s.rs p))
    ∧ (Completes (.lstat d h) s fun t => WroteS (s.event 3) t d (s.loomStatus (coreOf s.cur)) 8)

/-- R307 to R317: the Loom instructions. Clauses that rest on the model's reading of an open point: logs 43, 44, 48. -/
def Obligations.LoomCommands : Prop := Claims.LoomProducts ∧ Claims.LoomControl

/-- R355 to R359: TOPK is issued when its checks pass, with its spawn block read when it has one and 512 ordinals taken then; RCSNAP waits
for the strand's own searches, stores n counters of a group and clears them; RCRD reads the count or the sum of one, as a load from the
cluster controls. Clauses that rest on the model's reading of an open point: logs 9, 43, 82, 91. -/
def Obligations.Search : Prop :=
  ∀ (s : State) (ro rs rd : BitVec 4) (p c sb d a : BitVec 5) (h : BitVec 2) (mn ky cl x : BitVec 1),
    let O := s.rb ro
    let S := s.rb rs
    let P := s.rs p
    let cw := s.rs c
    let cluster := clusterOf (coreOf s.cur)
    let k := (P.extractLsb' 0 7).toNat
    let lines := if cl = 1 then Rec.dim0 S else Rec.dim1 S
    let ck := s.loomCheck cw [walkCheck O, walkCheck S]
      [(3, Rec.fmt S = 31 || Rec.fmt O = 31), (14, !((s.cluster cluster).sacfg.getLsbD 8)),
       (15, decide (k = 0) || decide (64 < k) || P.getLsbD 7 || decide (P.extractLsb' 12 52 ≠ 0)),
       (16, !([0, 1, 2, 4, 5, 6, 8, 9, 10].contains (Rec.fmt S)) || decide (Rec.dim0 S = 0) || decide (512 < Rec.dim0 S) || decide (Rec.dim1 S = 0)
          || decide (64 < Rec.dim1 S)),
       (17, (decide (Rec.fmt O ≠ 1) && decide (Rec.fmt O ≠ 2)) || decide (Rec.dim0 O < k) || decide (Rec.dim1 O < lines))]
    let op := fun blk => CmdOp.topk O S k (P.extractLsb' 8 4).toNat (cl = 1) (ky = 1) (mn = 1) blk
    let v := s.rs a
    let g := (v.extractLsb' 0 4).toNat
    let col := (v.extractLsb' 16 9).toNat
    let n := (v.extractLsb' 16 10).toNat
    let at_ := s.counterAddr cluster g
    let stored := ((List.range n).map fun i => [Memory.readN s.mem (at_ i) 4, Memory.readN s.mem (at_ i + 8) 8]).flatten
    (∀ e sp, ck = some e → Raises (.topk ro rs p c h sb mn ky sp cl) s e.cause e.val)
    ∧ (ck = none → Submitted (exec (.topk ro rs p c h sb mn ky 0 cl) s) s s (op none) cw id)
    ∧ (∀ ps s1 vs, ck = none → s.recParts .load (s.rs sb) = .ok ps → s.loadNow ps = some (s1, vs) →
        let block := s1.searchBlock (coreOf s.cur) (s1.partOf s1.cur) (BitVec.ofNat 64 (vs.getD 0 0)) (BitVec.ofNat 64 (vs.getD 1 0))
          (BitVec.ofNat 64 (vs.getD 2 0))
        (∀ e, block = .error e → exec (.topk ro rs p c h sb mn ky 1 cl) s = .next (s1.deliver e.cause e.val s1.me.pc))
        ∧ (∀ b, block = .ok b → Submitted (exec (.topk ro rs p c h sb mn ky 1 cl) s) s1 s (op (some b)) cw
            fun y => { y with task := { y.task with ordinal := y.task.ordinal + 512 } }))
    ∧ ((v &&& ~~~0x3FF000F ≠ 0 ∨ n = 0 ∨ 512 < n) → Raises (.rcsnap rd a h) s 0x05 v)
    ∧ (∀ l, v &&& ~~~0x3FF000F = 0 → 0 < n → n ≤ 512 → recRefused (s.rb rd) false = false →
        s.checkUnits (s.ctx s.cur) (s.rb rd) 8 3 .store ((List.range (2 * n)).map fun (i : Nat) => (8 * (i : Int))) = .ok l →
        ((∃ k ∈ s.cmds ++ s.issued, k.by_ = s.cur ∧ ∃ o q k' j cl' ky' mn' blk, k.op = .topk o q k' j cl' ky' mn' blk) → Waits (.rcsnap rd a h) s)
        ∧ (s.Settled → (∀ k ∈ s.cmds ++ s.issued, k.by_ ≠ s.cur) →
            (∀ u ∈ l, ∃ q e, u = some ([q], e) ∧ special q = false ∧ ownPort (coreOf s.cur) q = false ∧ s.stagingBusy q = false) →
            Completes (.rcsnap rd a h) s fun t =>
              t.mem = (State.refreshed { s with mem := Memory.clear s.mem (at_ 0) (16 * n) } .store
                (placeUnits (s.thruOf (s.partOf s.cur) (s.rb rd) true) 0 l)).mem
              ∧ t.me.out.map (·.val) = stored.map (BitVec.ofNat 64)
              ∧ t.me.out.map (fun o => o.at_.key) = l.flatMap (fun u => match u with | some (ps, _) => ps.map (·.key) | none => [])
              ∧ { t.me with out := [] } = { s.me.advance 8 with out := [] } ∧ ∀ m, m ≠ s.cur → t.strand m = s.strand m))
    ∧ (v &&& ~~~0x1FF000F ≠ 0 → Raises (.rcrd d a h x) s 0x05 v)
    ∧ (v &&& ~~~0x1FF000F = 0 → s.me.level = 0 → Raises (.rcrd d a h x) s 0x02 (BitVec.ofNat 64 (at_ col + if x = 1 then 8 else 0)))
    ∧ (v &&& ~~~0x1FF000F = 0 → s.me.level ≠ 0 → s.me.soReady = false → Waits (.rcrd d a h x) s)
    ∧ (v &&& ~~~0x1FF000F = 0 → s.me.level ≠ 0 → s.me.soReady = true → Completes (.rcrd d a h x) s fun t =>
        WroteS (s.event 15) t d (BitVec.ofNat 64 (if x = 1 then Memory.readN s.mem (at_ col + 8) 8 else Memory.readN s.mem (at_ col) 4)) 8)

/-! ## Messages and shadows (R334 to R345, R141 to R145) -/

/-- R335, R336: SEND and SENDM: the words that do not resolve, a bad header and a missing payload trap; else, when the strand is released,
one message goes to each rank in order with the n oldest words of q7, each counted.
Clauses that rest on the model's reading of an open point: logs 10, 30, 47. -/
def Obligations.Sends : Prop :=
  ∀ (s : State) (d hd m : BitVec 5) (h : BitVec 2) (n : BitVec 4),
    let p := s.partOf s.cur
    let hdr := s.rs hd
    let cnt := s.rs m
    let ws := (s.me.q.get 7).take n.toNat
    let okHdr := hdr.extractLsb' 32 32 = 0 ∧ hdr.extractLsb' 0 8 = 0
    let okLen := (hdr.extractLsb' 8 4).toNat = n.toNat ∧ n.toNat ≤ (s.me.q.get 7).length
    let G := fun i (rks : List (BitVec 16)) =>
      (¬ okHdr → Raises i s 0x0B s.ir) ∧ (okHdr → ¬ okLen → Raises i s 0x0C 0)
      ∧ (okHdr → okLen → ¬ s.Released → Waits i s)
      ∧ (okHdr → okLen → s.Released → Completes i s fun t =>
          (∃ ms : List Msg, t.net = s.net ++ ms ∧ ms.map (·.rank) = rks.map some
            ∧ ∀ y ∈ ms, y.body = .decrement (hdr.extractLsb' 20 12) (hdr.extractLsb' 12 8) ws none false ∧ y.sender = s.cur ∧ y.counted = true)
          ∧ t.me = { s.me.advance 8 with q := s.me.q.set 7 ((s.me.q.get 7).drop n.toNat), sent := s.me.sent + BitVec.ofNat 64 rks.length }
          ∧ MemSynced s t ∧ ∀ k, k ≠ s.cur → t.strand k = s.strand k)
    (s.resolve (coreOf s.cur) p (s.rs d) = none → Raises (.send d hd h n) s 0x05 (s.rs d))
    ∧ (∀ rk e, s.resolve (coreOf s.cur) p (s.rs d) = some (rk, e) → G (.send d hd h n) [rk])
    ∧ (4096 < cnt.toNat → Raises (.sendm d hd m h n) s 0x05 cnt)
    ∧ (∀ w, cnt.toNat ≤ 4096 → s.sendRanks (s.rs d) cnt.toNat 0 = .error w → Raises (.sendm d hd m h n) s 0x05 w)
    ∧ (∀ rks, cnt.toNat ≤ 4096 → s.sendRanks (s.rs d) cnt.toNat 0 = .ok rks → G (.sendm d hd m h n) rks)

/-- R337 to R339: RREAD, RWRITE and HALO are issued when their records, their ranks and their completion word pass; RREAD and RWRITE count
as one message of the strand when they are accepted. Clauses that rest on the model's reading of an open point: logs 31, 41, 47, 96. -/
def Obligations.NetworkCommands : Prop :=
  ∀ (s : State) (rl rt : BitVec 4) (d sr c nb : BitVec 5) (h : BitVec 2) (hw : BitVec 4),
    let core := coreOf s.cur
    let p := s.partOf s.cur
    let L := s.rb rl
    let T := s.rb rt
    let dw := s.rs d
    let src := s.rs sr
    let cw := s.rs c
    let last := src.toNat + walkCount L * unitBytes (Rec.fmt L)
    let reach := last ≤ 0x20000 ∨ (0x30000 ≤ src.toNat ∧ last ≤ 0x40000)
    let badRead := recRefused L false = true ∨ Rec.space L ≠ 1 ∨ notPlain L = true
    let badHalo := recRefused T false = true ∨ Rec.space T ≠ 1 ∨ notPlain T = true
    (badRead → Raises (.rread d rl sr c h) s 0x08 (Rec.base L))
    ∧ (¬ badRead → ¬ reach → Raises (.rread d rl sr c h) s 0x05 src)
    ∧ (¬ badRead → reach → s.resolve core p dw = none → Raises (.rread d rl sr c h) s 0x05 dw)
    ∧ (∀ rk e, ¬ badRead → reach → s.resolve core p dw = some (rk, e) →
        (∀ x, s.checkCw core p cw = some x → Raises (.rread d rl sr c h) s x.cause x.val)
        ∧ (s.checkCw core p cw = none → Submitted (exec (.rread d rl sr c h) s) s s (.rread L rk src.toNat) cw id))
    ∧ (recRefused L false = true → Raises (.rwrite d rl rt c h) s 0x08 (Rec.base L))
    ∧ (∀ S D, recRefused L false = false → recRefused T false = false → s.effective (s.ctx s.cur) L = .ok S → s.effective (s.ctx s.cur) T = .ok D →
        let plain := sizeClass (Rec.fmt S) ≠ 5 ∧ sizeClass (Rec.fmt D) ≠ 5 ∧ sameSize (Rec.fmt S) (Rec.fmt D) = true
        (¬ plain → Raises (.rwrite d rl rt c h) s 0x08 (Rec.base L))
        ∧ (plain → walkCount S ≠ walkCount D → Raises (.rwrite d rl rt c h) s 0x07 s.ir)
        ∧ (∀ rk e, plain → walkCount S = walkCount D → s.resolve core p dw = some (rk, e) → s.checkCw core p cw = none →
            Submitted (exec (.rwrite d rl rt c h) s) s s (.rwrite S D rk) cw id))
    ∧ (badHalo → Raises (.halo rt nb h hw) s 0x08 (Rec.base T))
    ∧ (¬ badHalo → (Rec.dim0 T < 3 * hw.toNat ∨ Rec.dim1 T < 3 * hw.toNat) → Raises (.halo rt nb h hw) s 0x07 s.ir)
    ∧ (∀ ps s1 vs nbs, ¬ badHalo → 3 * hw.toNat ≤ Rec.dim0 T → 3 * hw.toNat ≤ Rec.dim1 T → s.recParts .load (s.rs nb) = .ok ps →
        s.loadNow ps = some (s1, vs) → s1.neighbours ((List.range 4).map fun i => (i, BitVec.ofNat 64 (vs.getD i 0))) = .ok nbs →
        Submitted (exec (.halo rt nb h hw) s) s1 s (.halo T hw.toNat nbs) 0 id)

/-- R141 to R145: SHDW opens a shadow of its record when it fits, and parks the strand when it does not yet; it raises cause 0x07 where the
range meets an open shadow. PUBL closes the shadow, puts every byte written to it at its home and frees it, or raises cause 0x06 at the
lowest byte whose page is sealed now by a key the strand does not hold; DISC frees it alone; both raise cause 0x07 where none is open. A
clause that rests on the model's reading of an open point: log 32. -/
def Obligations.Shadows : Prop :=
  ∀ (s : State) (r : BitVec 4) (h : BitVec 2),
    let R := s.rb r
    let c := s.ctx s.cur
    let p := s.partOf s.cur
    let k := shKeyOf p R
    let x := s.part p
    let base := (Rec.base R).toNat
    let ok := s.shadowPages c (pagesOf base (Rec.extent R)) = .ok false ∧ s.shadowRegionBad c base (Rec.extent R) = false ∧ x.shadowRegion ≠ 0
    let clash := (∃ y ∈ x.shadows, y.key.overlaps k = true ∨ y.key = k) ∨ x.shadowRegion < shadowNeed (Rec.extent R)
    let s0 := s.writeBackAll (coreOf s.cur)
    let done := fun (t : State) => (t.part p).shadows = x.shadows.filter (fun y => y.key ≠ k) ∧ t.me = s.me.advance 8
      ∧ ∀ n, n ≠ s.cur → t.strand n = s.strand n
    (∀ e, rangeRefused R = some e → Raises (.shdw r h) s e.cause e.val ∧ Raises (.publ r h) s e.cause e.val ∧ Raises (.disc r h) s e.cause e.val)
    ∧ (rangeRefused R = none → ok →
        (clash → Raises (.shdw r h) s 0x07 s.ir)
        ∧ (¬ clash → ¬ s.Released → Waits (.shdw r h) s)
        ∧ (¬ clash → s.Released → x.shadowFits k = true → Completes (.shdw r h) s fun t =>
            (t.part p).shadows = x.shadows ++ [.new k] ∧ t.me = s.me.advance 8 ∧ MemSynced s t ∧ ∀ n, n ≠ s.cur → t.strand n = s.strand n)
        ∧ (¬ clash → s.Released → x.shadowFits k = false → Completes (.shdw r h) s fun t =>
            (t.part p).shadows = x.shadows ∧ t.me = { s.me with st := .parked, wait := .shadow k } ∧ MemSynced s t))
    ∧ (rangeRefused R = none → s.shadowOf p k = none → Raises (.publ r h) s 0x07 s.ir ∧ Raises (.disc r h) s 0x07 s.ir)
    ∧ (∀ y, rangeRefused R = none → s.shadowOf p k = some y → y.closed = false → s.cmds = [] → s.late = false → s.me.wait = .none →
        (¬ s.Released → ∀ i w, (i = .publ r h ∧ w = .publ k ∨ i = .disc r h ∧ w = .disc k) → Completes i s fun t =>
          t.me = { s.me with wait := w } ∧ t.mem = s.mem ∧ (∃ z, t.shadowOf p k = some z ∧ z.closed = true ∧ z.bytes = y.bytes)
          ∧ ∀ n, n ≠ s.cur → t.strand n = s.strand n)
        ∧ (s.Released → s.publishHeld p y = false → s0.lacks p (coreOf s.cur) y s.me.heldKeys = none → Completes (.publ r h) s fun t =>
          done t ∧ t.mem = y.bytes.foldl (fun m (b : Nat × Byte) => Memory.write m b.1 b.2) s0.mem)
        ∧ (∀ va, s.Released → s.publishHeld p y = false → s0.lacks p (coreOf s.cur) y s.me.heldKeys = some va →
          (s.target s.cur 0x06 va).2 ≠ 0 → Completes (.publ r h) s fun t =>
          t.mem = s0.mem ∧ (∃ z, t.shadowOf p k = some z ∧ z.closed = true ∧ z.bytes = y.bytes) ∧ t.me.csr.tcause = 0x06
          ∧ t.me.csr.tval = va ∧ t.me.csr.tpc = s.me.pc)
        ∧ (s.Released → Completes (.disc r h) s fun t => done t ∧ t.mem = s0.mem))

/-- R148 to R151, R343, R344: CPYT refuses an aperture of no engine of its partition and an index of 4,096 or more; its copy joins the
channel when the channel and the scoreboard have room, under the channel's next number, with the completion word of its template; a
template that fails is accepted as a failed command. WMRD reads a channel's state word; TMPLINV drops cached templates of the partition's
dies. Clauses that rest on the model's reading of an open point: logs 21, 39, 40, 41, 89, 90. -/
def Obligations.Copies : Prop :=
  ∀ (s : State) (a i d : BitVec 5) (h : BitVec 2),
    let p := s.partOf s.cur
    let w := s.rs a
    let iv := s.rs i
    let ch := (w.extractLsb' 0 11).toNat
    let ok := w.extractLsb' 11 53 = 0 ∧ (s.mask p).getLsbD ((w.extractLsb' 6 5).toNat / 4) = true
    let s0 := { s.writeBackAll (coreOf s.cur) with fresh := s.fresh + 1 }
    let c := s.newCmd (.start ch iv.toNat) 0
    let at_ := ((s.part p).ctbase &&& 0x00FFFFFFFFFF0000) + BitVec.ofNat 64 (128 * iv.toNat)
    let hit := ((s.die (ch / 256)).templates.find? fun e => e.1 = at_).map (·.2)
    let read := s0.templateParts c hit.isSome at_
    let room := (s.cmds.countP fun k => k.op.channel = some ch) < 16
    (¬ ok → Raises (.cpyt a i h) s 0x05 w ∧ Raises (.wmrd d a h) s 0x05 w)
    ∧ (ok → 4096 ≤ iv.toNat → Raises (.cpyt a i h) s 0x05 iv)
    ∧ (ok → iv.toNat < 4096 →
        (¬ s.Released → Waits (.cpyt a i h) s)
        ∧ (s.Released → s.late = true → Completes (.cpyt a i h) s fun t => t.issued = s.issued ++ [c] ∧ t.me = { s.me with wait := .accept })
        ∧ (s.Released → s.late = false → ¬ room → Waits (.cpyt a i h) s)
        ∧ (∀ e, s.Released → s.late = false → room → read = some (.error e) → Completes (.cpyt a i h) s fun t =>
            (∃ k, t.cmds = s.cmds ++ [k] ∧ k.op.channel = some ch ∧ k.cw = 0 ∧ k.seq = (s.chan ch).next.toNat ∧ ∃ f, k.fail = some f ∧ f.inner = e.1 ∧ f.addr = e.2)
            ∧ (t.chan ch).next = (s.chan ch).next + 1 ∧ t.me = s.me.advance 8)
        ∧ (∀ ps e, s.Released → s.late = false → room → read = some (.ok ps) →
            let T := s0.templateValue (hit.getD 0) ps
            s0.checkCw (coreOf s.cur) p (T.extractLsb' 576 64) = none → s0.copyOf c ch at_ T = some (.error e) → Completes (.cpyt a i h) s fun t =>
              (∃ k, t.cmds = s.cmds ++ [k] ∧ k.op.channel = some ch ∧ k.cw = T.extractLsb' 576 64 ∧ k.seq = (s.chan ch).next.toNat
                ∧ ∃ f, k.fail = some f ∧ f.inner = e.1 ∧ f.addr = e.2)
              ∧ (t.chan ch).next = (s.chan ch).next + 1 ∧ t.me = s.me.advance 8 ∧ t.mem = s0.mem)
        ∧ (∀ ps op, s.Released → s.late = false → room → read = some (.ok ps) →
            let T := s0.templateValue (hit.getD 0) ps
            let s1 := (s0.templateRead c ps).modDie (ch / 256) fun d =>
              if d.templates.any fun e => e.1 = at_ then d else { d with templates := d.templates ++ [(at_, T)] }
            s0.checkCw (coreOf s.cur) p (T.extractLsb' 576 64) = none → s0.copyOf c ch at_ T = some (.ok op) →
            s1.boardRoom (s1.ranges { c with op := op, cw := T.extractLsb' 576 64 }) = true →
            (∀ k ∈ s.cmds, k.part = p → k.op.channel = some ch ∨ k.op.channel = none) →
            Completes (.cpyt a i h) s fun t =>
              t.cmds = s.cmds ++ [{ c with op := op, cw := T.extractLsb' 576 64, seq := (s.chan ch).next.toNat }]
              ∧ (t.chan ch).next = (s.chan ch).next + 1 ∧ t.me = s.me.advance 8 ∧ t.mem = s0.mem
              ∧ (hit = none → (at_, T) ∈ (t.die (ch / 256)).templates) ∧ ∀ n, n ≠ s.cur → t.strand n = s.strand n))
    ∧ (ok → Completes (.wmrd d a h) s fun t => WroteS (s.event 4) t d
        (((s.chan ch).next.setWidth 64 <<< 48) ||| ((s.chan ch).cur.setWidth 64 <<< 32) ||| (s.chan ch).wm.setWidth 64) 8)
    ∧ (4096 ≤ iv.toNat → Raises (.tmplinv i h 0) s 0x05 iv)
    ∧ (∀ al : BitVec 1, (al = 1 ∨ iv.toNat < 4096) → s.Released → Completes (.tmplinv i h al) s fun t =>
        (∀ k < 8, (s.mask p).getLsbD k = true → ∀ e, e ∈ (t.die k).templates ↔ e ∈ (s.die k).templates ∧ al = 0 ∧ e.1 ≠ at_)
        ∧ t.me = s.me.advance 8 ∧ MemSynced s t)

/-- R345, R399: DIGEST stores, through its destination record, the first 32 bytes of SHAKE256 over the 32 bytes that stood there, the
length and the bytes of the source's walk; a record that is refused raises cause 0x08 and a length above 2^24 cause 0x07 with TVAL holding
it. The units of the destination are checked as loads, which come first, then as stores (R286). A destination in a replica slot leaves the
digest there too, and waits while the slot holds one. Clauses that rest on the model's reading of an open point: logs 33, 43, 91, 94. -/
def Obligations.Digests : Prop :=
  ∀ (s : State) (rd rs : BitVec 4) (h : BitVec 2),
    let D := s.rb rd
    let S := s.rb rs
    let c := s.ctx s.cur
    let refused := recRefused D false = true ∨ (Rec.fmt D ≠ 31 ∧ sizeClass (Rec.fmt D) ≠ 3)
    let check := fun acc => s.checkUnits c D 8 3 acc ((List.range 4).map fun (i : Nat) => (8 * i : Int))
    (refused → Raises (.digest rd rs h) s 0x08 (Rec.base D))
    ∧ (∀ e, ¬ refused → check .load = .trap e → RaisesAccess .load (.digest rd rs h) s e.cause e.val)
    ∧ (∀ ls e, ¬ refused → check .load = .ok ls → check .store = .trap e → RaisesAccess .store (.digest rd rs h) s e.cause e.val)
    ∧ (∀ ls ds E, ¬ refused → check .load = .ok ls → check .store = .ok ds → recRefused S false = false → s.effective c S = .ok E →
        let u := unitBytes (Rec.fmt E)
        let cls := sizeClass (Rec.fmt E)
        let len := walkCount S * u
        let old := placeUnits (s.thruOf c.p D false) 64 ds
        let out := placeUnits (s.thruOf c.p D true) 64 ds
        (2 ^ 24 < len → Raises (.digest rd rs h) s 0x07 (BitVec.ofNat 64 len))
        ∧ (∀ us n, len ≤ 2 ^ 24 → s.checkUnits c S u cls .load (walkOffsets S) = .ok us → s.slotOf c.p out = some n →
            (s.part c.p).slots.has n = true → Waits (.digest rd rs h) s)
        ∧ (∀ us s1 vs, len ≤ 2 ^ 24 → s.Settled → s.checkUnits c S u cls .load (walkOffsets S) = .ok us →
            (∀ n, s.slotOf c.p out = some n → (s.part c.p).slots.has n = false) →
            s.loadNow (old ++ placeUnits (s.thruOf c.p S false) 0 us) = some (s1, vs) →
            (∀ q ∈ out, special q = false ∧ ownPort (coreOf s.cur) q = false ∧ s.stagingBusy q = false) →
            let bytes := shake256 (unitBytesOf (zeroCode (s.zeroFmt c D)) 8 3 ds vs ++ bytesOf 8 len
              ++ unitBytesOf (zeroCode (Rec.fmt E)) u cls us (vs.drop old.length))
            let digest := bytes.foldr (fun b n => b.toNat + 256 * n) 0
            Completes (.digest rd rs h) s fun t =>
              t.mem = (s1.refreshed .store out).mem ∧ t.me.out.map (·.at_) = out
              ∧ t.me.out.map (·.val) = out.map (fun q => BitVec.ofNat 64 (digest / 2 ^ q.pos % 2 ^ (8 * q.size)))
              ∧ (t.part c.p).slots = (match s.slotOf c.p out with
                  | some n => (s.part c.p).slots.set n (BitVec.ofNat 256 digest)
                  | none => (s.part c.p).slots)
              ∧ { t.me with out := [] } = { s.me.advance 8 with out := [] } ∧ ∀ m, m ≠ s.cur → t.strand m = s.strand m))

/-! ## Tasks by launch, the Forge, the Bolter and the Assay -/

/-- R223 to R225, R332, R333: RFORK sets the cell's count to the number of chunks it spawns, takes as many ordinals, and hands the whole
trip to its own core when no strand is idle; with no iteration it fires the cell; it retires once its records for its own core have
entered. MFORK reads a launch packet, and queues it for its grant. Clauses that rest on the model's reading of an open point: logs 10, 26,
52. -/
def Obligations.Launches : Prop :=
  ∀ (s : State) (j c f tr pr : BitVec 5) (h : BitVec 2) (g : BitVec 16),
    let x := s.me
    let core := coreOf s.cur
    let p := s.partOf s.cur
    let w := s.rs j
    let trip := (s.rs tr).toNat
    let code := s.rs c
    let jj := (w.extractLsb' 0 12).toNat
    let cell := s.cell core jj
    let chunks := (trip + g.toNat - 1) / g.toNat
    let ready := cell.count = 0 ∧ cell.parked = false ∧ cell.arrivals = [] ∧ chunks ≤ 65536
    let strict := (s.part p).dmode
    let found := s.recruits p core chunks
    let r := if strict then chunks else if chunks = 0 then 0 else max 1 found.length
    let word := fun (q : BitVec 512) lo n => BitVec.ofNat 64 (q.toNat / 2 ^ lo % 2 ^ n)
    (w.extractLsb' 12 52 ≠ 0 → Raises (.rfork j c f tr h g) s 0x0B w)
    ∧ (w.extractLsb' 12 52 = 0 → trip < 2 ^ 32 → ¬ ready → Raises (.rfork j c f tr h g) s 0x0B w)
    ∧ (w.extractLsb' 12 52 = 0 → trip < 2 ^ 32 → g ≠ 0 → ready → code.extractLsb' 0 2 = 0 → code.extractLsb' 56 8 = 0 → ¬ s.Released →
        Waits (.rfork j c f tr h g) s)
    ∧ (w.extractLsb' 12 52 = 0 → trip < 2 ^ 32 → g ≠ 0 → ready → code.extractLsb' 0 2 = 0 → code.extractLsb' 56 8 = 0 → s.Released →
        Completes (.rfork j c f tr h g) s fun t =>
          (0 < chunks → (t.cell core jj).count = BitVec.ofNat 32 r) ∧ (chunks = 0 → (t.cell core jj).firing = cell.firing + 1)
          ∧ t.me.task.ordinal = x.task.ordinal + BitVec.ofNat 64 r ∧ (∀ n, t.rs n = s.rs n) ∧ TaskSynced s t
          ∧ (x.wait = .none → t.spawnHeld s.cur = false → t.me.pc = x.pc + 8)
          ∧ (t.spawnHeld s.cur = true → t.me.wait = .spawn 8)
          ∧ (strict = false → found = [] → 0 < chunks → ∃ q : TRec, Handed s t core q ∧ q.code = code ∧ q.frame = s.rs f ∧ q.level = x.level
              ∧ q.a0 = 0 ∧ q.a1 = s.rs tr ∧ q.a2 = 0 ∧ q.a3 = 1 ∧ q.cw = 0x1000 ||| w.setWidth 30))
    ∧ (s.unsorted (s.ctx s.cur) (s.rs pr) = true → Raises (.mfork pr h) s 0x04 (s.rs pr))
    ∧ (s.Settled → inLocal (s.rs pr) 64 → (s.rs pr).toNat % 64 = 0 →
        let q : BitVec 512 := BitVec.ofNat 512 (Memory.readN s.mem (s.localHome (s.rs pr)) 64)
        let cw := word q 192 64
        (s.packetRefused p q x.level.toNat = true → Raises (.mfork pr h) s 0x05 (s.rs pr))
        ∧ (s.packetRefused p q x.level.toNat = false → (word q 0 64).extractLsb' 0 2 = 0 → (word q 0 64).extractLsb' 56 8 = 0 →
            s.checkCw core p cw = none → (cwRemote cw = true → s.namesOrdered p core cw = false) → Completes (.mfork pr h) s fun t =>
              (∃ l : Launch, (t.part p).launches = (s.part p).launches ++ [l] ∧ l.packet = q ∧ l.by_ = some s.cur ∧ l.path = x.task.path
                ∧ l.ord = x.task.ordinal ∧ l.outer = x.task.launches)
              ∧ t.me = { x.advance 8 with task := { x.task with ordinal := x.task.ordinal + BitVec.ofNat 64 (packetCores q).length } }
              ∧ MemSynced s t ∧ ∀ n, n ≠ s.cur → t.strand n = s.strand n))

/-- R347, R350, R353, R354, R401: HREL, HREF, HCALL and HSTAT on a handle; SPEC queues its request at its die's Forge. A word that names no
handle in use raises cause 0x0D with TVAL holding it; each waits for the strand's earlier SO accesses (R402). A clause that rests on the
model's reading of an open point: log 35. A clause that rests on the model's reading of an open point: log 91. -/
def Obligations.Handles : Prop :=
  ∀ (s : State) (hd d sr : BitVec 5) (ra : BitVec 4) (h : BitVec 2),
    let w := s.rs hd
    let p := s.partOf s.cur
    let i := w.extractLsb' 0 12
    let y := (s.part p).handle i
    let A := s.rb ra
    let dv := s.rs d
    let sw := s.rs sr
    (s.me.soReady = false → ∀ i, (i = .hrel hd h ∨ i = .href hd h ∨ i = .hcall hd h ∨ i = .hstat d hd h ∨ i = .spec d sr ra h) → Waits i s)
    ∧ (s.me.soReady = true →
    ((w.extractLsb' 12 52 ≠ 0 ∨ y.ref = 0) → Raises (.hrel hd h) s 0x0D w ∧ Raises (.href hd h) s 0x0D w ∧ Raises (.hcall hd h) s 0x0D w)
    ∧ (w.extractLsb' 12 52 ≠ 0 → Raises (.hstat d hd h) s 0x0D w)
    ∧ (w.extractLsb' 12 52 = 0 → Completes (.hstat d hd h) s fun t => WroteS s t d
        ((bit (y.ref ≠ 0) <<< 63) ||| (bit y.bound <<< 62) ||| (bit y.kept <<< 61) ||| (bit y.held <<< 60)
          ||| (BitVec.ofNat 64 (y.len % 2 ^ 17) <<< 32) ||| (y.res.setWidth 64 <<< 16) ||| y.ref.setWidth 64) 8)
    ∧ (w.extractLsb' 12 52 = 0 → y.ref ≠ 0 →
        (y.ref = 0xFFFF → Raises (.href hd h) s 0x0D w)
        ∧ (y.ref ≠ 0xFFFF → Completes (.href hd h) s fun t =>
            t.me = s.me.advance 8 ∧ MemKept s t ∧ (t.part p).handle i = { y with ref := y.ref + 1 }
            ∧ ∀ k, k ≠ i → (t.part p).handle k = (s.part p).handle k)
        ∧ (1 < y.ref.toNat → Completes (.hrel hd h) s fun t =>
            t.me = s.me.advance 8 ∧ MemKept s t ∧ (t.part p).handle i = { y with ref := y.ref - 1 }
            ∧ ∀ k, k ≠ i → (t.part p).handle k = (s.part p).handle k)
        ∧ (y.ref = 1 → y.held = true → y.res = 0 → Completes (.hrel hd h) s fun t =>
            t.me = s.me.advance 8 ∧ MemKept s t ∧ (y.src = none → (t.part p).handle i = .free))
        ∧ (s.me.tag.isSome = true → Raises (.hcall hd h) s 0x0D w)
        ∧ (s.me.tag = none → Completes (.hcall hd h) s fun t =>
            t.me.pc = y.base ∧ t.me.fbuf = [] ∧ t.me.tag = some i ∧ t.me.tagRet = some (s.me.pc + 8) ∧ t.rs 1 = s.me.pc + 8 ∧ MemKept s t
            ∧ (s.me.tagRet = none → ((t.part p).handle i).res = y.res + 1)))
    ∧ (dv.extractLsb' 12 52 ≠ 0 → Raises (.spec d sr ra h) s 0x0D dv)
    ∧ (∀ us s1 vs, dv.extractLsb' 12 52 = 0 → sw.extractLsb' 12 52 = 1#52 <<< 51 → ((s.part p).handle (sw.extractLsb' 0 12)).ref ≠ 0 →
        let z := (s.part p).handle (sw.extractLsb' 0 12)
        recRefused A false = false → (Rec.fmt A = 31 ∨ sizeClass (Rec.fmt A) = 3) →
        s.checkUnits (s.ctx s.cur) A 8 3 .load ((earlyRegs z.map).map fun (i : Nat) => (8 * i : Int)) = .ok us →
        s.loadNow (placeUnits (s.thruOf p A false) 0 us) = some (s1, vs) → Completes (.spec d sr ra h) s fun t =>
          t.me = { s1.me with wait := .forge } ∧ t.mem = s1.mem
          ∧ ∃ q, (t.die (dieOfCore (coreOf s.cur))).forge.getLast? = some q ∧ q.strand = s.cur ∧ q.index = dv.setWidth 12 ∧ q.code = z.base
              ∧ q.size = z.bytes ∧ q.map = z.map ∧ q.src = some (sw.extractLsb' 0 12) ∧ q.d = d ∧ q.args.map (·.1) = earlyRegs z.map))

/-- R360 to R367: STGDEF installs or removes a set; STGPUT puts a record once; STGEND reports the outcome of the strand's stage; STGSEQ
goes on in its turn or parks; STGSNAP stores the counts of a complete window. What is out of range raises cause 0x05 with TVAL holding it.
Clauses that rest on the model's reading of an open point: logs 36, 43, 91. -/
def Obligations.BolterSets : Prop :=
  ∀ (s : State) (st i o a w : BitVec 5) (rd : BitVec 4) (h : BitVec 2),
    let p := s.partOf s.cur
    let sv := s.rs st
    let iv := s.rs i
    let ov := s.rs o
    let set := sv.extractLsb' 0 4
    let R := s.rb rd
    let va := s.rs a
    let words := fun n => if n < 36 then BitVec.ofNat 64 (Memory.readN s.mem (s.localHome va + 8 * n) 8) else 0
    (recRefused R false = true → Raises (.stgdef a rd h) s 0x08 (Rec.base R))
    ∧ (s.Settled → recRefused R false = false → inLocal va 288 → va.toNat % 32 = 0 →
        (s.badSet words R = true → Raises (.stgdef a rd h) s 0x05 va)
        ∧ (s.badSet words R = false → s.checkCw (coreOf s.cur) p (words 2) = none → Completes (.stgdef a rd h) s fun t =>
            t.me = s.me.advance 8 ∧ MemKept s t
            ∧ (t.part p).sets = (let b := s.newSet words R
                                 let n := ((words 1).extractLsb' 4 4).toNat
                                 if b.n = 0 then (s.part p).sets.del n else (s.part p).sets.set n b)))
    ∧ ((16 ≤ sv.toNat ∨ (s.part p).set? set = none) →
        Raises (.stgput st i h) s 0x05 sv ∧ Raises (.stgend st i o h) s 0x05 sv ∧ Raises (.stgseq st i h) s 0x05 sv ∧ Raises (.stgsnap rd st w h) s 0x05 sv)
    ∧ (∀ b, sv.toNat < 16 → (s.part p).set? set = some b →
        (b.count ≤ iv.toNat → Raises (.stgput st i h) s 0x05 iv ∧ Raises (.stgend st i o h) s 0x05 iv ∧ Raises (.stgseq st i h) s 0x05 iv)
        ∧ (iv.toNat < b.count →
            (b.records.has iv.toNat = true → Raises (.stgput st i h) s 0x05 iv)
            ∧ (b.records.has iv.toNat = false → b.mayPut (iv.toNat / 4096) = true → s.Released → Completes (.stgput st i h) s fun t =>
                t.me = s.me.advance 8 ∧ MemSynced s t
                ∧ ∃ b', (t.part p).set? set = some b' ∧ b'.records = b.records.set iv.toNat { done := 0, running := none })
            ∧ (s.myStage set iv.toNat = none → Raises (.stgend st i o h) s 0x05 iv)
            ∧ (∀ k, s.myStage set iv.toNat = some k →
                (2 < ov.toNat → Raises (.stgend st i o h) s 0x05 ov)
                ∧ ((ov = 0 ∨ ov = 1 ∨ (ov = 2 ∧ b.fx = true)) → s.Released → Completes (.stgend st i o h) s fun t =>
                    (s.me.wait = .none → t.me.pc = s.me.pc + 8) ∧ (∀ r, t.rs r = s.rs r)
                    ∧ ∃ b', (t.part p).set? set = some b' ∧ (b'.records.get BoltRec.new iv.toNat).running = none
                      ∧ (b'.records.get BoltRec.new iv.toNat).done
                          = if ov = 1 then 0xFF else (b.records.get BoltRec.new iv.toNat).done ||| (1#8 <<< k))
                ∧ (b.fx = true → b.turn iv.toNat k = true → Completes (.stgseq st i h) s fun t => Retired s t 8)
                ∧ (b.fx = true → b.turn iv.toNat k = false → Completes (.stgseq st i h) s fun t =>
                    OthersKept s t ∧ t.me = { s.me with st := .parked, wait := .turn set iv.toNat k }))
            ∧ (b.fx = false → Raises (.stgseq st i h) s 0x05 sv))
        ∧ (∀ us, 0 < b.count → recRefused R false = false → (Rec.fmt R = 31 ∨ sizeClass (Rec.fmt R) = 3) → b.complete (s.rs w).toNat = true → s.Settled →
            s.checkUnits (s.ctx s.cur) R 8 3 .store ((List.range 16).map fun (i : Nat) => (8 * i : Int)) = .ok us →
            (∀ u ∈ us, ∃ q e, u = some ([q], e) ∧ special q = false ∧ ownPort (coreOf s.cur) q = false ∧ s.stagingBusy q = false) →
            Completes (.stgsnap rd st w h) s fun t =>
              t.mem = (s.refreshed .store (placeUnits (s.thruOf p R true) 0 us)).mem ∧ t.me.out.map (·.val) = (b.counts (s.rs w).toNat).map (BitVec.ofNat 64)
              ∧ { t.me with out := [] } = { s.me.advance 8 with out := [] } ∧ ∀ n, n ≠ s.cur → t.strand n = s.strand n))

/-- R368, R370 to R372: GLNCH raises what it finds first; a launch of one tile opens its shadow, takes three ordinals and retires. GRES
gives the tile's verdict once. GSTAT parks while a launch of its descriptor is in flight, then loads its status word. Clauses that rest on
the model's reading of an open point: logs 37, 38, 52. -/
def Obligations.GuardedLaunches : Prop :=
  ∀ (s : State) (rt : BitVec 4) (d a dd : BitVec 5) (h : BitVec 2),
    let p := s.partOf s.cur
    let c := s.ctx s.cur
    let va := s.rs dd
    let R := s.rb rt
    let ga := s.rs a
    let fresh := ∀ y ∈ (s.part p).assays, ¬ (y.by_ = s.cur ∧ y.pc = s.me.pc ∧ y.opened < y.tiles.length)
    (fresh → s.me.soReady = false → Waits (.glnch rt dd h) s)
    ∧ (∀ ps s1 vs, fresh → s.me.soReady = true → s.recParts .load va = .ok ps → s.loadNow ps = some (s1, vs) →
        let w := fun i => BitVec.ofNat 64 (vs.getD i 0)
        let sur := (w 0).extractLsb' 0 12
        let chk := (w 0).extractLsb' 16 12
        let exa := (w 0).extractLsb' 32 12
        let live := fun (k : BitVec 12) => ((s1.part p).handle k).ref ≠ 0
        (¬ live sur → exec (.glnch rt dd h) s = .next (s1.deliver 0x0D (sur.setWidth 64) s1.me.pc))
        ∧ (live sur → live chk → live exa → (w 0) &&& 0xFFF8F000F000F000 ≠ 0 → exec (.glnch rt dd h) s = .next (s1.deliver 0x05 (w 0) s1.me.pc))
        ∧ (∀ E r o, live sur → live chk → live exa → (w 0) &&& 0xFFF8F000F000F000 = 0 → s1.checkCw (coreOf s.cur) p (w 1) = none →
            recRefused R false = false → Rec.dim1 R = 1 → 0 ≤ Rec.stride0 R → s1.effective c R = .ok E → tileRecord R (unitBytes (Rec.fmt E)) 0 = .ok r →
            tilesLeave R [r] = some o → exec (.glnch rt dd h) s = .next (s1.deliver 0x07 o s1.me.pc))
        ∧ (∀ E r, live sur → live chk → live exa → (w 0) &&& 0xFFF8F000F000F000 = 0 → s1.checkCw (coreOf s.cur) p (w 1) = none →
            recRefused R false = false → Rec.dim1 R = 1 → 0 ≤ Rec.stride0 R → s1.effective c R = .ok E → tileRecord R (unitBytes (Rec.fmt E)) 0 = .ok r → tilesLeave R [r] = none →
            s1.tilesCheck c ((s1.part p).shadows.map (·.key)) [r] = .ok () → (s1.part p).assays.length < 64 → s1.Released →
            (s1.part p).shadowFits (shKeyOf p r) = true → (∀ y ∈ (s1.part p).assays, y.id ≠ s1.fresh) → Completes (.glnch rt dd h) s fun t =>
              (t.part p).shadows = (s1.part p).shadows ++ [.new (shKeyOf p r)] ∧ (t.spawnHeld s.cur = false → t.me.pc = s.me.pc + 8) ∧ t.me.task.ordinal = s1.me.task.ordinal + 3
              ∧ (∀ r, t.rs r = s1.rs r)
              ∧ ∃ y ∈ (t.part p).assays, y.desc = va ∧ y.cw = w 1 ∧ y.frame = w 2 ∧ y.sur = sur ∧ y.chk = chk ∧ y.exa = exa ∧ y.opened = 1
                  ∧ y.tol = (s.me.csr.atol.toList.getD ((w 0).extractLsb' 48 3).toNat 0).setWidth 32))
    ∧ ((∀ l i, s.me.task.role ≠ .tile l i 1) → Raises (.gres a h) s 0x0C 0)
    ∧ (∀ l i y z, s.me.task.role = .tile l i 1 → (s.part p).assays.find? (fun q => q.id = l) = some y → y.tiles[i]? = some z →
        (z.verdict.isSome = true → Raises (.gres a h) s 0x0C 0)
        ∧ (z.verdict = none → Completes (.gres a h) s fun t => t.me = s.me.advance 8 ∧ MemKept s t
            ∧ (t.part p).tile? l i = some { z with verdict := some (residualPasses (ga.setWidth 32) y.tol) }
            ∧ ∀ n, n ≠ s.cur → t.strand n = s.strand n))
    ∧ ((∃ y ∈ (s.part p).assays, y.desc = ga) → Completes (.gstat d a h) s fun t =>
        OthersKept s t ∧ t.me = { s.me with st := .parked, wait := .launch ga })
    ∧ ((∀ y ∈ (s.part p).assays, y.desc ≠ ga) →
        (∀ e, (s.routeScalar c .load (ga + 0x18) 8 = .fault e ∨ s.routeScalar c .load (ga + 0x18) 8 = .invalid e) →
          RaisesAccess .load (.gstat d a h) s e.cause e.val)
        ∧ (∀ q e, s.Settled → s.routeScalar c .load (ga + 0x18) 8 = .ok q e → s.Takes q → ownPort (coreOf s.cur) q = false →
          Completes (.gstat d a h) s fun t =>
            Touched s t .load [q] ∧ Strand.SameButS s.me t.me ∧ (∀ r, r ≠ d → t.rs r = s.rs r) ∧ t.me.pc = s.me.pc + 8
            ∧ t.rs d = if d = 0 then 0 else BitVec.ofNat 64 ((s.loadBits 0 [q]).toNat % 2 ^ 64)))

/-! ## Steps of the ordering machine (R117, R126, R131, R132, R293) -/

/-- R117, R127, R129: a load step fixes its part, and on an SO page the parts of the access on that page together; through kind 0 of the
core's own slot it joins the loop-back port. An enter step moves all parts of a store into the outboxes, or into the port. A loop-back step
performs the access at the bank, a store through an open shadow in that (R143). Clauses that rest on the model's reading of an open point:
logs 1, 17. -/
def Sys2Proof.Claims.EntrySteps : Prop :=
  ∀ (s : State) (t n j : Nat),
    let x := s.strand t
    let own := coreOf t
    (∀ q a, x.pend[n]? = some q → q.atom = none → q.store = none → q.parts[j]? = some a →
        let mine := fun b => b = a ∨ (a.kind = .so ∧ q.lanes = false ∧ b.kind = .so ∧ b.samePage a = true)
        (a.kind = .so → q.lanes = true → ∀ b ∈ q.parts.take j, b.kind ≠ .so) →
        (∀ b ∈ q.parts, mine b → s.pendWaits t n q b false = false ∧ s.sleeps b = false) →
        let ps := (q.parts.filter mine).map (s.uncopied q.win)
        let rest := q.parts.filter fun b => ¬ mine b
        ((∀ b ∈ ps, s.joins t b = false) → Completes (.load t n j) s fun u =>
          let got := s.fix t q.got ps
          MemKept s u ∧ OtherStrands t s u
          ∧ (rest ≠ [] ∨ q.ported ≠ 0 → (u.strand t).uncounted = Strand.uncounted { x with pend := x.pend.set n { q with parts := rest, got := got } })
          ∧ (rest = [] → q.ported = 0 → u.strand t = Strand.bring { x with pend := x.pend.eraseIdx n } q.id q.dst got))
        ∧ ((∀ b ∈ ps, s.joins t b = true) → Completes (.load t n j) s fun u =>
          MemKept s u ∧ OtherStrands t s u
          ∧ u.strand t = { x with pend := x.pend.set n { q with parts := rest, ported := q.ported + ps.length },
                                  port := x.port ++ ps.map fun b => (⟨b, none, q.id⟩ : PortEntry) }))
    ∧ (∀ q rel, x.pend[n]? = some q → q.store = some rel → q.parts ≠ [] → q.need = [] →
        (∀ a ∈ q.parts, s.pendWaits t n q a true = false ∧ s.portWaits t q.id rel a = false) →
        ((∀ a ∈ q.parts, ownPort own a = false) → Completes (.enter t n) s fun u =>
          { u with strands := s.strands } = s ∧ OtherStrands t s u
          ∧ u.strand t = { x with pend := x.pend.eraseIdx n,
                                  out := x.out ++ q.parts.map fun a => (⟨s.uncopied q.win a, partData q.got a, rel, q.id⟩ : Out) })
        ∧ ((∀ a ∈ q.parts, ownPort own a = true) → Completes (.enter t n) s fun u =>
          u.mem = (if ∃ c, rel = some c ∧ c ≠ 0 then (s.writeBackAll own).mem else s.mem) ∧ OtherStrands t s u
          ∧ u.strand t = { x with pend := x.pend.eraseIdx n,
                                  port := x.port ++ q.parts.map fun a => (⟨s.uncopied q.win a, some (partData q.got a), q.id⟩ : PortEntry) }))
    ∧ (∀ q rel, x.pend[n]? = some q → q.store = some rel → q.need ≠ [] → exec (.enter t n) s = .fault .notEnabled)
    ∧ (∀ e, x.port[n]? = some e → (∀ q ∈ x.port.take n, q.at_.meets e.at_ = false) →
        (s.core own).boarded ((localOffset own e.at_).getD 0) e.at_.size (e.val.isSome || x.portAtom e) = false →
        Completes (.loopBack t n) s fun u =>
          OtherStrands t s u ∧ (u.strand t).port = x.port.eraseIdx n ∧ (u.strand t).pc = x.pc
          ∧ (∀ v, e.val = some v → s.shadowTakes t e.at_.thru = none → u.mem = Memory.writeN s.mem e.at_.key e.at_.size v.toNat)
          ∧ (∀ v h, e.val = some v → s.shadowTakes t e.at_.thru = some h →
              u.mem = s.mem ∧ (u.part (s.partOf t)).shadows = ((s.shadowPut (s.partOf t) h e.at_ v).part (s.partOf t)).shadows)
          ∧ (e.val = none → x.portAtom e = false → u.mem = s.mem)
          ∧ (∀ q r, e.val = none → x.pend.find? (fun q => q.id = e.id) = some q → q.atom = some r →
              u.mem = (s.atomStep (s.partOf t) own e.at_ r).1.mem))

/-- R117, R120: a drain step takes a store out of an outbox, to the home or into the core copy (a store into registers: RegisterStores);
the parts of an SO access on one page leave together, data and scale bytes apart in either order (R99), and a release of scope `.clu` or
wider writes back first. Clauses that rest on the model's reading of an open point: logs 1, 17. -/
def Sys2Proof.Claims.DrainSteps : Prop :=
  ∀ (s : State) (t n : Nat) (home : Bool) (o : Out),
    let x := s.strand t
    let own := coreOf t
    let a := o.at_
    let mine := fun (q : Out) => q.id = o.id ∧ (q.at_ = a ∨ (a.kind = .so ∧ q.at_.kind = .so ∧ q.at_.samePage a = true))
    let go := x.out.filter mine
    let wide := ∃ c, o.rel = some c ∧ c ≠ 0
    let gone := fun (u : State) => OtherStrands t s u
      ∧ (u.strand t).uncounted = Strand.uncounted { x with out := x.out.filter fun q => ¬ mine q }
    x.out[n]? = some o → (∀ q ∈ x.out.take n, q.at_.meets a = false ∧ (a.kind = .so → q.id ≠ o.id → q.at_.kind ≠ .so)) →
    (∀ c, o.rel = some c → if a.kind = .uo then c = 0 ∨ s.backHeld own = false else s.strlReady t o.id c = true) →
    (∀ q ∈ go, q.at_.thru = none ∧ s.swapBytes (s.partOf t) q.at_.key q.at_.size = false ∧ special q.at_ = false
      ∧ s.sleeps q.at_ = false ∧ s.stagingBusy q.at_ = false
      ∧ (q.at_.name = .alias_ → (s.core own).boarded q.at_.va.toNat q.at_.size true = false)) →
    let moved := fun (m : List Host.Cell) => go.foldl (fun m q => Memory.writeN m (s.keyOf q.at_) q.at_.size q.val.toNat) m
    (wide → Completes (.drain t n home) s fun u => gone u ∧ u.mem = moved (s.writeBackAll own).mem)
    ∧ (¬ wide → Completes (.drain t n true) s fun u => gone u ∧ u.mem = moved s.mem)
    ∧ (∀ e l, ¬ wide → a.cached = true → s.tlbFor (s.partOf t) own a = some e →
        ((s.fillFor (s.partOf t) own a e).core own).line a.key = some l → Completes (.drain t n false) s fun u =>
          gone u ∧ CoreSynced own s u ∧ (u.core own).line a.key = some (l.setBytes a.key true a.size o.val))

/-- R41, R117, R122, R126, R131, R132, R293: fill, write-back, drop and fetch steps move a line or a word; an atomic left for later acts in
one step; an open fence of a strand completes when its condition holds, whatever others are open. Clauses that rest on the model's reading
of an open point: logs 1, 17, 61, 62, 67. -/
def Sys2Proof.Claims.OtherSteps : Prop :=
  ∀ (s : State) (t n core line : Nat),
    let x := s.strand t
    let own := coreOf t
    (∀ e ∈ (s.core core).tlb, Pte.frame e.lo ≤ line → line < Pte.frame e.lo + (if e.large = true then 2 ^ 26 else 2 ^ 16) → Pte.ord e.lo ≠ 0 →
        line % 64 = 0 → (s.core core).line line = none → Completes (.fill core line) s fun u =>
          CoreSynced core s u ∧ (∀ m, u.strand m = s.strand m)
          ∧ ∃ l, (u.core core).line line = some l ∧ l.data = BitVec.ofNat 512 (Memory.readN u.mem line 64) ∧ l.dirty = 0)
    ∧ (∀ l, line % 64 = 0 → (s.core core).line line = some l →
        (l.dirty ≠ 0 → s.lineHeld core (line, l) = false → Completes (.writeBack core line) s fun u =>
          (∀ m, u.strand m = s.strand m) ∧ (u.core core).line line = some { l with dirty := 0 }
          ∧ (s.MemWf → ∀ a, Memory.read u.mem a =
              if line ≤ a ∧ a < line + 64 ∧ l.dirty.getLsbD (a - line) = true then l.data.extractLsb' (8 * (a - line)) 8 else Memory.read s.mem a))
        ∧ (l.dirty = 0 → Completes (.drop core line) s fun u =>
          MemKept s u ∧ (∀ m, u.strand m = s.strand m) ∧ (u.core core).lines = (s.core core).lines.del line))
    ∧ (∀ w e, x.st ≠ .free → x.fbuf.length < 8 → s.fetchWord t (x.pc + BitVec.ofNat 64 (4 * x.fbuf.length)) = .word w e →
        Completes (.fetch t) s fun u =>
          u.mem = (s.refetch t x.fbuf.length).mem ∧ OtherStrands t s u ∧ u.strand t = { x with fbuf := x.fbuf ++ [w] })
    ∧ (∀ q r a, x.pend[n]? = some q → q.atom = some r → q.parts = [a] → q.parked = false → q.need = [] →
        s.pendWaits t n q a false = false → s.pendWaits t n q a true = false → s.sleeps a = false →
        let a' := s.uncopied q.win a
        (ownPort own a' = true → Completes (.atomic t n) s fun u => MemKept s u ∧ OtherStrands t s u
          ∧ u.strand t = { x with pend := x.pend.set n { q with parts := [], ported := 1 }, port := x.port ++ [⟨a', none, q.id⟩] })
        ∧ (ownPort own a' = false → s.atomHeld t a' = false →
          let y := s.atomStep (s.partOf t) own a' r
          Completes (.atomic t n) s fun u =>
            OtherStrands t s u ∧ u.mem = y.1.mem ∧ u.strand t = Strand.atomBring { x with pend := x.pend.eraseIdx n } q.id r y.2))
    ∧ (let first := fun (kind : Fence → Bool) => x.fences.find? fun g => kind g.2 && s.fenceDone t g.1 g.2
        let data := fun (f : Fence) => match f with | .fence _ => true | _ => false
        let closed := fun (i : Nat) => ({ x with fences := x.fences.filter fun g => g.1 ≠ i } : Strand)
        (∀ i c, first data = some (i, .fence c) → Completes (.fenceComplete t) s fun u =>
          u.strand t = closed i ∧ OtherStrands t s u ∧ CoreSynced own s u ∧ (c ≠ 0 → (u.core own).lines = []))
        ∧ (∀ i f, first (fun f => f = .lbfenc) = some (i, f) → Completes (.lbfencComplete t) s fun u => u = s.setStrand t (closed i))
        ∧ (∀ i f, first (fun f => f = .ifenc) = some (i, f) → Completes (.ifencComplete t) s fun u =>
          u.strand t = { closed i with fbuf := [] } ∧ OtherStrands t s u ∧ CoreSynced own s u)
        ∧ (∀ i f, first (fun f => f = .efenc) = some (i, f) → Completes (.efencComplete t) s fun u =>
          u.strand t = closed i ∧ OtherStrands t s u ∧ MemKept s u
          ∧ (u.core own).lines = (s.core own).lines.filter fun l => !(l.2.dirty = 0 && l.2.rc))
        ∧ (first data = none → exec (.fenceComplete t) s = .fault .notEnabled)
        ∧ (first (fun f => f = .lbfenc) = none → exec (.lbfencComplete t) s = .fault .notEnabled)
        ∧ (first (fun f => f = .ifenc) = none → exec (.ifencComplete t) s = .fault .notEnabled)
        ∧ (first (fun f => f = .efenc) = none → exec (.efencComplete t) s = .fault .notEnabled))

/-- R99, R117, R119, R120, R122, R126, R127, R129, R131, R132, R143, R293: the steps of the ordering machine happen when the rules allow
them, and move what they say; one asked for before its condition holds is no step of the machine. Clauses that rest on the model's reading
of an open point: logs 1, 16, 17, 61, 62, 67, 91. -/
def Obligations.OrderingSteps : Prop := Claims.EntrySteps ∧ Claims.DrainSteps ∧ Claims.OtherSteps

/-! ## Steps of engine commands (R133 to R137, R156 to R158, R297) -/

/-- R133 to R135, R156 to R158, R297, R312, R338: an issued command is accepted when its queue and the scoreboard have room; a piece that
may be read or written is taken once, the rows of RWRITE and HALO in ascending order; a piece that fails stops its command, or parks; a
command whose pieces are taken, or that has failed, completes and leaves the machine; LBSWP exchanges the sets; a parked request is
replayed. Clauses that rest on the model's reading of an open point: logs 39, 42, 46, 48, 67, 73, 74. -/
def Obligations.CommandSteps : Prop :=
  ∀ (s : State) (t id i n : Nat) (b : BitVec 3),
    let own := fun (c : Cmd) => octetOf c.core
    (∀ c, s.issued.find? (fun c => c.by_ = t) = some c →
        let left := fun (u : State) => u.issued = s.issued.filter (fun k => k.id ≠ c.id) ∧ (u.strand t).wait = .none ∧ MemKept s u
        let taken := fun (m : Nat) => match c.op with | .rread _ rk _ | .rwrite _ _ rk => s.rankPlace c.part rk = some m | _ => False
        (s.viewHolds c = false → Completes (.accept t) s fun u => left u ∧ OtherStrands t s u ∧ u.cmds = s.cmds ∧ (u.strand t).pc = (s.strand t).pc)
        ∧ (s.viewHolds c = true → (∀ ch k, c.op ≠ .start ch k) →
            (c.op.isLoom = true → (s.cmds.countP fun k => k.core = c.core && k.op.isLoom) < 16) → s.boardRoom (s.ranges c) = true →
            Completes (.accept t) s fun u =>
              left u ∧ (∃ q, u.cmds = s.cmds ++ [{ c with seq := q }]) ∧ (u.strand t).pc = (s.strand t).pc + 8
              ∧ ∀ m, m ≠ t → (¬ taken m → u.strand m = s.strand m) ∧ (taken m → u.strand m = { s.strand m with rcvd := (s.strand m).rcvd + 1 })))
    ∧ (∀ c, s.cmd? id = some c → s.mayStep c = true → i < c.op.readCount → c.got.has i = false → c.parked.contains (2 * i) = false →
        c.readReady i = true →
        let R := fun (s' : State) (c' : Cmd) => Completes (.engineRead id i) s fun u =>
          u.mem = s'.mem ∧ (∀ m, u.strand m = s.strand m) ∧ u.cmd? id = some c'
        let piece := c.op.readPiece i
        let s' := s.pieceDiscard c .load piece
        (s.bitmapGone c = true → R s (c.stop 0x13 9 (c.op.readRow i)))
        ∧ (s.bitmapGone c = false →
            (∀ a, s.pieceRoute c .load piece = .ok a → s.engineWaits c.part a false = false →
              R s' (Cmd.saw { c with got := c.got.set i (s'.engineLoad (piece.key c.part) a) } false a))
            ∧ (s.pieceRoute c .load piece = .dropped → R s { c with got := c.got.set i piece.zeros })
            ∧ (∀ x va, s.pieceRoute c .load piece = .fail x va false → R s' (c.stop x va (c.op.readRow i)))))
    ∧ (∀ c, s.cmd? id = some c → s.mayStep c = true → c.writeReady i = true → c.parked.contains (2 * i + 1) = false →
        (c.op.rows = true → (c.rowParked i).2 = false) → s.bitmapGone c = false →
        (∀ r pad, c.op = .lbld r pad → Completes (.engineWrite id i) s fun u =>
          u.cmd? id = some { c with wrote := c.wrote.set i () } ∧ (∀ m, u.strand m = s.strand m)
          ∧ (i = 0 → u.mem = loomPadSet s.mem (loomBase (own c) !(s.loom (own c)).act) pad))
        ∧ ((∀ r pad, c.op ≠ .lbld r pad) → (∀ rk, c.op.landing i = some rk → s.messagesBefore c rk = false) →
            let piece := c.op.writePiece i
            let s' := s.pieceDiscard c .store piece
            (∀ a, s.pieceRoute c .store piece = .ok a → s.rowReady c i = true → (a.kind = .so ∨ c.op.isRwrite = false → c.rowsWritten i = true) →
              s.engineWaits c.part a true = false → special a = false → s.engineShadow c (piece.key c.part) = none →
              (∀ l ∈ s.lands, l.1 ≠ c.id → l.2.1 = none → l.2.2.1 + l.2.2.2 ≤ s.keyOf a ∨ s.keyOf a + a.size ≤ l.2.2.1) →
              Completes (.engineWrite id i) s fun u =>
                let v := s'.writeValue c i (s'.pieceGeom c a)
                u.cmd? id = some (Cmd.saw { c with wrote := c.wrote.set i (), flags := c.flags ||| v.2 } true a)
                ∧ (c.op.isRwrite = false → (c.id, none, s.keyOf a, a.size) ∈ u.lands ∧ u.mem = Memory.writeN s'.mem (s.keyOf a) a.size v.1.toNat))
            ∧ (∀ a, s.pieceRoute c .store piece = .ok a → s.rowReady c i = false ∨ (a.kind = .so ∧ c.rowsWritten i = false) →
              exec (.engineWrite id i) s = .fault .notEnabled)
            ∧ (∀ x va, s.pieceRoute c .store piece = .fail x va false → s.rowReady c i = true → Completes (.engineWrite id i) s fun u =>
                u.cmd? id = some (c.stop x va (c.op.rowOf i)) ∧ u.mem = s'.mem)))
    ∧ (∀ c, s.cmd? id = some c → s.atHead c = true → c.parked = [] → c.op ≠ .lbswp → (c.fail.isSome = true ∨ (c.taken = true ∧ s.mayStep c = true)) →
        Completes (.complete id) s fun u => u.cmds = s.cmds.filter (fun k => k.id ≠ c.id)
          ∧ (c.fail = none → (∀ o sc k g col key min_ blk, c.op ≠ .topk o sc k g col key min_ blk) → (∀ x y z, c.op ≠ .rwrite x y z) →
              (∀ m ∈ s.net, m.sender ≠ engineSender c.id) → cwValid c.cw = true → cwRemote c.cw = false → 1 < (s.cell c.core (cwCell c.cw).toNat).count.toNat →
              (u.cell c.core (cwCell c.cw).toNat).count = (s.cell c.core (cwCell c.cw).toNat).count - 1))
    ∧ (∀ c, s.cmd? id = some c → c.op = .lbswp → s.mayStep c = true → Completes (.lbswpExchange id) s fun u =>
        (u.loom (own c)).act = (!(s.loom (own c)).act) ∧ u.cmds = s.cmds.filter fun k => k.id ≠ c.id)
    ∧ (∀ c va x, s.cmd? id = some c → s.mayStep c = true → c.parked.contains n = false → s.bitmapGone c = false →
        (if n % 2 = 1 then c.writeReady (n / 2) = true
         else n / 2 < c.op.readCount ∧ c.got.has (n / 2) = false ∧ c.readReady (n / 2) = true) →
        s.pieceRoute c (if n % 2 = 1 then .store else .load) (if n % 2 = 1 then c.op.writePiece (n / 2) else c.op.readPiece (n / 2)) = .fail x va true →
        (n % 2 = 1 → c.op.rows = true → (c.rowParked (n / 2)).2 = false ∧ s.rowReady c (n / 2) = true) → s.parkRoom c.part va.toNat = true → Completes (.park id n) s fun u =>
          u.cmd? id = some { c with parked := c.parked ++ [n] } ∧ (u.part c.part).parkq = (s.part c.part).parkq ++ [⟨.piece id n va, false⟩])
    ∧ (∀ e, (s.part b.toNat).parkq[n]? = some e → e.todo = true → (s.part b.toNat).saved = none →
        (∀ f ∈ (s.part b.toNat).parkq.take n, f.todo = true → s.walkHome b.toNat f.req.va.toNat ≠ s.walkHome b.toNat e.req.va.toNat) →
        let gone := fun (u : State) => (u.part b.toNat).parkq = (s.part b.toNat).parkq.eraseIdx n
        (∀ q va c, e.req = .piece id q va → s.cmd? id = some c → q % 2 = 0 →
          (∀ a, s.pieceRoute c .load (c.op.readPiece (q / 2)) = .ok a → s.engineWaits b.toNat a false = false → Completes (.replay b n) s fun u =>
            gone u ∧ u.cmd? id = some (Cmd.saw { c with
              got := c.got.set (q / 2) ((s.pieceDiscard c .load (c.op.readPiece (q / 2))).engineLoad ((c.op.readPiece (q / 2)).key c.part) a),
              parked := c.parked.filter (· ≠ q) } false a))
          ∧ (∀ x y, s.pieceRoute c .load (c.op.readPiece (q / 2)) = .fail x y true → Completes (.replay b n) s fun u =>
            u.cmds = s.cmds ∧ (u.part b.toNat).parkq[n]? = some { e with todo := false }))
        ∧ (∀ a r seals lvl i q p e', e.req = .atomic t a r seals lvl →
            (s.strand t).pend.findIdx? (fun q => q.parked && q.atom = some r && q.parts = [a]) = some i → (s.strand t).pend[i]? = some q →
            s.route ⟨b.toNat, coreOf t, lvl, seals⟩ .atomic a.va a.size 0 = .ok p e' →
            let s1 := s.discardAt ⟨b.toNat, coreOf t, lvl, seals⟩ .atomic a.va
            s1.pendWaits t i q p false = false → s1.pendWaits t i q p true = false → s1.atomHeld t p = false → Completes (.replay b n) s fun u =>
              let y := ((s1.unpark b.toNat n).loadEvent b.toNat r.pc p).atomStep b.toNat (coreOf t) (s.uncopied q.win p) r
              gone u ∧ u.mem = y.1.mem ∧ (r.d ≠ 0 → (u.strand t).rs r.d = BitVec.ofNat 64 y.2)))

/-! ## Shadows and Assay tiles (R142 to R145, R370) -/

/-- R142 to R145, R370: PUBL places every byte its shadow holds once its waits are over, or raises cause 0x06 at the lowest sealed address
whose key it lacks; DISC frees the shadow; a SHDW that waited opens its shadow when there is room; a tile whose pair has ended is
published when its residual passed, and takes the exact path when not. Clauses that rest on the model's reading of an open point: logs 32,
38, 50, 52. -/
def Obligations.ShadowSteps : Prop :=
  ∀ (s : State) (t id i : Nat) (b : BitVec 3),
    let x := s.strand t
    let own := coreOf t
    let p := s.partOf t
    let poured := fun (m : List Host.Cell) (h : Shadow) => h.bytes.foldl (fun m c => Memory.write m c.1 c.2) m
    let freed := fun (u : State) (q : Nat) (h : Shadow) => (u.part q).shadows = (s.part q).shadows.filter fun g => g.key ≠ h.key
    let ended := fun (u : State) => OtherStrands t s u ∧ u.strand t = Strand.advance { x with wait := .none } 8
    let flushed := (s.writeBackAll own).setStrand t { x with wait := .none }
    (∀ k h, s.coreHalted own = false → s.shadowOf p k = some h →
        (x.wait = .publ k → s.shadowSettled t h true = true →
          (∀ va, flushed.lacks p own h x.heldKeys = some va → exec (.publishStep t) s = .next (flushed.trapIn t 0x06 va))
          ∧ (flushed.lacks p own h x.heldKeys = none → Completes (.publishStep t) s fun u =>
            ended u ∧ freed u p h ∧ u.mem = poured (s.writeBackAll own).mem h))
        ∧ (x.wait = .disc k → s.shadowSettled t h false = true → Completes (.discardStep t) s fun u => ended u ∧ freed u p h ∧ u.mem = (s.writeBackAll own).mem))
    ∧ (∀ k, x.wait = .shadow k → x.st = .parked → s.coreHalted own = false → (s.part p).shadowFits k = true →
        (∀ h ∈ (s.part p).shadows, h.key.overlaps k = false ∧ h.key ≠ k) → Completes (.shadowOpen t) s fun u =>
          MemKept s u ∧ (u.part p).shadows = (s.part p).shadows ++ [.new k] ∧ (u.strand t).st = .ready ∧ (u.strand t).wait = .none
          ∧ (u.strand t).pc = x.pc + 8 ∧ (u.strand t).s = x.s)
    ∧ (∀ y z h, (s.part b.toNat).assays.find? (fun a => a.id = id) = some y → y.tiles[i]? = some z → z.published = false → i < y.opened →
        s.shadowOf b.toNat (shKeyOf b.toNat (y.tileRec i)) = some h → h.closed = true → (∀ k ∈ h.before, ∀ c ∈ s.cmds, c.id ≠ k) → (s.part b.toNat).saved = none →
        (z.exact = false → z.sDone = true → z.cDone = true → z.verdict ≠ some true → Completes (.assayTileDecide b id i) s fun u =>
          MemKept s u ∧ (u.part b.toNat).tile? id i = some { z with exact := true }
          ∧ ∃ m r, u.net = s.net ++ [m] ∧ m.body = .record r ∧ r.role = .tile id i 2 ∧ r.a0 = BitVec.ofNat 64 i ∧ r.a2 = 2)
        ∧ (((z.exact = true ∧ z.eDone = true) ∨ (z.exact = false ∧ z.sDone = true ∧ z.cDone = true ∧ z.verdict = some true)) →
            s.lacks b.toNat y.core h y.seals = none → s.publishHeld b.toNat h = false → (∃ j w, j ≠ i ∧ y.tiles[j]? = some w ∧ w.published = false) → Completes (.assayTileDecide b id i) s fun u =>
              freed u b.toNat h ∧ (s.MemWf → ∀ a, ¬ s.spillIn y.core a → Memory.read u.mem a = Memory.read (poured s.mem h) a)
              ∧ (u.part b.toNat).tile? id i = some { z with published := true }))

/-! ## The network and moves (R28 to R33, R165, R211, R218, R226, R388) -/

/-- R29, R165, R211, R218, R226, R389: an item that may be delivered is taken at its core: a decrement, a record, a queue entry, a key.
At a halted core it is held, a key apart. A vacated frame forwards what its rank has moved on from; a strand moves to a free frame with its
registers (R30, R33, R388). Clauses that rest on the model's reading of an open point: logs 18, 23, 47, 50, 52, 74. -/
def Obligations.NetworkSteps : Prop :=
  ∀ (s : State) (n t core rank : Nat),
    let x := s.strand t
    ((∃ e ∈ (s.core core).ni, e.1 = rank) → Completes (.niEntryDrop core rank) s fun u =>
        u = s.modCore core fun c => { c with ni := c.ni.filter fun e => e.1 ≠ rank })
    ∧ (∀ m, s.net[n]? = some m → s.deliverable n m = true →
        let at_ := coreOf m.dest
        let kept := fun (u : State) => MemKept s u ∧ u.net = s.net.set n { m with held := true }
        let spilled := fun (u : State) => s.MemWf → ∀ a, ¬ s.spillIn at_ a → Memory.read u.mem a = Memory.read s.mem a
        (s.coreHalted at_ = true → m.held = false →
          match m.body with
          | .decrement _ _ _ _ _ => Completes (.decrement n) s kept
          | .record _ => Completes (.taskRecordArrival n) s kept
          | .entry _ _ => Completes (.queueEntryArrival n) s kept
          | .handover _ _ _ _ => True)
        ∧ (s.coreHalted at_ = false →
          (∀ j d ws q f, m.body = .decrement j d ws q f → s.payloadRoom at_ ws.length = true → d.toNat < (s.cell at_ j.toNat).count.toNat →
            Completes (.decrement n) s fun u =>
              spilled u ∧ u.net = s.net.eraseIdx n ∧ (u.cell at_ j.toNat).count = BitVec.ofNat 32 ((s.cell at_ j.toNat).count.toNat - d.toNat)
              ∧ ∃ ps, ((u.cell at_ j.toNat).arrivals.map (·.words)).flatten = ((s.cell at_ j.toNat).arrivals.map (·.words)).flatten ++ ps
                ∧ (s.MemWf → ps.map (u.pword at_) = ws)
                ∧ ((s.payloadOf at_).countP (·.slot.isNone) + ws.length ≤ 512 → MemKept s u ∧ ps = ws.map fun w => ⟨w, none⟩))
          ∧ (∀ r, m.body = .record r → (s.core at_).hasRoom r.prio = true → Completes (.taskRecordArrival n) s fun u =>
              let q := (s.core at_).queues.get r.prio.toFin
              spilled u ∧ u.net = s.net.eraseIdx n
              ∧ ((u.core at_).queues.get r.prio.toFin).map (fun x => { x with slot := none }) = (q ++ [r]).map (fun x => { x with slot := none })
              ∧ (inCore q < 16 → MemKept s u ∧ (u.core at_).queues.get r.prio.toFin = q ++ [r]))
          ∧ (∀ q v, m.body = .entry q v → Completes (.queueEntryArrival n) s fun u =>
              MemKept s u ∧ u.net = s.net.eraseIdx n ∧ (u.strand m.dest).q.get q.toFin = (s.strand m.dest).q.get q.toFin ++ [v]))
        ∧ (∀ k cw cwCore pc i, m.body = .handover k cw cwCore pc → (s.strand m.dest).freeSeal = some i → Completes (.handoverInstall n) s fun u =>
            (s.MemWf → ∀ a, ¬ s.dirtyIn (coreOf m.sender) a → ¬ s.spillIn cwCore a → Memory.read u.mem a = Memory.read s.mem a)
            ∧ (u.strand m.dest).csr.sealk = (s.strand m.dest).csr.sealk.set i (k.setWidth 64)))
    ∧ (∀ m d, s.net[n]? = some m → (s.strand m.dest).fwd = some d → s.movedOn m = true → (s.strand m.dest).st ≠ .moving →
        Completes (.messageForward n) s fun u => u = { s with net := s.net.set n { m with dest := d } })
    ∧ (x.fwd.isSome = true → x.st ≠ .moving → (∀ m ∈ s.net, m.dest ≠ t ∨ s.movedOn m = false) → Completes (.forwardingEntryDrop t) s fun u =>
        OtherStrands t s u ∧ MemKept s u
        ∧ ((s.core (coreOf t)).strands.getLsbD (frameOf t) = false → u.strand t = { x with fwd := none })
        ∧ ((s.core (coreOf t)).strands.getLsbD (frameOf t) = true → x.st = .free → (s.setStrand t { x with fwd := none }).frameTaken t = false →
            u.strand t = { x with fwd := none, st := .idle }))
    ∧ (∀ d, s.partOf t ≠ 8 → s.partOfCore core = s.partOf t → core ≠ coreOf t → (s.core core).stage = (s.core (coreOf t)).stage →
        (x.st = .idle ∨ x.st = .ready ∨ x.st = .blocked ∨ x.st = .parked) → x.wait.movable = true → s.settled t = true → x.fwd = none →
        s.coreHalted (coreOf t) = false → s.backHeld (coreOf t) = false → s.freeFrame core = some d → Completes (.liveMigration t core) s fun u =>
          OtherStrands t s u ∧ (u.strand t).st = .moving ∧ (u.strand t).fwd = some d ∧ (u.strand t).rest = x.st ∧ (u.strand t).halt = x.halt
          ∧ (u.strand t).pc = x.pc ∧ (u.strand t).s = x.s ∧ (u.strand t).v = x.v ∧ (u.strand t).csr = x.csr)
    ∧ (∀ d, x.st = .moving → x.fwd = some d → d ≠ t → Completes (.migrationComplete t) s fun u =>
        (u.strand t).st = .free ∧ (u.strand t).fwd = some d
        ∧ (u.strand d).pc = x.pc ∧ (u.strand d).s = x.s ∧ (u.strand d).v = x.v ∧ (u.strand d).k = x.k ∧ (u.strand d).b = x.b
        ∧ (u.strand d).csr = x.csr ∧ { (u.strand d).task with words := x.task.words } = x.task
        ∧ (u.strand d).task.words.map (u.pword (coreOf d)) = x.task.words.map (s.pword (coreOf t)) ∧ (u.strand d).rank = x.rank
        ∧ (s.coreHalted (coreOf d) = false → (u.strand d).st = x.rest)
        ∧ ∀ m, m ≠ t → m ≠ d → u.strand m = s.strand m)

/-! ## The scheduler (R205, R212 to R214, R228, R256, R376) -/

/-- R205, R212 to R214, R228, R256, R376: assignment, ageing, stealing, residence, timeouts, interrupts and gating.
Clauses that rest on the model's reading of an open point: logs 7, 51, 52, 69, 78. -/
def Obligations.SchedulerSteps : Prop :=
  ∀ (s : State) (core t : Nat),
    let c := s.core core
    let x := s.strand t
    (∀ p r rest u, s.runs core = true → c.topQueue = some p → c.queues.get p = r :: rest → s.idleStrand core = some u →
        Completes (.taskAssign core) s fun v =>
          let r := s.recordBack core r
          MemKept s v ∧ (v.core core).queues.get p = rest ∧ (v.strand u).st = .ready ∧ (v.strand u).pc = r.code ∧ (v.strand u).level = r.level
          ∧ (v.strand u).rs 2 = r.frame ∧ (v.strand u).rs 3 = c.cfstk.get (Fin.ofNat 16 u) ∧ (v.strand u).rs 4 = r.a0 ∧ (v.strand u).rs 5 = r.a1
          ∧ (v.strand u).rs 6 = r.a2 ∧ (v.strand u).rs 7 = r.a3 ∧ (v.strand u).rs 1 = 0 ∧ (∀ q : BitVec 5, 8 ≤ q.toNat → (v.strand u).rs q = 0)
          ∧ (∀ q, (v.strand u).rv q = 0) ∧ (v.strand u).task.path = r.path ∧ (v.strand u).task.ordinal = 0)
    ∧ (∀ (k : Fin 3) r rest, s.runs core = true → c.queues.get k.castSucc = r :: rest →
        (r.slot.isSome = true ∨ c.hasRoom (BitVec.ofNat 2 (k.val + 1)) = true) → Completes (.recordAging core k.val) s fun u =>
          let q := c.queues.get k.succ
          (∀ m, u.strand m = s.strand m)
          ∧ (s.MemWf → ∀ a, (a < c.spillBase ∨ c.spillBase + 0xC000 ≤ a) → Memory.read u.mem a = Memory.read s.mem a)
          ∧ (u.core core).queues.get k.castSucc = rest
          ∧ ((u.core core).queues.get k.succ).map (fun x => { x with slot := none }) = (q ++ [r]).map (fun x => { x with slot := none })
          ∧ (inCore q < 16 → MemKept s u ∧ (u.core core).queues.get k.succ = q ++ [r]))
    ∧ (∀ v q i r, s.runs core = true → (s.part (s.partOfCore core)).dmode = false → c.topQueue = none → s.idleStrand core ≠ none →
        ((List.range 47).map fun i => clusterOf core * 48 + (coreInCluster core + i + 1) % 48).findSome?
          (fun v => (s.core v).stealable.map fun y => (v, y)) = some (v, q, i, r) → Completes (.steal core) s fun u =>
          MemKept s u ∧ (∀ m, u.strand m = s.strand m) ∧ (u.core core).queues.get q = c.queues.get q ++ [s.recordBack v r]
          ∧ (u.core v).queues.get q = ((s.core v).queues.get q).eraseIdx i)
    ∧ (∀ f rest, s.waiting core = f :: rest → s.residents core < 4 → Completes (.residenceEnter core) s fun u =>
        MemKept s u ∧ OtherStrands (core * 16 + f) s u ∧ (u.core core).waitq = c.waitq.filter (·.1 ≠ f)
        ∧ u.strand (core * 16 + f) = { s.strand (core * 16 + f) with resident := true })
    ∧ (x.resident = true → (x.st = .idle ∨ x.st = .parked ∨ x.st = .halted ∨ x.st = .moving ∨ (x.st = .blocked ∧ x.slow = true)) →
        s.waiting (coreOf t) ≠ [] → Completes (.residenceLeave t) s fun u =>
          MemKept s u ∧ OtherStrands t s u ∧ u.strand t = { x with resident := false })
    ∧ (x.st = .blocked → x.slow = false → Completes (.blockedTimeout t) s fun u => u = s.setStrand t { x with slow := true })
    ∧ (x.wait = .wfi → Completes (.wfiTimeout t) s fun u => u = s.setStrand t { x with wait := .none })
    ∧ (s.interrupted t = true → Completes (.interruptTake t) s fun u =>
        (u.strand t).irq = none
        ∧ ((s.core (coreOf t)).cmtvec ≠ 0 → MemKept s u ∧ (u.strand t).pc = (s.core (coreOf t)).cmtvec ∧ (u.strand t).level = 2
            ∧ (u.strand t).csr.tcause = 0x8000000000000001 ∧ (u.strand t).csr.tval = x.irq.getD 0 ∧ (u.strand t).csr.tpc = x.pc
            ∧ (u.strand t).csr.tstat = (x.level.setWidth 64 <<< 4) ||| (bit (x.csr.tstat.getLsbD 0) <<< 1) ∧ (u.strand t).s = x.s)
        ∧ ((s.core (coreOf t)).cmtvec = 0 → (u.strand t).st = .halted ∧ (u.strand t).halt.why = 5 ∧ (u.strand t).halt.hpc = x.pc))
    ∧ (s.gateReady core = true → Completes (.gateClosing core) s fun u => u = s.setCore core { c with gate := 1 })
    ∧ (c.gate = 1 → s.backHeld core = false → Completes (.gateClosed core) s fun u =>
        CoreSynced core s u ∧ (∀ m, u.strand m = s.strand m) ∧ (u.core core).gate = 2 ∧ (u.core core).lines = [])
    ∧ (c.gate = 2 → ((∃ m ∈ s.net, coreOf m.dest = core) ∨ ∃ f < 16, (s.strand (core * 16 + f)).waits = true) → Completes (.wake core) s fun u => u = s.setCore core { c with gate := 3 })
    ∧ (c.gate = 3 → Completes (.powerRestored core) s fun u => u = s.setCore core { c with gate := 0, gateReq := false })

/-! ## Page tables and tiers (R54 to R61, R73 to R77) -/

/-- R54 to R61, R73: WALK caches the leaf of an address at a core and at its cluster; a page's pending line requests are added to its
counter, which saturates; the sweep halves the counters; a swap ends with the frames of its two entries exchanged and tiers 0 and 1, or is
abandoned; none of it while the partition is saved (R385). A page whose counter comes to `up` is served, deferred for want of a victim, or
waits behind the swap in progress (R57). Each asks for the state its rule names. Clauses that rest on the model's reading of an open point:
logs 53, 54, 67. -/
def Obligations.TableSteps : Prop :=
  ∀ (s : State) (core : Nat) (va : Word) (b : BitVec 3) (pte : Nat) (victim : Bool),
    let p := b.toNat
    let y := s.part p
    let po := s.partOfCore core
    (∀ e seen, po ≠ 8 → (s.core core).gate.toNat < 2 → vaRegion va = .translated → (s.part po).ptreg.extractLsb' 48 16 ≠ 0 →
        s.walkVia po va.toNat (s.die (s.walkHome po va.toNat)).walk 4 1 (s.part po).ptroot.toNat [] = some (e, seen) →
        Completes (.walk core va) s fun u =>
          e ∈ (u.core core).tlb ∧ e ∈ (u.cluster (clusterOf core)).tlb ∧ CoreSynced core s u ∧ (∀ m, u.strand m = s.strand m))
    ∧ (let k := s.ptePend.countP (· = (p, pte))
       let n := min (Pte.cnt (s.pteHi pte) + k) 0xFFFF
       let left := fun (u : State) => u.ptePend = s.ptePend.filter (· ≠ (p, pte)) ∧ ∀ m, u.strand m = s.strand m
       let counted := Memory.writeN s.mem (pte + 10) 2 n
       let hot := y.tierctl.getLsbD 0 = true ∧ (y.tierctl.extractLsb' 48 16).toNat ≤ n ∧ Pte.tier (s.pteLo pte) = 1
         ∧ ∃ l, (s.leaves p).find? (fun l => l.2 = pte) = some l ∧ s.movable p l.1 pte = true
       (k = 0 → exec (.pteCountUpdate b pte) s = .fault .notEnabled)
       ∧ (y.saved.isSome = true → exec (.pteCountUpdate b pte) s = .fault .notEnabled ∧ exec (.tierSweep b) s = .fault .notEnabled
           ∧ exec (.tierSwapComplete b) s = .fault .notEnabled ∧ exec (.tierSwapAbandon b victim) s = .fault .notEnabled)
       ∧ (k ≠ 0 → y.saved = none → s.baseLeaf p pte = false → Completes (.pteCountUpdate b pte) s fun u => left u ∧ u.mem = s.mem)
       ∧ (k ≠ 0 → y.saved = none → s.baseLeaf p pte = true → ¬ hot → Completes (.pteCountUpdate b pte) s fun u => left u ∧ u.mem = counted)
       ∧ (k ≠ 0 → y.saved = none → s.baseLeaf p pte = true → hot → y.swap = none → y.victims = [] → Completes (.pteCountUpdate b pte) s fun u =>
           left u ∧ u.mem = counted ∧ (u.part p).deferred = if y.deferred = 0xFFFF then 0xFFFF else y.deferred + 1)
       ∧ (k ≠ 0 → y.saved = none → s.baseLeaf p pte = true → hot → y.swap.isSome = true → pte ∉ y.cands → Completes (.pteCountUpdate b pte) s fun u =>
           left u ∧ u.mem = counted ∧ (u.part p).cands = y.cands ++ [pte]))
    ∧ (y.mask ≠ 0 → y.saved = none → y.tierctl.extractLsb' 8 24 ≠ 0 → Completes (.tierSweep b) s fun u =>
        (∀ m, u.strand m = s.strand m)
        ∧ (y.tierctl.getLsbD 0 = false → s.MemWf →
            (∀ a, (∀ l ∈ s.leaves p, ¬ (l.2 + 10 ≤ a ∧ a < l.2 + 12)) → Memory.read u.mem a = Memory.read s.mem a)
            ∧ (∀ l, s.leaves p = [l] → Memory.readN u.mem (l.2 + 10) 2 = Pte.cnt (s.pteHi l.2) / 2))
        ∧ (∀ l, y.tierctl.getLsbD 0 = true → s.leaves p = [l] → (y.tierctl.extractLsb' 48 16).toNat ≤ Pte.cnt (s.pteHi l.2) / 2 →
            Pte.tier (s.pteLo l.2) = 1 → s.movable p l.1 l.2 = true → y.swap = none → y.victims = [] →
            (u.part p).deferred = if y.deferred = 0xFFFF then 0xFFFF else y.deferred + 1))
    ∧ (∀ a c, y.saved = none → y.swap = some (a, c) → y.cands = [] →
        let f := Pte.frame (s.pteLo a)
        let g := Pte.frame (s.pteLo c)
        let clear := fun (e : Nat) => (e + 8 ≤ f ∨ f + 0x10000 ≤ e) ∧ (e + 8 ≤ g ∨ g + 0x10000 ≤ e)
        (s.frameBusy p f = false → s.frameBusy p g = false → Completes (.tierSwapComplete b) s fun u =>
          (u.part p).swap = none ∧ (u.part p).swaps = y.swaps + 1 ∧ (∀ m, u.strand m = s.strand m)
          ∧ (s.MemWf → (a + 8 ≤ c ∨ c + 8 ≤ a) → clear a → clear c →
              Pte.frame (u.pteLo a) = g ∧ Pte.tier (u.pteLo a) = 0 ∧ Pte.frame (u.pteLo c) = f ∧ Pte.tier (u.pteLo c) = 1))
        ∧ (Completes (.tierSwapAbandon b victim) s fun u =>
          (u.part p).swap = none
          ∧ (s.MemWf → (a + 8 ≤ c ∨ c + 8 ≤ a) → s.fqBase p = none →
              Pte.tier (u.pteLo a) = 1 ∧ Pte.tier (u.pteLo c) = 0 ∧ Pte.frame (u.pteLo a) = f ∧ Pte.frame (u.pteLo c) = g)))

/-! ## Packets, launches, the Forge and the Bolter as they run (R46, R47, R225, R353, R364, R404) -/

/-- R46, R47, R225, R353, R364, R404, R413: a host packet is taken or refused; a launch of one copy is granted, and its record is on its
way; the Forge ends its oldest request with its status; the Bolter draws a stage and spawns its task; BAR2 reads and writes memory. Clauses
that rest on the model's reading of an open point: logs 26, 34, 57, 63, 70, 81, 83, 87. -/
def Obligations.LaunchSteps : Prop :=
  ∀ (s : State) (link : HostPath) (b : BitVec 3) (slot off size i : Nat) (q : BitVec 512) (data : Option Word) (sn : BitVec 4),
    let p := b.toNat
    let y := s.part p
    let told := fun (u : State) a => u.io.answers = a :: s.io.answers
    (y.saved = none → slot < 32768 →
        (s.deaf link p = true → Completes (.launchPacketAccept link b slot q) s fun u => told u .unsupported ∧ MemKept s u)
        ∧ (s.deaf link p = false → s.packetRefused p q 1 = false → s.packetSpawn p (s.lead p * 48) q = none →
            Completes (.launchPacketAccept link b slot q) s fun u =>
              MemKept s u ∧ ∃ l : Launch, (u.part p).launches = y.launches ++ [l] ∧ l.packet = q ∧ l.by_ = none ∧ l.slot = slot)
        ∧ (s.deaf link p = false → s.packetRefused p q 1 = true → Completes (.launchPacketAccept link b slot q) s fun u =>
              (u.part p).launches = y.launches))
    ∧ (y.saved = none → off < 32768 * 64 →
        (s.deaf link p = true → Completes (.apertureWrite link b off) s fun u => told u .unsupported ∧ MemKept s u)
        ∧ (s.deaf link p = false → s.fqBase p = none → Completes (.apertureWrite link b off) s fun u => u = s.tick)
        ∧ (∀ a, s.deaf link p = false → s.fqBase p = some a → s.MemWf →
            (Memory.readN s.mem a 8 + 2 ^ 64 - Memory.readN s.mem (a + 8) 8) % 2 ^ 64 ≠ 1023 → Completes (.apertureWrite link b off) s fun u =>
              Memory.readN u.mem a 8 = (Memory.readN s.mem a 8 + 1) % 2 ^ 64))
    ∧ (∀ l ls, y.launches = l :: ls → y.saved = none → l.stuck = false → l.runs = none →
        let s1 := s.setLaunch p { l with runs := some [] }
        let k := (pktPool l.packet + 0xFFFF) / 0x10000
        let gone := fun (u : State) => (u.part p).launches = y.launches.filter fun m => m.id ≠ l.id
        (k ≠ 0 → (∃ c ∈ packetClusters l.packet, (s.cluster c).unreserved < k) →
          (l.boot = true → Completes (.launchGrant b) s fun u => gone u ∧ (u.part p).err = 0x05 ∧ (u.part p).gang = y.gang ∧ MemKept s u)
          ∧ (l.boot = false → exec (.launchGrant b) s = .next (((s.dropLaunch p l.id).launchRefused p l (Config.openInner l.id) 0).reap p)))
        ∧ (∀ c f a, k = 0 → l.next = 0 → packetCopies l.packet = [(c, 0, f)] → s1.poolRoute p l.packet c f = .ok a →
            s1.engineWaits p a true = false → special a = false → Completes (.launchGrant b) s fun u =>
              gone u ∧ u.mem = Memory.writeN s.mem (s.keyOf a) a.size 0
              ∧ (u.part p).gang = y.gang
              ∧ ∃ m r, u.net = s.net ++ [m] ∧ m.body = .record r ∧ coreOf m.dest = c ∧ r.code = pktCode l.packet ∧ r.frame = f
                  ∧ r.level = pktLevel l.packet ∧ r.prio = pktPrio l.packet ∧ r.a2 = 0 ∧ r.a3 = 1 ∧ r.launches = l.id :: l.outer))
    ∧ (∀ r rs, (s.die p).forge = r :: rs →
        let x := s.strand r.strand
        (x.wait ≠ .forge → Completes (.forgeRun b) s fun u => (u.die p).forge = rs ∧ MemKept s u ∧ ∀ m, u.strand m = s.strand m)
        ∧ (∀ out len stop bd kp, x.wait = .forge → s.forge r = .ok out len stop bd kp →
            let ends := fun (u : State) (w : Word) => (u.die p).forge = rs ∧ u.strand r.strand = Strand.advance (Strand.ws { x with wait := .none } r.d w) 8
            (((s.part r.part).handle r.index).held = true → Completes (.forgeRun b) s fun u => ends u 1 ∧ MemKept s u)
            ∧ (((s.part r.part).handle r.index).held = false → (s.part r.part).window.2 = 0 → Completes (.forgeRun b) s fun u => ends u 2 ∧ MemKept s u)
            ∧ (∀ base s1, ((s.part r.part).handle r.index).held = false → (s.part r.part).window.2 ≠ 0 → stop = none →
                (s.part r.part).freeRun (4 * out.length) = some base →
                (s.forgeCount r).writeResidual r.part (coreOf r.strand) (BitVec.ofNat 64 base) out = .ok s1 → r.src = none → Completes (.forgeRun b) s fun u =>
                  ends u 0 ∧ u.mem = s1.mem
                  ∧ (let h := (u.part r.part).handle r.index
                     h.ref = 1 ∧ h.res = 0 ∧ h.held = true ∧ h.bound = bd ∧ h.kept = kp ∧ h.base = BitVec.ofNat 64 base ∧ h.len = len
                     ∧ h.bytes = 4 * out.length ∧ h.map = r.map &&& 0xFFFFFFFF0000000F ∧ h.src = none ∧ h.args = r.args))))
    ∧ (∀ z l k r, y.saved = none → y.set? sn = some z → z.records.has i = true → (z.records.get BoltRec.new i).running = none →
        z.over (z.records.get BoltRec.new i) = false → (2 ≤ i / 4096 → z.complete (i / 4096 - 2) = true) →
        let done := (z.records.get BoltRec.new i).done
        (List.range z.n).filter (fun k => !done.getLsbD k) = l ++ k :: r →
        let ticket := fun k => z.ticket (i / 4096) k (s.stageDepth p sn k) y.dmode
        let sum := ((l ++ k :: r).map ticket).sum
        let draw := ((m64s z.salt [BitVec.ofNat 64 i, done.setWidth 64]).extractLsb' 32 32).toNat % sum
        (l.map ticket).sum ≤ draw → draw < (l.map ticket).sum + ticket k → Completes (.routingDecision b sn i) s fun u =>
          MemKept s u ∧ (∀ m, u.strand m = s.strand m)
          ∧ (∃ z', (u.part p).set? sn = some z' ∧ (z'.records.get BoltRec.new i).running = some k ∧ (z'.records.get BoltRec.new i).done = done)
          ∧ ∃ m t, u.net = s.net ++ [m] ∧ m.body = .record t ∧ t.frame = z.frames.getD k 0 ∧ t.a0 = BitVec.ofNat 64 i ∧ t.a1 = BitVec.ofNat 64 k
              ∧ t.a2 = sn.setWidth 64 ∧ t.a3 = done.setWidth 64 ∧ t.role = .stage sn i k)
    ∧ ((size = 1 ∨ size = 2 ∨ size = 4 ∨ size = 8) → off % size = 0 → y.saved = none →
        let pa := (y.pcwin.extractLsb' 8 8).toNat * 2 ^ 36 + off
        let va : Word := ((s.io.hwbase.get b.toFin).setWidth 64 <<< 36) + BitVec.ofNat 64 off
        let r := s.route ⟨p, s.lead p * 48, 2, []⟩ (if data.isSome then .store else .load) va size 0
        let free := fun (key : Nat) => data.isSome = true → s.swapBytes p key size = false
        let at_ := fun (key home : Nat) (u : State) => match data with
          | some v => u.mem = Memory.writeN s.mem home size v.toNat ∧ told u .done
          | none => u.mem = s.mem ∧ told u (.read (BitVec.ofNat 64 (Memory.readN s.mem key size)))
        ((s.deaf link p = true ∨ 2 ^ 36 < off + size) → Completes (.bar2Access link b off size data) s fun u => told u .unsupported ∧ MemKept s u)
        ∧ (s.deaf link p = false → off + size ≤ 2 ^ 36 →
            (y.pcwin.getLsbD 0 = true → offRange pa size = true → free pa → Completes (.bar2Access link b off size data) s (at_ pa pa))
            ∧ (y.pcwin.getLsbD 0 = true → offRange pa size = false → Completes (.bar2Access link b off size data) s fun u => told u .unsupported ∧ MemKept s u)
            ∧ (∀ a e, y.pcwin.getLsbD 0 = false → vaRegion va = .translated → r = .ok a e → a.size = size → free a.key →
                Completes (.bar2Access link b off size data) s (at_ a.key (s.keyOf a)))
            ∧ (∀ t, y.pcwin.getLsbD 0 = false → (vaRegion va ≠ .translated ∨ r = .fault t ∨ r = .invalid t) →
                Completes (.bar2Access link b off size data) s fun u => told u .unsupported)))

/-! ## Stops, machine checks and replicas (R381 to R383, R389 to R400, R405, R406) -/

/-- R381 to R383, R389 to R400, R405, R406: a gang stop halts the strands of its partition and holds it; quiet is announced once it is
reached; group signals travel, halt and are released; partners' digests are compared; a machine check traps, fails a command, or is
reported; a link failure stops both partitions with reason 9. Clauses that rest on the model's reading of an open point: logs 49, 55, 56,
59, 61, 66, 67, 84. -/
def Obligations.StopSteps : Prop :=
  ∀ (s : State) (b d1 d2 : BitVec 3) (g : BitVec 4) (core t id : Nat) (slot : BitVec 11) (code : BitVec 8) (addr : Word) (cl : BitVec 7),
    let p := b.toNat
    let y := s.part p
    let stopped := fun (why : BitVec 8) (u : State) =>
      MemKept s u ∧ (u.part p).gang = some why ∧ (u.part p).quiet = false
      ∧ ∀ n ∈ s.strandsOf p, (s.strand n).st ≠ .free → (s.strand n).st ≠ .moving → (s.strand n).st ≠ .halted →
          (u.strand n).st = .halted ∧ (u.strand n).halt.why = why ∧ (u.strand n).halt.prior = (s.strand n).st
          ∧ (u.strand n).halt.hpc = (s.strand n).pc ∧ (u.strand n).pc = (s.strand n).pc ∧ (u.strand n).s = (s.strand n).s
    let bitOf := fun (w : BitVec 16) => w.getLsbD g.toNat
    let broken := fun (u : State) (q : Nat) => (u.part q).tdi = .error ∧ (u.part q).gang.isSome = true
    (y.mask ≠ 0 → y.gang = none →
        Completes (.gangStop b 1) s (stopped 1) ∧ Completes (.hstopStop b) s (stopped 1))
    ∧ ((y.mask = 0 ∨ y.gang.isSome = true) → exec (.gangStop b 1) s = .fault .notEnabled ∧ exec (.hstopStop b) s = .next s)
    ∧ (s.quietReady p = true → y.quiet = false → Completes (.chaltQuiet b) s fun u => u = s.modPart p fun x => { x with quiet := true })
    ∧ (bitOf (s.core core).sig = true → Completes (.haltGroupStop core g) s fun u =>
        MemKept s u ∧ bitOf (u.core core).grps = true ∧ bitOf (u.core core).sig = false
        ∧ ∀ f < 16, let x := s.strand (core * 16 + f)
            x.st ≠ .free → x.st ≠ .moving → x.st ≠ .halted →
            (u.strand (core * 16 + f)).st = .halted ∧ (u.strand (core * 16 + f)).halt.why = 2 ∧ (u.strand (core * 16 + f)).halt.prior = x.st)
    ∧ (y.mask ≠ 0 → Completes (.ctrigHalt b g) s fun u =>
        MemKept s u ∧ (∀ m, u.strand m = s.strand m)
        ∧ ∀ c ∈ s.touchedCores p, (s.core c).cdbg.getLsbD (32 + g.toNat) = true → bitOf (u.core c).sig = true)
    ∧ (y.mask ≠ 0 → Completes (.ctrigRel b g) s fun u => MemKept s u ∧ ∀ c ∈ s.touchedCores p, bitOf (u.core c).grps = false ∧ bitOf (u.core c).sig = false)
    ∧ (y.saved = none → (y.gang = some 1 ∨ y.gang = some 7 ∨ y.gang = some 9) → Completes (.hstopRel b) s fun u =>
        MemKept s u ∧ (u.part p).gang = none ∧ (u.part p).quiet = false)
    ∧ (∀ q da db, s.replicaPair p slot.toNat = some (q, da, db) → Completes (.replicaCompare b slot) s fun u =>
        MemKept s u ∧ (u.part p).slots = y.slots.del slot.toNat ∧ (u.part q).slots = (s.part q).slots.del slot.toNat
        ∧ (da = db → (∀ m, u.strand m = s.strand m) ∧ u.io = s.io)
        ∧ (da ≠ db → broken u p ∧ broken u q ∧ u.io = s.io.report ⟨BitVec.ofNat 3 p, BitVec.ofNat 3 q, slot, da, db, true⟩))
    ∧ ((code = 0x20 ∨ code = 0x21 ∨ code = 0x22) →
        (s.issuable t = true → exec (.machineCheck code (.strand t) addr) s = .next ((s.leaveWait t).trapIn t code addr))
        ∧ (∀ c, s.cmd? id = some c → c.fail = none → Completes (.machineCheck code (.engine id) addr) s fun u =>
            MemKept s u ∧ u.cmd? id = some { c with fail := some ⟨0, addr, c.info 0, code⟩ } ∧ ∀ m, u.strand m = s.strand m)
        ∧ (y.mask ≠ 0 → s.fqBase p = none → Completes (.machineCheck code (.idle b none) addr) s fun u => u = s)
        ∧ (∀ l, y.mask ≠ 0 → s.fqBase p = none → s.partOfCore core = p → (s.core core).line addr.toNat = some l → l.dirty ≠ 0 → code = 0x20 →
            Completes (.machineCheck code (.idle b (some core)) addr) s fun u =>
              MemKept s u ∧ (u.core core).lines = (s.core core).lines.del (lineAt addr.toNat)
              ∧ ∀ f < 16, (s.strand (core * 16 + f)).st ≠ .free →
                  (u.strand (core * 16 + f)).irq = some (BitVec.ofNat 64 (lineAt addr.toNat)) ∧ (u.strand (core * 16 + f)).pc = (s.strand (core * 16 + f)).pc))
    ∧ (d1 ≠ d2 →
        let both := fun (u : State) => MemKept s u ∧ u.io.answers = .linkFailed d1 d2 :: s.io.answers
          ∧ (s.partOfDie d1.toNat < 8 → broken u (s.partOfDie d1.toNat)) ∧ (s.partOfDie d2.toNat < 8 → broken u (s.partOfDie d2.toNat))
        Completes (.machineCheck 0x24 (.link d1 d2) addr) s both ∧ Completes (.dieLinkFail d1 d2) s both)
    ∧ (Completes (.correctedError cl) s fun u => MemKept s u ∧ (∀ m, u.strand m = s.strand m)
        ∧ (u.cluster cl.toNat).cecnt = if (s.cluster cl.toNat).cecnt = BitVec.allOnes 32 then BitVec.allOnes 32 else (s.cluster cl.toNat).cecnt + 1)

/-! ## Single registers (R18, R22, R50, R139, R157, R168, R174, R203, R204, R240, R248, R410 to R414) -/

/-- R18, R22, R50, R55, R139, R157, R168, R174, R203, R204, R240, R410 to R414: a write of a register has the effect its rule gives; one
that the rule refuses leaves the machine as it was, or says so in PCSTAT when the host made it. Clauses that rest on the model's reading of
an open point: logs 26, 60, 66, 67, 68, 71, 72, 81, 92. -/
def Obligations.RegisterSteps : Prop :=
  ∀ (s : State) (b : BitVec 3) (core t : Nat) (n : BitVec 2) (k : BitVec 4) (v : Word) (c : BitVec 12) (m : BitVec 8) (r : BitVec 5),
    let p := b.toNat
    let y := s.part p
    let x := s.strand t
    let up := (v.extractLsb' 48 16).toNat
    let quiet := s.quietFor p none
    let only := fun (i : Instr) (z : Part) => Completes i s fun u => u = s.setPart p z
    let same := fun (i : Instr) => exec i s = .next s
    (y.mask ≠ 0 →
      only (.fqctlReplay b) { y with parkq := y.parkq.map fun e => { e with todo := true } }
      ∧ only (.dnoteWrite b v) (y.event 12 v)
      ∧ (quiet = true → only (.dmodeWrite b v) { y with dmode := v.getLsbD 0 } ∧ only (.dsaltWrite b v) { y with dsalt := v, rootOrd := 0 })
      ∧ (quiet = false → same (.dmodeWrite b v) ∧ same (.dsaltWrite b v))
      ∧ only (.dcauseClear b k) { y with dcount := y.dcount.set k.toNat 0 k.isLt, dpc := y.dpc.set k.toNat 0 k.isLt }
      ∧ ((v.extractLsb' 4 4) = 1 → quiet = true → Completes (.alevelWrite b v) s fun u =>
          MemKept s u ∧ (u.part p).alevel = 0x11 ∧ ∀ q ∈ s.strandsOf p, (u.strand q).fbuf = [] ∧ (u.strand q).pc = (s.strand q).pc)
      ∧ ((v.extractLsb' 4 4 ≠ 1 ∨ quiet = false) → same (.alevelWrite b v))
      ∧ ((v.extractLsb' 32 16).toNat < up → Completes (.tierctlWrite b v) s fun u =>
          (u.part p).tierctl = v &&& 0xFFFFFFFFFFFFFF01 ∧ MemKept s u ∧ (∀ q, u.strand q = s.strand q)
          ∧ (v.getLsbD 0 = true → y.tierctl.getLsbD 0 = false → (u.part p).swaps = 0 ∧ (u.part p).deferred = 0))
      ∧ (up ≤ (v.extractLsb' 32 16).toNat → same (.tierctlWrite b v)))
    ∧ (y.mask = 0 → exec (.fqctlReplay b) s = .fault .notEnabled ∧ exec (.dmodeWrite b v) s = .fault .notEnabled)
    ∧ (s.partOfCore core ≠ 8 →
        (Completes (.nictlFlush core) s fun u => u = s.setCore core { s.core core with ni := [] })
        ∧ (s.coreHalted core = true →
            (Completes (.cstageWrite core v) s fun u => u = s.setCore core { s.core core with stage := v.extractLsb' 0 6 })
            ∧ (Completes (.cschedStrandsWrite core v) s fun u =>
                MemKept s u ∧ (u.core core).strands = v.extractLsb' 32 16
                ∧ ∀ f < 16, let z := s.strand (core * 16 + f)
                    let w := u.strand (core * 16 + f)
                    (v.getLsbD (32 + f) = true → z.st ≠ .free → w.st = z.st)
                    ∧ (v.getLsbD (32 + f) = true → z.st = .free → s.frameTaken (core * 16 + f) = false → w.st = .idle ∧ w.level = z.level)
                    ∧ (v.getLsbD (32 + f) = false → w.st = .free ∧ (z.st ≠ .free → w.level = 0))))
        ∧ (s.coreHalted core = false → same (.cstageWrite core v) ∧ same (.cschedStrandsWrite core v))
        ∧ (Completes (.registerWrite (.coreCtl core 0x208) v) s fun u =>
            u = s.setCore core { s.core core with cmtvec := v &&& 0x00FFFFFFFFFFFFFC })
        ∧ (Completes (.registerWrite (.coreCtl core 0x200) v) s fun u =>
            u = s.setCore core { s.core core with cdbg := v &&& 0x0000FFFF00000001 }))
    ∧ (s.partOfCore (coreOf t) ≠ 8 →
        let only := fun i z => Completes i s fun u => u = s.setStrand t z
        (∀ w, s.wmwinValue t (v ||| 0x0008000000000000) = some w → only (.wmwinOwn t n v)
            { x with csr := { x.csr with wmwin := x.csr.wmwin.set n.toNat (w &&& 0xFFF7FFF800000000) n.isLt } })
        ∧ (s.wmwinValue t (v ||| 0x0008000000000000) = none → same (.wmwinOwn t n v))
        ∧ (v.extractLsb' 3 2 ≠ 3 → x.st = .free → only (.frameStateStore t v) { x with level := v.extractLsb' 3 2 })
        ∧ (v.extractLsb' 3 2 ≠ 3 → x.st = .halted → v.extractLsb' 0 3 = 2 →
            only (.frameStateStore t v) { x with level := v.extractLsb' 3 2, halt := { x.halt with prior := .ready },
                                                 wait := if x.halt.prior = .ready ∨ x.wait.onlyReplay = true then x.wait else .none })
        ∧ ((v.extractLsb' 3 2 = 3 ∨ (x.st ≠ .free ∧ x.st ≠ .halted)) → same (.frameStateStore t v))
        ∧ only (.frameRegisterStore t (8 * r.toNat) v) (x.ws r v)
        ∧ only (.frameRegisterStore t (0x100 + 8 * (r.toNat % 8)) v) (x.wk (BitVec.ofNat 3 (r.toNat % 8)) v)
        ∧ (x.dead.getLsbD r.toNat = true → same (.frameRegisterStore t (0x800 + 64 * r.toNat) v))
        ∧ (x.dead.getLsbD r.toNat = false → Completes (.frameRegisterStore t (0x800 + 64 * r.toNat) v) s fun u =>
            OtherStrands t s u ∧ MemKept s u ∧ ((u.strand t).rv r).extractLsb' 0 64 = v
            ∧ ((u.strand t).rv r).extractLsb' 64 448 = (x.rv r).extractLsb' 64 448 ∧ ∀ q, q ≠ r → (u.strand t).rv q = x.rv q)
        ∧ same (.frameRegisterStore t 0x1B0 v))
    ∧ (y.locked = true → same (.pcmaskWrite b m) ∧ same (.csrWindowWrite b c v) ∧ same (.pcbootGo b))
    ∧ (s.io.stage = 3 → y.locked = false → y.saved = none → s.io.fail = 0 →
        (∀ d < 8, (m.getLsbD d = true → s.partOfDie d = 8 ∨ s.partOfDie d = p) ∧ (m.getLsbD d ≠ y.mask.getLsbD d → s.dieHalted d = true)) →
        Completes (.pcmaskWrite b m) s fun u => (u.part p).mask = m ∧ (y.mask = 0 → m ≠ 0 → (u.part p).gang = some 1))
    ∧ (y.locked = false → partKept c = true → (csrLevels c).isSome = true →
        (y.gang ≠ some 1 → only (.csrWindowWrite b c v) { y with err := 0x02 })
        ∧ (y.gang = some 1 → c.toNat = 0x221 → same (.csrWindowWrite b c v))
        ∧ (y.gang = some 1 → c.toNat ≠ 0x221 → c.toNat ≠ 0x72 →
            (y.csrWrite c.toNat v quiet = none → only (.csrWindowWrite b c v) { y with err := 0x05 })
            ∧ (∀ z, y.csrWrite c.toNat v quiet = some z → only (.csrWindowWrite b c v) z)))
    ∧ (y.locked = false →
        (y.gang ≠ some 1 → only (.pcbootGo b) { y with err := 0x02 })
        ∧ (y.gang = some 1 → s.packetRefused p y.boot 2 = true → only (.pcbootGo b) { y with err := 0x05 })
        ∧ (y.gang = some 1 → s.packetRefused p y.boot 2 = false → s.packetSpawn p (s.lead p * 48) y.boot = none →
            let k := (pktPool y.boot + 0xFFFF) / 0x10000
            (y.launches ≠ [] → Completes (.pcbootGo b) s fun u => MemKept s u ∧ (u.part p).gang = none
              ∧ ∃ l : Launch, (u.part p).launches = y.launches ++ [l] ∧ l.packet = y.boot ∧ l.by_ = none)
            ∧ (y.launches = [] → k ≠ 0 → (∃ c ∈ packetClusters y.boot, (s.cluster c).unreserved < k) →
                Completes (.pcbootGo b) s fun u => MemKept s u ∧ (u.part p).gang = some 1 ∧ (u.part p).launches = [] ∧ (u.part p).err = 0x05
                  ∧ (u.part p).rootOrd = y.rootOrd)
            ∧ (∀ s1 l c f a, y.launches = [] → k = 0 → packetCopies y.boot = [(c, 0, f)] → s.launchAccept p 0 y.boot 2 true = .ok s1 →
                (s1.part p).launches = [l] →
                let s2 := s1.setLaunch p { l with runs := some [] }
                s2.poolRoute p y.boot c f = .ok a → s2.engineWaits p a true = false → special a = false →
                Completes (.pcbootGo b) s fun u => u.mem = Memory.writeN s.mem (s.keyOf a) a.size 0 ∧ (u.part p).gang = none
                  ∧ (u.part p).launches = [] ∧ (u.part p).rootOrd = y.rootOrd + 1 ∧ u.net.length = s.net.length + 1)))

/-! ## The host's side (R405 to R419, R422) -/

/-- R405, R408, R413, R415 to R419, R422: a mailbox operation starts when none runs, holds the request to its length, and ends with its
response; the stages of the start follow each other; a failure stops them; RESET_RELEASE leaves the reset state; a trip keeps only what the
IO dies hold. Clauses that rest on the model's reading of an open point: logs 6, 64, 65, 67, 72. -/
def Obligations.HostSteps : Prop :=
  ∀ (s : State) (b : BitVec 3) (tag : BitVec 32) (len : BitVec 16) (temps : List (BitVec 16)) (power coolant : BitVec 32) (io0 io1 v : Word)
    (code : BitVec 16) (request : List Byte) (link : Bool) (g : Nat),
    let p := b.toNat
    let y := s.part p
    let io := s.io
    let begun := fun (op : Nat) (r : BitVec 8 × List Byte) (u : State) =>
      { u with io := s.io } = s ∧ u.io.mbrun = some r ∧ u.io.mbdata = io.mbdata
      ∧ u.io.mbcmd = BitVec.ofNat 64 (tag.toNat * 2 ^ 32 + len.toNat * 2 ^ 16 + op) ∧ u.io.mbstat = (io.mbstat &&& ~~~2#64) ||| 1
    let O := fun (i : Instr) (op : Nat) (ok : List Byte) =>
      (io.mbrun.isSome = true → exec i s = .next s)
      ∧ (io.mbrun = none → Completes i s (begun op (if len = 0 then (0, ok) else (2, []))))
    let off := numLe (io.mbdata.take 8)
    let block := (io.mbdata.take len.toNat).drop 8
    O (.identify tag len) 1 ((List.range 32).map Config.identity ++ [1])
    ∧ (temps.length = 10 → O (.readSensors tag len temps power coolant) 2
        (temps.flatMap (fun t => bytesLe 2 t.toNat) ++ bytesLe 4 power.toNat ++ bytesLe 4 coolant.toNat))
    ∧ O (.readErrorCounts tag len io0 io1) 3 ((List.range 8).flatMap (fun d => bytesLe 8 (s.dieErrors d)) ++ bytesLe 8 io0.toNat ++ bytesLe 8 io1.toNat)
    ∧ (io.mbrun = none → 8 ≤ len.toNat → len.toNat ≤ 240 →
        (2 ^ 26 < off + block.length → Completes (.stageFirmwareBlock tag len) s (begun 4 (3, [])))
        ∧ (off + block.length ≤ 2 ^ 26 → Completes (.stageFirmwareBlock tag len) s fun u =>
            u.io.mbrun = some (0, []) ∧ { u with io := s.io } = s ∧ u.io.image = io.image
            ∧ ∀ j, u.io.staged.get 0 j = if off ≤ j ∧ j < off + block.length then block.getD (j - off) 0 else io.staged.get 0 j))
    ∧ (io.mbrun = none → (len.toNat < 8 ∨ 240 < len.toNat) → Completes (.stageFirmwareBlock tag len) s (begun 4 (2, [])))
    ∧ (io.mbrun = none → len = 8 → off ≤ 2 ^ 26 → Completes (.commitStagedImage tag len) s fun u =>
        u.io.mbrun = some (0, []) ∧ u.io.commit = some (BitVec.ofNat 64 off) ∧ { u with io := s.io } = s)
    ∧ (io.mbrun = none → (len ≠ 8 ∨ 2 ^ 26 < off) → Completes (.commitStagedImage tag len) s (begun 5 (2, [])))
    ∧ (∀ l, io.mbrun = none → len = 1 → s.measured (io.mbdata.headD 0).toNat = some l → Completes (.readMeasurement tag len) s
        (begun 6 (0, shake512 l)))
    ∧ (io.mbrun = none → (len ≠ 1 ∨ s.measured (io.mbdata.headD 0).toNat = none) → Completes (.readMeasurement tag len) s (begun 6 (2, [])))
    ∧ (∀ r l, io.mbrun = some (r, l) → Completes .mailboxOperationEnd s fun u =>
        { u with io := s.io } = s ∧ u.io.mbrun = none ∧ u.io.mbdata = (l ++ io.mbdata.drop l.length).take 240
        ∧ u.io.mbstat = BitVec.ofNat 64 ((io.mbcmd.extractLsb' 32 32).toNat * 2 ^ 32 + l.length * 2 ^ 16 + r.toNat * 2 ^ 8 + 2))
    ∧ (io.mbrun = none → exec .mailboxOperationEnd s = .fault .notEnabled)
    ∧ (Completes .resetRelease s fun u => (io.fail ≠ 4 → u.mem = [])
        ∧ (io.fail = 4 → s.MemWf → ∀ a, Memory.read u.mem a = if meshBase ≤ a then 0 else Memory.read s.mem a) ∧ u.strands = [] ∧ u.cores = [] ∧ u.parts = [] ∧ u.cmds = [] ∧ u.net = [] ∧ u.io.stage = 1
        ∧ u.io.fail = 0 ∧ u.io.mbstat = 0 ∧ u.io.staged = io.staged ∧ (io.commit = none → u.io.image = io.image) ∧ u.io.commit = none)
    ∧ (io.fail = 0 →
        (io.stage = 1 → Completes .stage2 s fun u => u.io = { io with stage := 2 } ∧ (∀ m, u.strand m = s.strand m)
          ∧ (s.MemWf → ∀ a, Memory.read u.mem a = if meshBase ≤ a then 0 else Memory.read s.mem a))
        ∧ (io.stage = 2 → Completes .stage3 s fun u => u = { s with io := { io with stage := 3 } })
        ∧ (io.stage = 1 → (code = 1 ∨ code = 2 ∨ code = 3) → Completes (.stageFailure code) s fun u => u = { s with io := { io with fail := code } }))
    ∧ (io.fail ≠ 0 → exec .stage2 s = .fault .notEnabled ∧ exec .stage3 s = .fault .notEnabled)
    ∧ (Completes (.spdmRequest request) s fun u => { u with io := s.io } = s ∧ u.io.answers
        = .bytes ((List.range (Config.attestationLength request)).map (Config.attestation request)) :: io.answers)
    ∧ (y.tdi = .unlocked → y.mask ≠ 0 → Completes (.tdiConfigLock b link false) s fun u => u = s.setPart p { y with tdi := .locked, tdiLink := link })
    ∧ (y.tdi = .locked → y.tdiLink = link → Completes (.tdiConfigLock b link true) s fun u => u = s.setPart p { y with tdi := .run })
    ∧ (y.tdi ≠ .unlocked → Completes (.stopInterface b) s fun u => (u.part p).tdi = .unlocked ∧ (u.part p).mask = y.mask
        ∧ (y.mask ≠ 0 → (u.part p).gang.isSome = true) ∧ (u.part p).shadows = [] ∧ (u.part p).handles = []
        ∧ ∀ a, a < meshBase → s.MemWf → Memory.read u.mem a = Memory.read s.mem a)
    ∧ (Completes .thermalTrip s fun u => u.io = { io with fail := 4 } ∧ u.strands = [] ∧ u.cores = [] ∧ u.cmds = [] ∧ u.net = []
        ∧ (u.part p).mask = 0 ∧ (u.part p).boot = y.boot
        ∧ (s.MemWf → ∀ a, Memory.read u.mem a = if meshBase ≤ a then 0 else Memory.read s.mem a))
    ∧ (Completes .throttle s fun u => u = s)
    ∧ (Completes (.registerWrite (.bar0 0x10) v) s fun u => u = if 300 ≤ (v.extractLsb' 0 12).toNat ∧ (v.extractLsb' 0 12).toNat ≤ 1800
        then { s with io := { io with pwrcap := v.extractLsb' 0 12 } } else s)
    ∧ (g < 30 → Completes (.registerWrite (.bar0 (BitVec.ofNat 24 (0x110 + 8 * g))) v) s fun u =>
        u = { s with io := { io with mbdata := io.mbdata.take (8 * g) ++ bytesLe 8 v.toNat ++ io.mbdata.drop (8 * g + 8) } })
    ∧ (s.partOfCore (16 * p * 48) ≠ 8 → Completes (.registerWrite (.clusterCtl (16 * p) 0x20) v) s fun u =>
        MemKept s u ∧ (∀ m, u.strand m = s.strand m) ∧ (u.cluster (16 * p)).rsv.extractLsb' 0 64 = v
        ∧ (u.cluster (16 * p)).rsv.extractLsb' 64 192 = (s.cluster (16 * p)).rsv.extractLsb' 64 192)

/-! ## Slodun links (R420, R421) -/

/-- R416, R420, R421: a link comes up after stage 3 and may go down; enabling reads the two ring records; a ready slot is sent in its
turn, and acknowledged; a received block lands in its slot and one gateway core is told.
Clauses that rest on the model's reading of an open point: logs 58, 67. -/
def Obligations.LinkSteps : Prop :=
  ∀ (s : State) (n : Fin 12) (peer : BitVec 16) (lanes : BitVec 4) (data : BitVec 512) (scales : Word) (b : BitVec 32),
    let x := s.slport n.val
    let p := s.portPart n.val
    let only := fun (i : Instr) (z : Port) => Completes i s fun u => u = s.modPort n.val fun _ => z
    (s.io.stage = 3 → x.up = false → 1 ≤ lanes.toNat → lanes.toNat ≤ 8 →
        only (.linkUp n peer lanes) { x with up := true, peer := peer, lanes := lanes })
    ∧ (s.io.stage ≠ 3 → exec (.linkUp n peer lanes) s = .fault .notEnabled)
    ∧ (x.up = true → Completes (.linkDown n) s fun u =>
        u.slport n.val = { x with up := false, lanes := 0, out := [] } ∧ ∀ m, u.strand m = s.strand m)
    ∧ (x.en = false → p ≠ 8 →
        (s.portHeld p n.val = true → exec (.slenEnable n) s = .fault .notEnabled)
        ∧ (∀ a b e f i j, s.ringRoute p x.rxr = .ok a e → s.ringRoute p x.txr = .ok b f →
          let rx := BitVec.ofNat 256 (Memory.readN s.mem a.key 32)
          let tx := BitVec.ofNat 256 (Memory.readN s.mem b.key 32)
          ringBlocks rx = some i → ringBlocks tx = some j → Completes (.slenEnable n) s fun u =>
            u.slport n.val = { x with en := true, rx := rx, tx := tx, rxn := i, txn := j, rxNext := 0, txNext := 0,
                                      acked := 0, ready := [], out := [] }
            ∧ MemKept s u ∧ ∀ m, u.strand m = s.strand m)
        ∧ (∀ t, (s.ringRoute p x.rxr = .fault t ∨ s.ringRoute p x.rxr = .invalid t) → s.ringWaits p x.txr = false → Completes (.slenEnable n) s fun u =>
            u.slport n.val = x))
    ∧ (x.en = true → p ≠ 8 →
        ((b - x.acked).toNat < x.txn → x.ready.contains b = false → only (.sltxdReady n b) { x with ready := x.ready ++ [b] })
        ∧ (x.txn ≤ (b - x.acked).toNat → Completes (.sltxdReady n b) s fun u => u.slport n.val = x))
    ∧ (∀ l, x.up = true → x.en = true → p ≠ 8 → (s.part p).saved = none →
        (x.ready.contains x.txNext = true → s.ringParts n.val x.tx .load (ringOffsets x.tx (x.txNext.toNat % x.txn)) = .ok l →
          Completes (.transmitBlock n) s fun u => (∀ m, u.strand m = s.strand m) ∧ MemKept s u
            ∧ (l.flatten.any (fun a => inRegion (s.part p).ptreg a.key a.size) = true → (u.part p).dcount.get 15 = ((s.part p).event 15 0).dcount.get 15)
            ∧ u.slport n.val = { x with
            txNext := x.txNext + 1, ready := x.ready.filter (· ≠ x.txNext),
            out := x.out ++ [(x.txNext, (s.ringRead (ringUnit x.tx) l).1, (s.ringRead (ringUnit x.tx) l).2)] })
        ∧ ((x.rxNext - x.cons).toNat < x.rxn → s.ringParts n.val x.rx .store (ringOffsets x.rx (x.rxNext.toNat % x.rxn)) = .ok l →
          (∀ a ∈ l.flatten, s.swapBytes p a.key a.size = false) → Completes (.receiveBlock n data scales) s fun u =>
            u.slport n.val = { x with rxNext := x.rxNext + 1 } ∧ (∀ m, u.strand m = s.strand m)
            ∧ u.mem = (s.ringWrite p (ringUnit x.rx) data scales l).mem
            ∧ ∃ m : Msg, u.net = s.net ++ [m] ∧ coreOf m.dest = gatewayCluster n.val * 48 + x.rxNext.toNat % 12
                ∧ m.body = .decrement x.cell 1 [x.rxNext.setWidth 64] none false))
    ∧ (x.up = true → x.en = true → (∃ o ∈ x.out, o.1 = b) → Completes (.peerAcknowledgement n b) s fun u =>
        (u.slport n.val).acked = b ∧ (∃ l o, x.out = l ++ o :: (u.slport n.val).out ∧ o.1 = b ∧ ∀ z ∈ l, z.1 ≠ b)
        ∧ (∀ m, u.strand m = s.strand m) ∧ MemKept s u)

/-! ## Encoding, steps, reset and the invariant (R230 to R238, R410, R416) -/

/-- R230, R232 to R237: the words of every well-formed instruction decode to it, every operand at every value; a one-word form takes no
second word. -/
def Obligations.DecodeEncode : Prop :=
  ∀ i : Instr, i.wf = true →
    (encode i).length ≤ 2
    ∧ (∀ w, encode i = [w] → isLong w = false ∧ ∀ x, decode w x = .ok i)
    ∧ (∀ w x, encode i = [w, x] → isLong w = true ∧ decode w x = .ok i)

/-- R232 to R238: what a word decodes to is well formed and has no other words: no bit of a word is dropped, and no two words stand for one
instruction. -/
def Obligations.EncodeDecode : Prop :=
  ∀ (w x : IWord) (i : Instr), decode w x = .ok i → i.wf = true ∧ encode i = if isLong w = true then [w, x] else [w]

/-- R232 to R237: words written out from the encoding tables, and the instructions they stand for; a reserved major, an unassigned
selector and an illegal field are refused (R238). -/
def Obligations.DecodedWords : Prop :=
  (∀ x, decode 0x04C62000 x = .ok (.add 6 6 4 0) ∧ decode 0x08E00001 x = .ok (.addi 7 0 1) ∧ decode 0x1C850043 x = .ok (.shi 4 5 1 3)
    ∧ decode 0x48010000 x = .ok (.jlr 0 1 0) ∧ decode 0x98221870 x = .ok (.vadds 1 2 3 0 0) ∧ decode 0xB4242806 x = .ok (.vrand 1 4 5 0)
    ∧ decode 0xB8853006 x = .ok (.forkP 4 5 6 0 2) ∧ decode 0xB8001020 x = .ok (.done 2 0) ∧ decode 0xC4050040 x = .ok (.tlbinv 5 0))
  ∧ (∀ x, decode 0x00000000 x = .error .major ∧ decode 0x04C623E0 x = .error .selector ∧ decode 0x04C62001 x = .error .field)

/-- R113, R122, R230, R231, R238, R253: a step in which a strand issues runs the instruction that the words at its PC decode to, in the
state with that strand chosen; words that are no instruction raise cause 0x01. One that waits for a register's value issues later, or goes
aside with the registers as they stand, to run once it knows the value (R116); one that accesses memory waits for an open `fence` (R122),
and one of those that R253 names until every earlier instruction has retired. A step of the device runs its own meaning. The schedule is
the model's (log 8), and so is what an instruction waits for (logs 1, 9, 61, 62, 78). -/
def Obligations.StepRunsDecoded : Prop :=
  ∀ (s : State) (m : Move) (rest : List Move) (t : Nat) (late : Bool) (w x : IWord) (i : Instr),
    s.agenda = m :: rest → (∀ e ∈ s.strands, e.2.held = []) →
    let s0 : State := { s with agenda := rest, cycle := s.cycle + BitVec.ofNat 64 m.dt, slip := m.slip }
    let y := s.strand t
    let at_ := fun (a : Word) => BitVec.ofNat 32 (Memory.readN s.mem (coreAddr (coreOf t) a.toNat) 4)
    (m.act = (if late then .issueLate t else .issue t) →
      (∀ s1, s0.prepare t late = .words w x s1 →
        (decode w x = .ok i → step s = exec i s1)
        ∧ (∀ e, decode w x = .error e → step s = .next (s1.deliver 0x01 s1.ir s1.me.pc)))
      ∧ (s.interrupted t = false → s.issuable t = true → y.fbuf = [] → inLocal y.pc 4 → w = at_ y.pc →
          let needs := Instr.uses (fctlEnables y.csr.fctl ≠ 0) i
          let waits := (accessMajor w = true ∧ y.awaitsFence = true) ∨ (Instr.accesses i = true ∧ y.awaitsFence = true)
            ∨ (Instr.afterRetired i = true ∧ y.retired = false)
          let runs := fun (ws : List IWord) (ptes : List (Option Nat)) =>
            (waits → step s = .next s0)
            ∧ (¬ waits → y.unknown needs.reads = false → step s = exec i (s0.issuing t late ws ptes))
            ∧ (∀ rs ds, ¬ waits → y.unknown needs.reads = true → needs.reads = some rs → needs.writes = some ds →
                step s = .next ((s0.issuing t late ws ptes).defer ws rs ds))
            ∧ (¬ waits → y.unknown needs.reads = true → (needs.reads = none ∨ needs.writes = none) → step s = .next s0)
          (isLong w = false → decode w 0 = .ok i → runs [w] [none])
          ∧ (isLong w = true → inLocal (y.pc + 4) 4 → x = at_ (y.pc + 4) → decode w x = .ok i → runs [w, x] [none, none]))
      ∧ (s.interrupted t = true → step s = .next (s0.takeInterrupt t)))
    ∧ (m.act = .event i → (encode i = [] → step s = exec i s0) ∧ (encode i ≠ [] → step s = .fault .notEnabled))
    ∧ (m.act = .idle → step s = .next s0)

/-- R102, R138, R204, R251, R254, R300, R346, R410, R416: the state right after reset: stage 1, no partition, no strand on any frame, the
CSRs at the values their rules give, memory in its canonical form. What an off-package byte reads is the model's choice (log 3), as is a
register without a reset value (log 4). -/
def Obligations.ResetState : Prop :=
  let s := State.reset
  s.MemWf ∧ s.ZeroReg ∧ s.io.stage = 1 ∧ s.io.fail = 0 ∧ s.io.pwrcap = 1800 ∧ (∀ a, Memory.read s.mem a = 0)
  ∧ (∀ t, (s.strand t).st = .free ∧ (s.strand t).level = 0 ∧ (s.strand t).resident = false ∧ (s.strand t).csr.fctl = 0x800
      ∧ (s.strand t).csr.lwrr = 1 ∧ (s.strand t).csr.fbudget = 0x0010000000010000 ∧ (s.strand t).csr.tstat = 0 ∧ (s.strand t).csr.tvec = 0
      ∧ (∀ r, (s.strand t).rs r = 0) ∧ (∀ r, (s.strand t).rv r = 0))
  ∧ (∀ p, s.mask p = 0 ∧ (s.part p).gang = none ∧ (s.part p).dmode = false ∧ (s.part p).ptreg = 0 ∧ (s.part p).pcstrn = 16
      ∧ (s.part p).tdi = .unlocked ∧ (s.part p).alevel = 0x11)
  ∧ (∀ c, (s.core c).gate = 0 ∧ (s.core c).stage = 0 ∧ (s.core c).strands = 0 ∧ (s.core c).cmtvec = 0 ∧ (s.core c).lines = [])
  ∧ (∀ c, (s.chan c).next = 0 ∧ (s.chan c).cur = 0xFFFF ∧ (s.chan c).wm = 0xFFFFFFFF)
  ∧ s.cmds = [] ∧ s.net = []

/-- Every step keeps memory in its canonical form, whatever the step is: an instruction, a trap, a step of the device, of a link or of
the host. The form is the model's own; that it always holds is what makes a byte read back as it was last written (R113). -/
def Obligations.MemoryInvariant : Prop :=
  ∀ s t : State, s.MemWf → step s = .next t → t.MemWf
end

