-- ==== Sys2Proof/Laws/Memory.lean ====
section
/-! SUPPORT. The canonical form of memory is kept by every operation on it, and what a read finds after a write. -/

namespace Sys2Proof.Machine

/-! ## The form -/

theorem Memory.wf_iff (m : List Host.Cell) :
    Memory.wf m = true ↔ m.Pairwise (fun c d => c.1 < d.1) ∧ ∀ c ∈ m, c.2 ≠ Memory.default := by
  induction m with
  | nil => simp [Memory.wf]
  | cons c m ih =>
    obtain ⟨a, b⟩ := c
    cases m with
    | nil => simp [Memory.wf]
    | cons d m =>
      obtain ⟨a', b'⟩ := d
      simp only [Memory.wf, Bool.and_eq_true, bne_iff_ne, decide_eq_true_eq, ih, List.pairwise_cons, List.mem_cons,
        forall_eq_or_imp]
      constructor
      · rintro ⟨⟨h1, h2⟩, ⟨h3, h4⟩, h5, h6⟩
        exact ⟨⟨⟨h2, fun e he => Nat.lt_trans h2 (h3 e he)⟩, h3, h4⟩, h1, h5, h6⟩
      · rintro ⟨⟨⟨h2, _⟩, h3, h4⟩, h1, h5, h6⟩
        exact ⟨⟨h1, h2⟩, ⟨h3, h4⟩, h5, h6⟩

theorem Memory.wf_nil : Memory.wf [] = true := rfl

theorem Memory.wf_filter {m : List Host.Cell} (f : Host.Cell → Bool) (h : Memory.wf m = true) : Memory.wf (m.filter f) = true := by
  rw [Memory.wf_iff] at *
  exact ⟨h.1.filter _, fun c hc => h.2 c (List.mem_filter.1 hc).1⟩

theorem Memory.mem_write {m : List Host.Cell} {a : Nat} {x : Byte} {c : Host.Cell} (h : c ∈ Memory.write m a x) :
    (c = (a, x) ∧ x ≠ Memory.default) ∨ c ∈ m := by
  induction m with
  | nil => simp only [Memory.write] at h; split at h <;> simp_all
  | cons e m ih =>
    obtain ⟨k, b⟩ := e
    simp only [Memory.write] at h
    split at h
    · split at h <;> simp_all; rcases h with h | h <;> simp [h]
    · split at h
      · split at h <;> simp_all
      · rcases List.mem_cons.1 h with h | h
        · exact .inr (by simp [h])
        · rcases ih h with h | h
          · exact .inl h
          · exact .inr (List.mem_cons_of_mem _ h)

theorem Memory.wf_write {m : List Host.Cell} (a : Nat) (x : Byte) (h : Memory.wf m = true) : Memory.wf (Memory.write m a x) = true := by
  rw [Memory.wf_iff] at *
  refine ⟨?_, fun c hc => ?_⟩
  · obtain ⟨hp, -⟩ := h
    induction m with
    | nil => simp only [Memory.write]; split <;> simp
    | cons e m ih =>
      obtain ⟨k, b⟩ := e
      rw [List.pairwise_cons] at hp
      simp only [Memory.write]
      split
      · rename_i hk
        split
        · exact hp.2
        · exact List.pairwise_cons.2 ⟨fun c hc => hk ▸ hp.1 c hc, hp.2⟩
      · split
        · rename_i hk
          split
          · exact List.pairwise_cons.2 hp
          · refine List.pairwise_cons.2 ⟨fun c hc => ?_, List.pairwise_cons.2 hp⟩
            rcases List.mem_cons.1 hc with hc | hc
            · simp [hc, hk]
            · exact Nat.lt_trans hk (hp.1 c hc)
        · refine List.pairwise_cons.2 ⟨fun c hc => ?_, ih hp.2⟩
          rcases Memory.mem_write hc with ⟨hc, -⟩ | hc
          · simp [hc]; omega
          · exact hp.1 c hc
  · rcases Memory.mem_write hc with ⟨hc, hx⟩ | hc
    · simp [hc, hx]
    · exact h.2 c hc

theorem Memory.wf_foldl {α : Type} (f : List Host.Cell → α → List Host.Cell) (hf : ∀ m c, Memory.wf m = true → Memory.wf (f m c) = true)
    (l : List α) {m : List Host.Cell} (h : Memory.wf m = true) : Memory.wf (l.foldl f m) = true := by
  induction l generalizing m with
  | nil => exact h
  | cons c l ih => exact ih (hf m c h)

/-! ## Every operation -/

theorem Memory.wf_writeN {m : List Host.Cell} (a n x : Nat) (h : Memory.wf m = true) : Memory.wf (Memory.writeN m a n x) = true := by
  induction n generalizing m a x with
  | zero => exact h
  | succ n ih => exact ih _ _ (Memory.wf_write _ _ h)

theorem Memory.wf_clear {m : List Host.Cell} (a n : Nat) (h : Memory.wf m = true) : Memory.wf (Memory.clear m a n) = true :=
  Memory.wf_filter _ h

theorem Memory.wf_copy {m : List Host.Cell} (src dst n : Nat) (h : Memory.wf m = true) : Memory.wf (Memory.copy m src dst n) = true := by
  induction n with
  | zero => exact h
  | succ n ih => exact Memory.wf_write _ _ ih

theorem Memory.wf_writeWords {m : List Host.Cell} (a : Nat) (l : List Word) (h : Memory.wf m = true) :
    Memory.wf (Memory.writeWords m a l) = true := by
  induction l generalizing m a with
  | nil => exact h
  | cons w l ih => exact ih _ (Memory.wf_writeN _ _ _ h)

theorem Memory.wf_writeDirty {m : List Host.Cell} (home : Nat) (l : Line) (n : Nat) (h : Memory.wf m = true) :
    Memory.wf (writeDirty m home l n) = true := by
  induction n with
  | zero => exact h
  | succ n ih => simp only [writeDirty]; split; exact Memory.wf_write _ _ ih; exact ih

theorem Memory.wf_fill {m : List Host.Cell} (a : Nat) (b : Byte) (n : Nat) (h : Memory.wf m = true) : Memory.wf (Memory.fill m a b n) = true := by
  induction n with
  | zero => exact h
  | succ n ih => exact Memory.wf_write _ _ ih

theorem Memory.wf_loomPadSet {m : List Host.Cell} (base : Nat) (p : Byte) (h : Memory.wf m = true) : Memory.wf (loomPadSet m base p) = true :=
  Memory.wf_fill _ _ _ (Memory.wf_fill _ _ _ h)

theorem Memory.wf_loomPlace {m : List Host.Cell} (base col kb : Nat) (es : List Nat) (sc : Nat) (h : Memory.wf m = true) :
    Memory.wf (loomPlace m base col kb es sc) = true :=
  Memory.wf_write _ _ (Memory.wf_foldl _ (fun _ _ h => Memory.wf_write _ _ h) _ h)

theorem Memory.wf_clearDieMem {m : List Host.Cell} (d : Nat) (h : Memory.wf m = true) : Memory.wf (clearDieMem m d) = true :=
  Memory.wf_clear _ _ h

theorem Memory.wf_clearChip {m : List Host.Cell} (h : Memory.wf m = true) : Memory.wf (clearChip m) = true := Memory.wf_filter _ h

theorem Memory.wf_move {m : List Host.Cell} (src dst n : Nat) (h : Memory.wf m = true) : Memory.wf (Memory.move m src dst n) = true :=
  Memory.wf_foldl _ (fun _ _ h => Memory.wf_write _ _ h) _ (Memory.wf_clear _ _ h)

theorem Memory.wf_exchange {m : List Host.Cell} (a b n : Nat) (h : Memory.wf m = true) : Memory.wf (Memory.exchange m a b n) = true :=
  Memory.wf_foldl _ (fun _ _ h => Memory.wf_write _ _ h) _
    (Memory.wf_foldl _ (fun _ _ h => Memory.wf_write _ _ h) _ (Memory.wf_clear _ _ (Memory.wf_clear _ _ h)))

theorem Memory.wf_spillFrames {m : List Host.Cell} (s : State) (cl base : Nat) (h : Memory.wf m = true) :
    Memory.wf (s.spillFrames cl base m) = true :=
  Memory.wf_foldl _ (fun _ _ h => Memory.wf_foldl _ (fun _ _ h => by dsimp only; split; exact h; exact Memory.wf_writeN _ _ _ h) _ h) _ h

/-! ## Reads after writes -/

theorem Memory.read_below {m : List Host.Cell} {a : Nat} (h : ∀ c ∈ m, a < c.1) : Memory.read m a = Memory.default := by
  cases m with
  | nil => rfl
  | cons e m =>
    have := h e (by simp)
    simp only [Memory.read]
    rw [if_neg (by omega), if_pos this]

theorem Memory.read_write {m : List Host.Cell} (a b : Nat) (x : Byte) (h : Memory.wf m = true) :
    Memory.read (Memory.write m a x) b = if b = a then x else Memory.read m b := by
  rw [Memory.wf_iff] at h
  obtain ⟨hp, -⟩ := h
  induction m with
  | nil =>
    simp only [Memory.write, Memory.read]
    split
    · simp only [Memory.read]; split <;> simp_all
    · simp only [Memory.read]; split <;> simp_all
  | cons e m ih =>
    obtain ⟨k, v⟩ := e
    rw [List.pairwise_cons] at hp
    have hlow : ∀ {b : Nat}, b ≤ k → Memory.read m b = Memory.default := fun hb =>
      Memory.read_below fun c hc => by have := hp.1 c hc; simp only at this; omega
    simp only [Memory.write]
    split
    · rename_i hk
      split
      · rename_i hx
        by_cases hb : b = a
        · subst hb; simp [hlow (Nat.le_of_eq hk), hx]
        · simp only [hb, if_false, Memory.read]
          rw [if_neg (by omega)]
          split
          · exact hlow (by omega)
          · rfl
      · by_cases hb : b = a
        · simp [Memory.read, hb]
        · simp only [Memory.read, hb, if_false, ← hk]
    · rename_i hk
      split
      · rename_i hlt
        split
        · rename_i hx
          by_cases hb : b = a
          · subst hb; simp [Memory.read, hk, hlt, hx]
          · simp [hb]
        · by_cases hb : b = a
          · simp [Memory.read, hb]
          · simp only [Memory.read, hb, if_false]
            by_cases hba : b < a
            · rw [if_pos hba, if_neg (by omega), if_pos (by omega)]
            · rw [if_neg hba]
      · rename_i hlt
        simp only [Memory.read]
        by_cases hbk : b = k
        · rw [if_pos hbk, if_pos hbk, if_neg (by omega)]
        · rw [if_neg hbk, if_neg hbk]
          by_cases hb : b < k
          · rw [if_pos hb, if_pos hb, if_neg (by omega)]
          · rw [if_neg hb, if_neg hb, ih hp.2]

theorem Memory.read_writeN {m : List Host.Cell} (a n x b : Nat) (h : Memory.wf m = true) :
    Memory.read (Memory.writeN m a n x) b =
      if a ≤ b ∧ b < a + n then BitVec.ofNat 8 (x / 256 ^ (b - a)) else Memory.read m b := by
  induction n generalizing m a x with
  | zero => rw [if_neg (by omega)]; rfl
  | succ n ih =>
    simp only [Memory.writeN]
    rw [ih _ _ (Memory.wf_write _ _ h), Memory.read_write _ _ _ h]
    by_cases hb : b = a
    · subst hb
      rw [if_neg (by omega), if_pos rfl, if_pos (by omega)]; simp
    · by_cases hr : a + 1 ≤ b ∧ b < a + 1 + n
      · rw [if_pos hr, if_pos (by omega), show b - a = (b - (a + 1)) + 1 by omega, Nat.pow_succ, Nat.mul_comm, Nat.div_div_eq_div_mul]
      · rw [if_neg hr, if_neg hb, if_neg (by omega)]

theorem Memory.read_writeN_outside {m : List Host.Cell} (a n x : Nat) {b : Nat} (h : Memory.wf m = true) (hb : b < a ∨ a + n ≤ b) :
    Memory.read (Memory.writeN m a n x) b = Memory.read m b := by
  rw [Memory.read_writeN _ _ _ _ h, if_neg (by omega)]

theorem Memory.readN_writeN_same {m : List Host.Cell} (a n x : Nat) (h : Memory.wf m = true) :
    Memory.readN (Memory.writeN m a n x) a n = x % 256 ^ n := by
  induction n generalizing m a x with
  | zero => simp [Memory.readN, Nat.mod_one]
  | succ n ih =>
    simp only [Memory.readN, Memory.writeN]
    have h1 := Memory.wf_write a (BitVec.ofNat 8 x) h
    rw [ih _ _ h1, Memory.read_writeN_outside _ _ _ h1 (by omega), Memory.read_write _ _ _ h, if_pos rfl]
    rw [BitVec.toNat_ofNat, show 2 ^ 8 = 256 from rfl, show 256 ^ (n + 1) = 256 * 256 ^ n by rw [Nat.pow_succ, Nat.mul_comm], Nat.mod_mul]

theorem reset_memWf : Memory.wf State.reset.mem = true := rfl

end Sys2Proof.Machine
end

