-- ==== Sys2Proof/Laws/State.lean ====
section
/-! SUPPORT. What an update of the state leaves alone and what a reader finds after it: one rewriting lemma per field and update. -/

namespace Sys2Proof

theorem SMap.get_set {α : Type} (d : α) (m : SMap α) (i j : Nat) (x : α) :
    SMap.get d (SMap.set m i x) j = if j = i then x else SMap.get d m j := by
  induction m with
  | nil => simp [SMap.set, SMap.get]
  | cons e m ih =>
    obtain ⟨k, v⟩ := e
    simp only [SMap.set]
    split
    · subst_vars; simp only [SMap.get]; split <;> simp_all
    · split
      · simp only [SMap.get]
      · simp only [SMap.get, ih]
        by_cases hk : j = k
        · have : ¬ j = i := by omega
          simp [hk]; omega
        · simp [hk]

@[simp] theorem SMap.get_set_self {α : Type} (d : α) (m : SMap α) (i : Nat) (x : α) : SMap.get d (SMap.set m i x) i = x := by
  simp [SMap.get_set]

theorem SMap.get_set_ne {α : Type} (d : α) (m : SMap α) {i j : Nat} (x : α) (h : j ≠ i) :
    SMap.get d (SMap.set m i x) j = SMap.get d m j := by
  simp [SMap.get_set, h]

namespace Machine

@[simp] theorem State.setStrand_mem (s : State) (t : Nat) (x : Strand) : (s.setStrand t x).mem = s.mem := rfl
@[simp] theorem State.setStrand_cores (s : State) (t : Nat) (x : Strand) : (s.setStrand t x).cores = s.cores := rfl
@[simp] theorem State.setStrand_cells (s : State) (t : Nat) (x : Strand) : (s.setStrand t x).cells = s.cells := rfl
@[simp] theorem State.setStrand_clusters (s : State) (t : Nat) (x : Strand) : (s.setStrand t x).clusters = s.clusters := rfl
@[simp] theorem State.setStrand_dies (s : State) (t : Nat) (x : Strand) : (s.setStrand t x).dies = s.dies := rfl
@[simp] theorem State.setStrand_looms (s : State) (t : Nat) (x : Strand) : (s.setStrand t x).looms = s.looms := rfl
@[simp] theorem State.setStrand_chans (s : State) (t : Nat) (x : Strand) : (s.setStrand t x).chans = s.chans := rfl
@[simp] theorem State.setStrand_cmds (s : State) (t : Nat) (x : Strand) : (s.setStrand t x).cmds = s.cmds := rfl
@[simp] theorem State.setStrand_issued (s : State) (t : Nat) (x : Strand) : (s.setStrand t x).issued = s.issued := rfl
@[simp] theorem State.setStrand_net (s : State) (t : Nat) (x : Strand) : (s.setStrand t x).net = s.net := rfl
@[simp] theorem State.setStrand_parts (s : State) (t : Nat) (x : Strand) : (s.setStrand t x).parts = s.parts := rfl
@[simp] theorem State.setStrand_ports (s : State) (t : Nat) (x : Strand) : (s.setStrand t x).ports = s.ports := rfl
@[simp] theorem State.setStrand_io (s : State) (t : Nat) (x : Strand) : (s.setStrand t x).io = s.io := rfl
@[simp] theorem State.setStrand_ptePend (s : State) (t : Nat) (x : Strand) : (s.setStrand t x).ptePend = s.ptePend := rfl
@[simp] theorem State.setStrand_lands (s : State) (t : Nat) (x : Strand) : (s.setStrand t x).lands = s.lands := rfl
@[simp] theorem State.setStrand_cycle (s : State) (t : Nat) (x : Strand) : (s.setStrand t x).cycle = s.cycle := rfl
@[simp] theorem State.setStrand_cur (s : State) (t : Nat) (x : Strand) : (s.setStrand t x).cur = s.cur := rfl
@[simp] theorem State.setStrand_ir (s : State) (t : Nat) (x : Strand) : (s.setStrand t x).ir = s.ir := rfl
@[simp] theorem State.setStrand_late (s : State) (t : Nat) (x : Strand) : (s.setStrand t x).late = s.late := rfl
@[simp] theorem State.setStrand_slip (s : State) (t : Nat) (x : Strand) : (s.setStrand t x).slip = s.slip := rfl
@[simp] theorem State.setStrand_agenda (s : State) (t : Nat) (x : Strand) : (s.setStrand t x).agenda = s.agenda := rfl
@[simp] theorem State.setStrand_fresh (s : State) (t : Nat) (x : Strand) : (s.setStrand t x).fresh = s.fresh := rfl

@[simp] theorem State.modStrand_mem (s : State) (t : Nat) (f : Strand → Strand) : (s.modStrand t f).mem = s.mem := rfl
@[simp] theorem State.modStrand_cores (s : State) (t : Nat) (f : Strand → Strand) : (s.modStrand t f).cores = s.cores := rfl
@[simp] theorem State.modStrand_cells (s : State) (t : Nat) (f : Strand → Strand) : (s.modStrand t f).cells = s.cells := rfl
@[simp] theorem State.modStrand_clusters (s : State) (t : Nat) (f : Strand → Strand) : (s.modStrand t f).clusters = s.clusters := rfl
@[simp] theorem State.modStrand_dies (s : State) (t : Nat) (f : Strand → Strand) : (s.modStrand t f).dies = s.dies := rfl
@[simp] theorem State.modStrand_looms (s : State) (t : Nat) (f : Strand → Strand) : (s.modStrand t f).looms = s.looms := rfl
@[simp] theorem State.modStrand_chans (s : State) (t : Nat) (f : Strand → Strand) : (s.modStrand t f).chans = s.chans := rfl
@[simp] theorem State.modStrand_cmds (s : State) (t : Nat) (f : Strand → Strand) : (s.modStrand t f).cmds = s.cmds := rfl
@[simp] theorem State.modStrand_issued (s : State) (t : Nat) (f : Strand → Strand) : (s.modStrand t f).issued = s.issued := rfl
@[simp] theorem State.modStrand_net (s : State) (t : Nat) (f : Strand → Strand) : (s.modStrand t f).net = s.net := rfl
@[simp] theorem State.modStrand_parts (s : State) (t : Nat) (f : Strand → Strand) : (s.modStrand t f).parts = s.parts := rfl
@[simp] theorem State.modStrand_ports (s : State) (t : Nat) (f : Strand → Strand) : (s.modStrand t f).ports = s.ports := rfl
@[simp] theorem State.modStrand_io (s : State) (t : Nat) (f : Strand → Strand) : (s.modStrand t f).io = s.io := rfl
@[simp] theorem State.modStrand_ptePend (s : State) (t : Nat) (f : Strand → Strand) : (s.modStrand t f).ptePend = s.ptePend := rfl
@[simp] theorem State.modStrand_lands (s : State) (t : Nat) (f : Strand → Strand) : (s.modStrand t f).lands = s.lands := rfl
@[simp] theorem State.modStrand_cycle (s : State) (t : Nat) (f : Strand → Strand) : (s.modStrand t f).cycle = s.cycle := rfl
@[simp] theorem State.modStrand_cur (s : State) (t : Nat) (f : Strand → Strand) : (s.modStrand t f).cur = s.cur := rfl
@[simp] theorem State.modStrand_ir (s : State) (t : Nat) (f : Strand → Strand) : (s.modStrand t f).ir = s.ir := rfl
@[simp] theorem State.modStrand_late (s : State) (t : Nat) (f : Strand → Strand) : (s.modStrand t f).late = s.late := rfl
@[simp] theorem State.modStrand_slip (s : State) (t : Nat) (f : Strand → Strand) : (s.modStrand t f).slip = s.slip := rfl
@[simp] theorem State.modStrand_agenda (s : State) (t : Nat) (f : Strand → Strand) : (s.modStrand t f).agenda = s.agenda := rfl
@[simp] theorem State.modStrand_fresh (s : State) (t : Nat) (f : Strand → Strand) : (s.modStrand t f).fresh = s.fresh := rfl

@[simp] theorem State.setMe_mem (s : State) (x : Strand) : (s.setMe x).mem = s.mem := rfl
@[simp] theorem State.setMe_cores (s : State) (x : Strand) : (s.setMe x).cores = s.cores := rfl
@[simp] theorem State.setMe_cells (s : State) (x : Strand) : (s.setMe x).cells = s.cells := rfl
@[simp] theorem State.setMe_clusters (s : State) (x : Strand) : (s.setMe x).clusters = s.clusters := rfl
@[simp] theorem State.setMe_dies (s : State) (x : Strand) : (s.setMe x).dies = s.dies := rfl
@[simp] theorem State.setMe_looms (s : State) (x : Strand) : (s.setMe x).looms = s.looms := rfl
@[simp] theorem State.setMe_chans (s : State) (x : Strand) : (s.setMe x).chans = s.chans := rfl
@[simp] theorem State.setMe_cmds (s : State) (x : Strand) : (s.setMe x).cmds = s.cmds := rfl
@[simp] theorem State.setMe_issued (s : State) (x : Strand) : (s.setMe x).issued = s.issued := rfl
@[simp] theorem State.setMe_net (s : State) (x : Strand) : (s.setMe x).net = s.net := rfl
@[simp] theorem State.setMe_parts (s : State) (x : Strand) : (s.setMe x).parts = s.parts := rfl
@[simp] theorem State.setMe_ports (s : State) (x : Strand) : (s.setMe x).ports = s.ports := rfl
@[simp] theorem State.setMe_io (s : State) (x : Strand) : (s.setMe x).io = s.io := rfl
@[simp] theorem State.setMe_ptePend (s : State) (x : Strand) : (s.setMe x).ptePend = s.ptePend := rfl
@[simp] theorem State.setMe_lands (s : State) (x : Strand) : (s.setMe x).lands = s.lands := rfl
@[simp] theorem State.setMe_cycle (s : State) (x : Strand) : (s.setMe x).cycle = s.cycle := rfl
@[simp] theorem State.setMe_cur (s : State) (x : Strand) : (s.setMe x).cur = s.cur := rfl
@[simp] theorem State.setMe_ir (s : State) (x : Strand) : (s.setMe x).ir = s.ir := rfl
@[simp] theorem State.setMe_late (s : State) (x : Strand) : (s.setMe x).late = s.late := rfl
@[simp] theorem State.setMe_slip (s : State) (x : Strand) : (s.setMe x).slip = s.slip := rfl
@[simp] theorem State.setMe_agenda (s : State) (x : Strand) : (s.setMe x).agenda = s.agenda := rfl
@[simp] theorem State.setMe_fresh (s : State) (x : Strand) : (s.setMe x).fresh = s.fresh := rfl

@[simp] theorem State.setCore_mem (s : State) (c : Nat) (x : Core) : (s.setCore c x).mem = s.mem := rfl
@[simp] theorem State.setCore_strands (s : State) (c : Nat) (x : Core) : (s.setCore c x).strands = s.strands := rfl
@[simp] theorem State.setCore_cells (s : State) (c : Nat) (x : Core) : (s.setCore c x).cells = s.cells := rfl
@[simp] theorem State.setCore_clusters (s : State) (c : Nat) (x : Core) : (s.setCore c x).clusters = s.clusters := rfl
@[simp] theorem State.setCore_dies (s : State) (c : Nat) (x : Core) : (s.setCore c x).dies = s.dies := rfl
@[simp] theorem State.setCore_looms (s : State) (c : Nat) (x : Core) : (s.setCore c x).looms = s.looms := rfl
@[simp] theorem State.setCore_chans (s : State) (c : Nat) (x : Core) : (s.setCore c x).chans = s.chans := rfl
@[simp] theorem State.setCore_cmds (s : State) (c : Nat) (x : Core) : (s.setCore c x).cmds = s.cmds := rfl
@[simp] theorem State.setCore_issued (s : State) (c : Nat) (x : Core) : (s.setCore c x).issued = s.issued := rfl
@[simp] theorem State.setCore_net (s : State) (c : Nat) (x : Core) : (s.setCore c x).net = s.net := rfl
@[simp] theorem State.setCore_parts (s : State) (c : Nat) (x : Core) : (s.setCore c x).parts = s.parts := rfl
@[simp] theorem State.setCore_ports (s : State) (c : Nat) (x : Core) : (s.setCore c x).ports = s.ports := rfl
@[simp] theorem State.setCore_io (s : State) (c : Nat) (x : Core) : (s.setCore c x).io = s.io := rfl
@[simp] theorem State.setCore_ptePend (s : State) (c : Nat) (x : Core) : (s.setCore c x).ptePend = s.ptePend := rfl
@[simp] theorem State.setCore_lands (s : State) (c : Nat) (x : Core) : (s.setCore c x).lands = s.lands := rfl
@[simp] theorem State.setCore_cycle (s : State) (c : Nat) (x : Core) : (s.setCore c x).cycle = s.cycle := rfl
@[simp] theorem State.setCore_cur (s : State) (c : Nat) (x : Core) : (s.setCore c x).cur = s.cur := rfl
@[simp] theorem State.setCore_ir (s : State) (c : Nat) (x : Core) : (s.setCore c x).ir = s.ir := rfl
@[simp] theorem State.setCore_late (s : State) (c : Nat) (x : Core) : (s.setCore c x).late = s.late := rfl
@[simp] theorem State.setCore_slip (s : State) (c : Nat) (x : Core) : (s.setCore c x).slip = s.slip := rfl
@[simp] theorem State.setCore_agenda (s : State) (c : Nat) (x : Core) : (s.setCore c x).agenda = s.agenda := rfl
@[simp] theorem State.setCore_fresh (s : State) (c : Nat) (x : Core) : (s.setCore c x).fresh = s.fresh := rfl

@[simp] theorem State.modCore_mem (s : State) (c : Nat) (f : Core → Core) : (s.modCore c f).mem = s.mem := rfl
@[simp] theorem State.modCore_strands (s : State) (c : Nat) (f : Core → Core) : (s.modCore c f).strands = s.strands := rfl
@[simp] theorem State.modCore_cells (s : State) (c : Nat) (f : Core → Core) : (s.modCore c f).cells = s.cells := rfl
@[simp] theorem State.modCore_clusters (s : State) (c : Nat) (f : Core → Core) : (s.modCore c f).clusters = s.clusters := rfl
@[simp] theorem State.modCore_dies (s : State) (c : Nat) (f : Core → Core) : (s.modCore c f).dies = s.dies := rfl
@[simp] theorem State.modCore_looms (s : State) (c : Nat) (f : Core → Core) : (s.modCore c f).looms = s.looms := rfl
@[simp] theorem State.modCore_chans (s : State) (c : Nat) (f : Core → Core) : (s.modCore c f).chans = s.chans := rfl
@[simp] theorem State.modCore_cmds (s : State) (c : Nat) (f : Core → Core) : (s.modCore c f).cmds = s.cmds := rfl
@[simp] theorem State.modCore_issued (s : State) (c : Nat) (f : Core → Core) : (s.modCore c f).issued = s.issued := rfl
@[simp] theorem State.modCore_net (s : State) (c : Nat) (f : Core → Core) : (s.modCore c f).net = s.net := rfl
@[simp] theorem State.modCore_parts (s : State) (c : Nat) (f : Core → Core) : (s.modCore c f).parts = s.parts := rfl
@[simp] theorem State.modCore_ports (s : State) (c : Nat) (f : Core → Core) : (s.modCore c f).ports = s.ports := rfl
@[simp] theorem State.modCore_io (s : State) (c : Nat) (f : Core → Core) : (s.modCore c f).io = s.io := rfl
@[simp] theorem State.modCore_ptePend (s : State) (c : Nat) (f : Core → Core) : (s.modCore c f).ptePend = s.ptePend := rfl
@[simp] theorem State.modCore_lands (s : State) (c : Nat) (f : Core → Core) : (s.modCore c f).lands = s.lands := rfl
@[simp] theorem State.modCore_cycle (s : State) (c : Nat) (f : Core → Core) : (s.modCore c f).cycle = s.cycle := rfl
@[simp] theorem State.modCore_cur (s : State) (c : Nat) (f : Core → Core) : (s.modCore c f).cur = s.cur := rfl
@[simp] theorem State.modCore_ir (s : State) (c : Nat) (f : Core → Core) : (s.modCore c f).ir = s.ir := rfl
@[simp] theorem State.modCore_late (s : State) (c : Nat) (f : Core → Core) : (s.modCore c f).late = s.late := rfl
@[simp] theorem State.modCore_slip (s : State) (c : Nat) (f : Core → Core) : (s.modCore c f).slip = s.slip := rfl
@[simp] theorem State.modCore_agenda (s : State) (c : Nat) (f : Core → Core) : (s.modCore c f).agenda = s.agenda := rfl
@[simp] theorem State.modCore_fresh (s : State) (c : Nat) (f : Core → Core) : (s.modCore c f).fresh = s.fresh := rfl

@[simp] theorem State.setCell_mem (s : State) (c j : Nat) (x : Cell) : (s.setCell c j x).mem = s.mem := rfl
@[simp] theorem State.setCell_strands (s : State) (c j : Nat) (x : Cell) : (s.setCell c j x).strands = s.strands := rfl
@[simp] theorem State.setCell_cores (s : State) (c j : Nat) (x : Cell) : (s.setCell c j x).cores = s.cores := rfl
@[simp] theorem State.setCell_clusters (s : State) (c j : Nat) (x : Cell) : (s.setCell c j x).clusters = s.clusters := rfl
@[simp] theorem State.setCell_dies (s : State) (c j : Nat) (x : Cell) : (s.setCell c j x).dies = s.dies := rfl
@[simp] theorem State.setCell_looms (s : State) (c j : Nat) (x : Cell) : (s.setCell c j x).looms = s.looms := rfl
@[simp] theorem State.setCell_chans (s : State) (c j : Nat) (x : Cell) : (s.setCell c j x).chans = s.chans := rfl
@[simp] theorem State.setCell_cmds (s : State) (c j : Nat) (x : Cell) : (s.setCell c j x).cmds = s.cmds := rfl
@[simp] theorem State.setCell_issued (s : State) (c j : Nat) (x : Cell) : (s.setCell c j x).issued = s.issued := rfl
@[simp] theorem State.setCell_net (s : State) (c j : Nat) (x : Cell) : (s.setCell c j x).net = s.net := rfl
@[simp] theorem State.setCell_parts (s : State) (c j : Nat) (x : Cell) : (s.setCell c j x).parts = s.parts := rfl
@[simp] theorem State.setCell_ports (s : State) (c j : Nat) (x : Cell) : (s.setCell c j x).ports = s.ports := rfl
@[simp] theorem State.setCell_io (s : State) (c j : Nat) (x : Cell) : (s.setCell c j x).io = s.io := rfl
@[simp] theorem State.setCell_ptePend (s : State) (c j : Nat) (x : Cell) : (s.setCell c j x).ptePend = s.ptePend := rfl
@[simp] theorem State.setCell_lands (s : State) (c j : Nat) (x : Cell) : (s.setCell c j x).lands = s.lands := rfl
@[simp] theorem State.setCell_cycle (s : State) (c j : Nat) (x : Cell) : (s.setCell c j x).cycle = s.cycle := rfl
@[simp] theorem State.setCell_cur (s : State) (c j : Nat) (x : Cell) : (s.setCell c j x).cur = s.cur := rfl
@[simp] theorem State.setCell_ir (s : State) (c j : Nat) (x : Cell) : (s.setCell c j x).ir = s.ir := rfl
@[simp] theorem State.setCell_late (s : State) (c j : Nat) (x : Cell) : (s.setCell c j x).late = s.late := rfl
@[simp] theorem State.setCell_slip (s : State) (c j : Nat) (x : Cell) : (s.setCell c j x).slip = s.slip := rfl
@[simp] theorem State.setCell_agenda (s : State) (c j : Nat) (x : Cell) : (s.setCell c j x).agenda = s.agenda := rfl
@[simp] theorem State.setCell_fresh (s : State) (c j : Nat) (x : Cell) : (s.setCell c j x).fresh = s.fresh := rfl

@[simp] theorem State.modCluster_mem (s : State) (c : Nat) (f : Cluster → Cluster) : (s.modCluster c f).mem = s.mem := rfl
@[simp] theorem State.modCluster_strands (s : State) (c : Nat) (f : Cluster → Cluster) : (s.modCluster c f).strands = s.strands := rfl
@[simp] theorem State.modCluster_cores (s : State) (c : Nat) (f : Cluster → Cluster) : (s.modCluster c f).cores = s.cores := rfl
@[simp] theorem State.modCluster_cells (s : State) (c : Nat) (f : Cluster → Cluster) : (s.modCluster c f).cells = s.cells := rfl
@[simp] theorem State.modCluster_dies (s : State) (c : Nat) (f : Cluster → Cluster) : (s.modCluster c f).dies = s.dies := rfl
@[simp] theorem State.modCluster_looms (s : State) (c : Nat) (f : Cluster → Cluster) : (s.modCluster c f).looms = s.looms := rfl
@[simp] theorem State.modCluster_chans (s : State) (c : Nat) (f : Cluster → Cluster) : (s.modCluster c f).chans = s.chans := rfl
@[simp] theorem State.modCluster_cmds (s : State) (c : Nat) (f : Cluster → Cluster) : (s.modCluster c f).cmds = s.cmds := rfl
@[simp] theorem State.modCluster_issued (s : State) (c : Nat) (f : Cluster → Cluster) : (s.modCluster c f).issued = s.issued := rfl
@[simp] theorem State.modCluster_net (s : State) (c : Nat) (f : Cluster → Cluster) : (s.modCluster c f).net = s.net := rfl
@[simp] theorem State.modCluster_parts (s : State) (c : Nat) (f : Cluster → Cluster) : (s.modCluster c f).parts = s.parts := rfl
@[simp] theorem State.modCluster_ports (s : State) (c : Nat) (f : Cluster → Cluster) : (s.modCluster c f).ports = s.ports := rfl
@[simp] theorem State.modCluster_io (s : State) (c : Nat) (f : Cluster → Cluster) : (s.modCluster c f).io = s.io := rfl
@[simp] theorem State.modCluster_ptePend (s : State) (c : Nat) (f : Cluster → Cluster) : (s.modCluster c f).ptePend = s.ptePend := rfl
@[simp] theorem State.modCluster_lands (s : State) (c : Nat) (f : Cluster → Cluster) : (s.modCluster c f).lands = s.lands := rfl
@[simp] theorem State.modCluster_cycle (s : State) (c : Nat) (f : Cluster → Cluster) : (s.modCluster c f).cycle = s.cycle := rfl
@[simp] theorem State.modCluster_cur (s : State) (c : Nat) (f : Cluster → Cluster) : (s.modCluster c f).cur = s.cur := rfl
@[simp] theorem State.modCluster_ir (s : State) (c : Nat) (f : Cluster → Cluster) : (s.modCluster c f).ir = s.ir := rfl
@[simp] theorem State.modCluster_late (s : State) (c : Nat) (f : Cluster → Cluster) : (s.modCluster c f).late = s.late := rfl
@[simp] theorem State.modCluster_slip (s : State) (c : Nat) (f : Cluster → Cluster) : (s.modCluster c f).slip = s.slip := rfl
@[simp] theorem State.modCluster_agenda (s : State) (c : Nat) (f : Cluster → Cluster) : (s.modCluster c f).agenda = s.agenda := rfl
@[simp] theorem State.modCluster_fresh (s : State) (c : Nat) (f : Cluster → Cluster) : (s.modCluster c f).fresh = s.fresh := rfl

@[simp] theorem State.modDie_mem (s : State) (d : Nat) (f : Die → Die) : (s.modDie d f).mem = s.mem := rfl
@[simp] theorem State.modDie_strands (s : State) (d : Nat) (f : Die → Die) : (s.modDie d f).strands = s.strands := rfl
@[simp] theorem State.modDie_cores (s : State) (d : Nat) (f : Die → Die) : (s.modDie d f).cores = s.cores := rfl
@[simp] theorem State.modDie_cells (s : State) (d : Nat) (f : Die → Die) : (s.modDie d f).cells = s.cells := rfl
@[simp] theorem State.modDie_clusters (s : State) (d : Nat) (f : Die → Die) : (s.modDie d f).clusters = s.clusters := rfl
@[simp] theorem State.modDie_looms (s : State) (d : Nat) (f : Die → Die) : (s.modDie d f).looms = s.looms := rfl
@[simp] theorem State.modDie_chans (s : State) (d : Nat) (f : Die → Die) : (s.modDie d f).chans = s.chans := rfl
@[simp] theorem State.modDie_cmds (s : State) (d : Nat) (f : Die → Die) : (s.modDie d f).cmds = s.cmds := rfl
@[simp] theorem State.modDie_issued (s : State) (d : Nat) (f : Die → Die) : (s.modDie d f).issued = s.issued := rfl
@[simp] theorem State.modDie_net (s : State) (d : Nat) (f : Die → Die) : (s.modDie d f).net = s.net := rfl
@[simp] theorem State.modDie_parts (s : State) (d : Nat) (f : Die → Die) : (s.modDie d f).parts = s.parts := rfl
@[simp] theorem State.modDie_ports (s : State) (d : Nat) (f : Die → Die) : (s.modDie d f).ports = s.ports := rfl
@[simp] theorem State.modDie_io (s : State) (d : Nat) (f : Die → Die) : (s.modDie d f).io = s.io := rfl
@[simp] theorem State.modDie_ptePend (s : State) (d : Nat) (f : Die → Die) : (s.modDie d f).ptePend = s.ptePend := rfl
@[simp] theorem State.modDie_lands (s : State) (d : Nat) (f : Die → Die) : (s.modDie d f).lands = s.lands := rfl
@[simp] theorem State.modDie_cycle (s : State) (d : Nat) (f : Die → Die) : (s.modDie d f).cycle = s.cycle := rfl
@[simp] theorem State.modDie_cur (s : State) (d : Nat) (f : Die → Die) : (s.modDie d f).cur = s.cur := rfl
@[simp] theorem State.modDie_ir (s : State) (d : Nat) (f : Die → Die) : (s.modDie d f).ir = s.ir := rfl
@[simp] theorem State.modDie_late (s : State) (d : Nat) (f : Die → Die) : (s.modDie d f).late = s.late := rfl
@[simp] theorem State.modDie_slip (s : State) (d : Nat) (f : Die → Die) : (s.modDie d f).slip = s.slip := rfl
@[simp] theorem State.modDie_agenda (s : State) (d : Nat) (f : Die → Die) : (s.modDie d f).agenda = s.agenda := rfl
@[simp] theorem State.modDie_fresh (s : State) (d : Nat) (f : Die → Die) : (s.modDie d f).fresh = s.fresh := rfl

@[simp] theorem State.modLoom_mem (s : State) (o : Nat) (f : Loom → Loom) : (s.modLoom o f).mem = s.mem := rfl
@[simp] theorem State.modLoom_strands (s : State) (o : Nat) (f : Loom → Loom) : (s.modLoom o f).strands = s.strands := rfl
@[simp] theorem State.modLoom_cores (s : State) (o : Nat) (f : Loom → Loom) : (s.modLoom o f).cores = s.cores := rfl
@[simp] theorem State.modLoom_cells (s : State) (o : Nat) (f : Loom → Loom) : (s.modLoom o f).cells = s.cells := rfl
@[simp] theorem State.modLoom_clusters (s : State) (o : Nat) (f : Loom → Loom) : (s.modLoom o f).clusters = s.clusters := rfl
@[simp] theorem State.modLoom_dies (s : State) (o : Nat) (f : Loom → Loom) : (s.modLoom o f).dies = s.dies := rfl
@[simp] theorem State.modLoom_chans (s : State) (o : Nat) (f : Loom → Loom) : (s.modLoom o f).chans = s.chans := rfl
@[simp] theorem State.modLoom_cmds (s : State) (o : Nat) (f : Loom → Loom) : (s.modLoom o f).cmds = s.cmds := rfl
@[simp] theorem State.modLoom_issued (s : State) (o : Nat) (f : Loom → Loom) : (s.modLoom o f).issued = s.issued := rfl
@[simp] theorem State.modLoom_net (s : State) (o : Nat) (f : Loom → Loom) : (s.modLoom o f).net = s.net := rfl
@[simp] theorem State.modLoom_parts (s : State) (o : Nat) (f : Loom → Loom) : (s.modLoom o f).parts = s.parts := rfl
@[simp] theorem State.modLoom_ports (s : State) (o : Nat) (f : Loom → Loom) : (s.modLoom o f).ports = s.ports := rfl
@[simp] theorem State.modLoom_io (s : State) (o : Nat) (f : Loom → Loom) : (s.modLoom o f).io = s.io := rfl
@[simp] theorem State.modLoom_ptePend (s : State) (o : Nat) (f : Loom → Loom) : (s.modLoom o f).ptePend = s.ptePend := rfl
@[simp] theorem State.modLoom_lands (s : State) (o : Nat) (f : Loom → Loom) : (s.modLoom o f).lands = s.lands := rfl
@[simp] theorem State.modLoom_cycle (s : State) (o : Nat) (f : Loom → Loom) : (s.modLoom o f).cycle = s.cycle := rfl
@[simp] theorem State.modLoom_cur (s : State) (o : Nat) (f : Loom → Loom) : (s.modLoom o f).cur = s.cur := rfl
@[simp] theorem State.modLoom_ir (s : State) (o : Nat) (f : Loom → Loom) : (s.modLoom o f).ir = s.ir := rfl
@[simp] theorem State.modLoom_late (s : State) (o : Nat) (f : Loom → Loom) : (s.modLoom o f).late = s.late := rfl
@[simp] theorem State.modLoom_slip (s : State) (o : Nat) (f : Loom → Loom) : (s.modLoom o f).slip = s.slip := rfl
@[simp] theorem State.modLoom_agenda (s : State) (o : Nat) (f : Loom → Loom) : (s.modLoom o f).agenda = s.agenda := rfl
@[simp] theorem State.modLoom_fresh (s : State) (o : Nat) (f : Loom → Loom) : (s.modLoom o f).fresh = s.fresh := rfl

@[simp] theorem State.modChan_mem (s : State) (c : Nat) (f : Chan → Chan) : (s.modChan c f).mem = s.mem := rfl
@[simp] theorem State.modChan_strands (s : State) (c : Nat) (f : Chan → Chan) : (s.modChan c f).strands = s.strands := rfl
@[simp] theorem State.modChan_cores (s : State) (c : Nat) (f : Chan → Chan) : (s.modChan c f).cores = s.cores := rfl
@[simp] theorem State.modChan_cells (s : State) (c : Nat) (f : Chan → Chan) : (s.modChan c f).cells = s.cells := rfl
@[simp] theorem State.modChan_clusters (s : State) (c : Nat) (f : Chan → Chan) : (s.modChan c f).clusters = s.clusters := rfl
@[simp] theorem State.modChan_dies (s : State) (c : Nat) (f : Chan → Chan) : (s.modChan c f).dies = s.dies := rfl
@[simp] theorem State.modChan_looms (s : State) (c : Nat) (f : Chan → Chan) : (s.modChan c f).looms = s.looms := rfl
@[simp] theorem State.modChan_cmds (s : State) (c : Nat) (f : Chan → Chan) : (s.modChan c f).cmds = s.cmds := rfl
@[simp] theorem State.modChan_issued (s : State) (c : Nat) (f : Chan → Chan) : (s.modChan c f).issued = s.issued := rfl
@[simp] theorem State.modChan_net (s : State) (c : Nat) (f : Chan → Chan) : (s.modChan c f).net = s.net := rfl
@[simp] theorem State.modChan_parts (s : State) (c : Nat) (f : Chan → Chan) : (s.modChan c f).parts = s.parts := rfl
@[simp] theorem State.modChan_ports (s : State) (c : Nat) (f : Chan → Chan) : (s.modChan c f).ports = s.ports := rfl
@[simp] theorem State.modChan_io (s : State) (c : Nat) (f : Chan → Chan) : (s.modChan c f).io = s.io := rfl
@[simp] theorem State.modChan_ptePend (s : State) (c : Nat) (f : Chan → Chan) : (s.modChan c f).ptePend = s.ptePend := rfl
@[simp] theorem State.modChan_lands (s : State) (c : Nat) (f : Chan → Chan) : (s.modChan c f).lands = s.lands := rfl
@[simp] theorem State.modChan_cycle (s : State) (c : Nat) (f : Chan → Chan) : (s.modChan c f).cycle = s.cycle := rfl
@[simp] theorem State.modChan_cur (s : State) (c : Nat) (f : Chan → Chan) : (s.modChan c f).cur = s.cur := rfl
@[simp] theorem State.modChan_ir (s : State) (c : Nat) (f : Chan → Chan) : (s.modChan c f).ir = s.ir := rfl
@[simp] theorem State.modChan_late (s : State) (c : Nat) (f : Chan → Chan) : (s.modChan c f).late = s.late := rfl
@[simp] theorem State.modChan_slip (s : State) (c : Nat) (f : Chan → Chan) : (s.modChan c f).slip = s.slip := rfl
@[simp] theorem State.modChan_agenda (s : State) (c : Nat) (f : Chan → Chan) : (s.modChan c f).agenda = s.agenda := rfl
@[simp] theorem State.modChan_fresh (s : State) (c : Nat) (f : Chan → Chan) : (s.modChan c f).fresh = s.fresh := rfl

@[simp] theorem State.setPart_mem (s : State) (p : Nat) (x : Part) : (s.setPart p x).mem = s.mem := rfl
@[simp] theorem State.setPart_strands (s : State) (p : Nat) (x : Part) : (s.setPart p x).strands = s.strands := rfl
@[simp] theorem State.setPart_cores (s : State) (p : Nat) (x : Part) : (s.setPart p x).cores = s.cores := rfl
@[simp] theorem State.setPart_cells (s : State) (p : Nat) (x : Part) : (s.setPart p x).cells = s.cells := rfl
@[simp] theorem State.setPart_clusters (s : State) (p : Nat) (x : Part) : (s.setPart p x).clusters = s.clusters := rfl
@[simp] theorem State.setPart_dies (s : State) (p : Nat) (x : Part) : (s.setPart p x).dies = s.dies := rfl
@[simp] theorem State.setPart_looms (s : State) (p : Nat) (x : Part) : (s.setPart p x).looms = s.looms := rfl
@[simp] theorem State.setPart_chans (s : State) (p : Nat) (x : Part) : (s.setPart p x).chans = s.chans := rfl
@[simp] theorem State.setPart_cmds (s : State) (p : Nat) (x : Part) : (s.setPart p x).cmds = s.cmds := rfl
@[simp] theorem State.setPart_issued (s : State) (p : Nat) (x : Part) : (s.setPart p x).issued = s.issued := rfl
@[simp] theorem State.setPart_net (s : State) (p : Nat) (x : Part) : (s.setPart p x).net = s.net := rfl
@[simp] theorem State.setPart_ports (s : State) (p : Nat) (x : Part) : (s.setPart p x).ports = s.ports := rfl
@[simp] theorem State.setPart_io (s : State) (p : Nat) (x : Part) : (s.setPart p x).io = s.io := rfl
@[simp] theorem State.setPart_ptePend (s : State) (p : Nat) (x : Part) : (s.setPart p x).ptePend = s.ptePend := rfl
@[simp] theorem State.setPart_lands (s : State) (p : Nat) (x : Part) : (s.setPart p x).lands = s.lands := rfl
@[simp] theorem State.setPart_cycle (s : State) (p : Nat) (x : Part) : (s.setPart p x).cycle = s.cycle := rfl
@[simp] theorem State.setPart_cur (s : State) (p : Nat) (x : Part) : (s.setPart p x).cur = s.cur := rfl
@[simp] theorem State.setPart_ir (s : State) (p : Nat) (x : Part) : (s.setPart p x).ir = s.ir := rfl
@[simp] theorem State.setPart_late (s : State) (p : Nat) (x : Part) : (s.setPart p x).late = s.late := rfl
@[simp] theorem State.setPart_slip (s : State) (p : Nat) (x : Part) : (s.setPart p x).slip = s.slip := rfl
@[simp] theorem State.setPart_agenda (s : State) (p : Nat) (x : Part) : (s.setPart p x).agenda = s.agenda := rfl
@[simp] theorem State.setPart_fresh (s : State) (p : Nat) (x : Part) : (s.setPart p x).fresh = s.fresh := rfl

@[simp] theorem State.modPart_mem (s : State) (p : Nat) (f : Part → Part) : (s.modPart p f).mem = s.mem := rfl
@[simp] theorem State.modPart_strands (s : State) (p : Nat) (f : Part → Part) : (s.modPart p f).strands = s.strands := rfl
@[simp] theorem State.modPart_cores (s : State) (p : Nat) (f : Part → Part) : (s.modPart p f).cores = s.cores := rfl
@[simp] theorem State.modPart_cells (s : State) (p : Nat) (f : Part → Part) : (s.modPart p f).cells = s.cells := rfl
@[simp] theorem State.modPart_clusters (s : State) (p : Nat) (f : Part → Part) : (s.modPart p f).clusters = s.clusters := rfl
@[simp] theorem State.modPart_dies (s : State) (p : Nat) (f : Part → Part) : (s.modPart p f).dies = s.dies := rfl
@[simp] theorem State.modPart_looms (s : State) (p : Nat) (f : Part → Part) : (s.modPart p f).looms = s.looms := rfl
@[simp] theorem State.modPart_chans (s : State) (p : Nat) (f : Part → Part) : (s.modPart p f).chans = s.chans := rfl
@[simp] theorem State.modPart_cmds (s : State) (p : Nat) (f : Part → Part) : (s.modPart p f).cmds = s.cmds := rfl
@[simp] theorem State.modPart_issued (s : State) (p : Nat) (f : Part → Part) : (s.modPart p f).issued = s.issued := rfl
@[simp] theorem State.modPart_net (s : State) (p : Nat) (f : Part → Part) : (s.modPart p f).net = s.net := rfl
@[simp] theorem State.modPart_ports (s : State) (p : Nat) (f : Part → Part) : (s.modPart p f).ports = s.ports := rfl
@[simp] theorem State.modPart_io (s : State) (p : Nat) (f : Part → Part) : (s.modPart p f).io = s.io := rfl
@[simp] theorem State.modPart_ptePend (s : State) (p : Nat) (f : Part → Part) : (s.modPart p f).ptePend = s.ptePend := rfl
@[simp] theorem State.modPart_lands (s : State) (p : Nat) (f : Part → Part) : (s.modPart p f).lands = s.lands := rfl
@[simp] theorem State.modPart_cycle (s : State) (p : Nat) (f : Part → Part) : (s.modPart p f).cycle = s.cycle := rfl
@[simp] theorem State.modPart_cur (s : State) (p : Nat) (f : Part → Part) : (s.modPart p f).cur = s.cur := rfl
@[simp] theorem State.modPart_ir (s : State) (p : Nat) (f : Part → Part) : (s.modPart p f).ir = s.ir := rfl
@[simp] theorem State.modPart_late (s : State) (p : Nat) (f : Part → Part) : (s.modPart p f).late = s.late := rfl
@[simp] theorem State.modPart_slip (s : State) (p : Nat) (f : Part → Part) : (s.modPart p f).slip = s.slip := rfl
@[simp] theorem State.modPart_agenda (s : State) (p : Nat) (f : Part → Part) : (s.modPart p f).agenda = s.agenda := rfl
@[simp] theorem State.modPart_fresh (s : State) (p : Nat) (f : Part → Part) : (s.modPart p f).fresh = s.fresh := rfl

@[simp] theorem State.modPort_mem (s : State) (p : Nat) (f : Port → Port) : (s.modPort p f).mem = s.mem := rfl
@[simp] theorem State.modPort_strands (s : State) (p : Nat) (f : Port → Port) : (s.modPort p f).strands = s.strands := rfl
@[simp] theorem State.modPort_cores (s : State) (p : Nat) (f : Port → Port) : (s.modPort p f).cores = s.cores := rfl
@[simp] theorem State.modPort_cells (s : State) (p : Nat) (f : Port → Port) : (s.modPort p f).cells = s.cells := rfl
@[simp] theorem State.modPort_clusters (s : State) (p : Nat) (f : Port → Port) : (s.modPort p f).clusters = s.clusters := rfl
@[simp] theorem State.modPort_dies (s : State) (p : Nat) (f : Port → Port) : (s.modPort p f).dies = s.dies := rfl
@[simp] theorem State.modPort_looms (s : State) (p : Nat) (f : Port → Port) : (s.modPort p f).looms = s.looms := rfl
@[simp] theorem State.modPort_chans (s : State) (p : Nat) (f : Port → Port) : (s.modPort p f).chans = s.chans := rfl
@[simp] theorem State.modPort_cmds (s : State) (p : Nat) (f : Port → Port) : (s.modPort p f).cmds = s.cmds := rfl
@[simp] theorem State.modPort_issued (s : State) (p : Nat) (f : Port → Port) : (s.modPort p f).issued = s.issued := rfl
@[simp] theorem State.modPort_net (s : State) (p : Nat) (f : Port → Port) : (s.modPort p f).net = s.net := rfl
@[simp] theorem State.modPort_parts (s : State) (p : Nat) (f : Port → Port) : (s.modPort p f).parts = s.parts := rfl
@[simp] theorem State.modPort_io (s : State) (p : Nat) (f : Port → Port) : (s.modPort p f).io = s.io := rfl
@[simp] theorem State.modPort_ptePend (s : State) (p : Nat) (f : Port → Port) : (s.modPort p f).ptePend = s.ptePend := rfl
@[simp] theorem State.modPort_lands (s : State) (p : Nat) (f : Port → Port) : (s.modPort p f).lands = s.lands := rfl
@[simp] theorem State.modPort_cycle (s : State) (p : Nat) (f : Port → Port) : (s.modPort p f).cycle = s.cycle := rfl
@[simp] theorem State.modPort_cur (s : State) (p : Nat) (f : Port → Port) : (s.modPort p f).cur = s.cur := rfl
@[simp] theorem State.modPort_ir (s : State) (p : Nat) (f : Port → Port) : (s.modPort p f).ir = s.ir := rfl
@[simp] theorem State.modPort_late (s : State) (p : Nat) (f : Port → Port) : (s.modPort p f).late = s.late := rfl
@[simp] theorem State.modPort_slip (s : State) (p : Nat) (f : Port → Port) : (s.modPort p f).slip = s.slip := rfl
@[simp] theorem State.modPort_agenda (s : State) (p : Nat) (f : Port → Port) : (s.modPort p f).agenda = s.agenda := rfl
@[simp] theorem State.modPort_fresh (s : State) (p : Nat) (f : Port → Port) : (s.modPort p f).fresh = s.fresh := rfl

@[simp] theorem State.tick_mem (s : State) : (s.tick).mem = s.mem := rfl
@[simp] theorem State.tick_strands (s : State) : (s.tick).strands = s.strands := rfl
@[simp] theorem State.tick_cores (s : State) : (s.tick).cores = s.cores := rfl
@[simp] theorem State.tick_cells (s : State) : (s.tick).cells = s.cells := rfl
@[simp] theorem State.tick_clusters (s : State) : (s.tick).clusters = s.clusters := rfl
@[simp] theorem State.tick_dies (s : State) : (s.tick).dies = s.dies := rfl
@[simp] theorem State.tick_looms (s : State) : (s.tick).looms = s.looms := rfl
@[simp] theorem State.tick_chans (s : State) : (s.tick).chans = s.chans := rfl
@[simp] theorem State.tick_cmds (s : State) : (s.tick).cmds = s.cmds := rfl
@[simp] theorem State.tick_issued (s : State) : (s.tick).issued = s.issued := rfl
@[simp] theorem State.tick_net (s : State) : (s.tick).net = s.net := rfl
@[simp] theorem State.tick_parts (s : State) : (s.tick).parts = s.parts := rfl
@[simp] theorem State.tick_ports (s : State) : (s.tick).ports = s.ports := rfl
@[simp] theorem State.tick_io (s : State) : (s.tick).io = s.io := rfl
@[simp] theorem State.tick_ptePend (s : State) : (s.tick).ptePend = s.ptePend := rfl
@[simp] theorem State.tick_lands (s : State) : (s.tick).lands = s.lands := rfl
@[simp] theorem State.tick_cycle (s : State) : (s.tick).cycle = s.cycle := rfl
@[simp] theorem State.tick_cur (s : State) : (s.tick).cur = s.cur := rfl
@[simp] theorem State.tick_ir (s : State) : (s.tick).ir = s.ir := rfl
@[simp] theorem State.tick_late (s : State) : (s.tick).late = s.late := rfl
@[simp] theorem State.tick_slip (s : State) : (s.tick).slip = s.slip := rfl
@[simp] theorem State.tick_agenda (s : State) : (s.tick).agenda = s.agenda := rfl

@[simp] theorem State.put_mem (s : State) (d : BitVec 5) (w : Word) : (s.put d w).mem = s.mem := rfl
@[simp] theorem State.put_cores (s : State) (d : BitVec 5) (w : Word) : (s.put d w).cores = s.cores := rfl
@[simp] theorem State.put_cells (s : State) (d : BitVec 5) (w : Word) : (s.put d w).cells = s.cells := rfl
@[simp] theorem State.put_clusters (s : State) (d : BitVec 5) (w : Word) : (s.put d w).clusters = s.clusters := rfl
@[simp] theorem State.put_dies (s : State) (d : BitVec 5) (w : Word) : (s.put d w).dies = s.dies := rfl
@[simp] theorem State.put_looms (s : State) (d : BitVec 5) (w : Word) : (s.put d w).looms = s.looms := rfl
@[simp] theorem State.put_chans (s : State) (d : BitVec 5) (w : Word) : (s.put d w).chans = s.chans := rfl
@[simp] theorem State.put_cmds (s : State) (d : BitVec 5) (w : Word) : (s.put d w).cmds = s.cmds := rfl
@[simp] theorem State.put_issued (s : State) (d : BitVec 5) (w : Word) : (s.put d w).issued = s.issued := rfl
@[simp] theorem State.put_net (s : State) (d : BitVec 5) (w : Word) : (s.put d w).net = s.net := rfl
@[simp] theorem State.put_parts (s : State) (d : BitVec 5) (w : Word) : (s.put d w).parts = s.parts := rfl
@[simp] theorem State.put_ports (s : State) (d : BitVec 5) (w : Word) : (s.put d w).ports = s.ports := rfl
@[simp] theorem State.put_io (s : State) (d : BitVec 5) (w : Word) : (s.put d w).io = s.io := rfl
@[simp] theorem State.put_ptePend (s : State) (d : BitVec 5) (w : Word) : (s.put d w).ptePend = s.ptePend := rfl
@[simp] theorem State.put_lands (s : State) (d : BitVec 5) (w : Word) : (s.put d w).lands = s.lands := rfl
@[simp] theorem State.put_cycle (s : State) (d : BitVec 5) (w : Word) : (s.put d w).cycle = s.cycle := rfl
@[simp] theorem State.put_cur (s : State) (d : BitVec 5) (w : Word) : (s.put d w).cur = s.cur := rfl
@[simp] theorem State.put_ir (s : State) (d : BitVec 5) (w : Word) : (s.put d w).ir = s.ir := rfl
@[simp] theorem State.put_late (s : State) (d : BitVec 5) (w : Word) : (s.put d w).late = s.late := rfl
@[simp] theorem State.put_slip (s : State) (d : BitVec 5) (w : Word) : (s.put d w).slip = s.slip := rfl
@[simp] theorem State.put_agenda (s : State) (d : BitVec 5) (w : Word) : (s.put d w).agenda = s.agenda := rfl
@[simp] theorem State.put_fresh (s : State) (d : BitVec 5) (w : Word) : (s.put d w).fresh = s.fresh := rfl

@[simp] theorem State.put8_mem (s : State) (d : BitVec 5) (w : Word) : (s.put8 d w).mem = s.mem := rfl
@[simp] theorem State.put8_cores (s : State) (d : BitVec 5) (w : Word) : (s.put8 d w).cores = s.cores := rfl
@[simp] theorem State.put8_cells (s : State) (d : BitVec 5) (w : Word) : (s.put8 d w).cells = s.cells := rfl
@[simp] theorem State.put8_clusters (s : State) (d : BitVec 5) (w : Word) : (s.put8 d w).clusters = s.clusters := rfl
@[simp] theorem State.put8_dies (s : State) (d : BitVec 5) (w : Word) : (s.put8 d w).dies = s.dies := rfl
@[simp] theorem State.put8_looms (s : State) (d : BitVec 5) (w : Word) : (s.put8 d w).looms = s.looms := rfl
@[simp] theorem State.put8_chans (s : State) (d : BitVec 5) (w : Word) : (s.put8 d w).chans = s.chans := rfl
@[simp] theorem State.put8_cmds (s : State) (d : BitVec 5) (w : Word) : (s.put8 d w).cmds = s.cmds := rfl
@[simp] theorem State.put8_issued (s : State) (d : BitVec 5) (w : Word) : (s.put8 d w).issued = s.issued := rfl
@[simp] theorem State.put8_net (s : State) (d : BitVec 5) (w : Word) : (s.put8 d w).net = s.net := rfl
@[simp] theorem State.put8_parts (s : State) (d : BitVec 5) (w : Word) : (s.put8 d w).parts = s.parts := rfl
@[simp] theorem State.put8_ports (s : State) (d : BitVec 5) (w : Word) : (s.put8 d w).ports = s.ports := rfl
@[simp] theorem State.put8_io (s : State) (d : BitVec 5) (w : Word) : (s.put8 d w).io = s.io := rfl
@[simp] theorem State.put8_ptePend (s : State) (d : BitVec 5) (w : Word) : (s.put8 d w).ptePend = s.ptePend := rfl
@[simp] theorem State.put8_lands (s : State) (d : BitVec 5) (w : Word) : (s.put8 d w).lands = s.lands := rfl
@[simp] theorem State.put8_cycle (s : State) (d : BitVec 5) (w : Word) : (s.put8 d w).cycle = s.cycle := rfl
@[simp] theorem State.put8_cur (s : State) (d : BitVec 5) (w : Word) : (s.put8 d w).cur = s.cur := rfl
@[simp] theorem State.put8_ir (s : State) (d : BitVec 5) (w : Word) : (s.put8 d w).ir = s.ir := rfl
@[simp] theorem State.put8_late (s : State) (d : BitVec 5) (w : Word) : (s.put8 d w).late = s.late := rfl
@[simp] theorem State.put8_slip (s : State) (d : BitVec 5) (w : Word) : (s.put8 d w).slip = s.slip := rfl
@[simp] theorem State.put8_agenda (s : State) (d : BitVec 5) (w : Word) : (s.put8 d w).agenda = s.agenda := rfl
@[simp] theorem State.put8_fresh (s : State) (d : BitVec 5) (w : Word) : (s.put8 d w).fresh = s.fresh := rfl

@[simp] theorem State.retire_mem (s : State) : (s.retire).mem = s.mem := rfl
@[simp] theorem State.retire_cores (s : State) : (s.retire).cores = s.cores := rfl
@[simp] theorem State.retire_cells (s : State) : (s.retire).cells = s.cells := rfl
@[simp] theorem State.retire_clusters (s : State) : (s.retire).clusters = s.clusters := rfl
@[simp] theorem State.retire_dies (s : State) : (s.retire).dies = s.dies := rfl
@[simp] theorem State.retire_looms (s : State) : (s.retire).looms = s.looms := rfl
@[simp] theorem State.retire_chans (s : State) : (s.retire).chans = s.chans := rfl
@[simp] theorem State.retire_cmds (s : State) : (s.retire).cmds = s.cmds := rfl
@[simp] theorem State.retire_issued (s : State) : (s.retire).issued = s.issued := rfl
@[simp] theorem State.retire_net (s : State) : (s.retire).net = s.net := rfl
@[simp] theorem State.retire_parts (s : State) : (s.retire).parts = s.parts := rfl
@[simp] theorem State.retire_ports (s : State) : (s.retire).ports = s.ports := rfl
@[simp] theorem State.retire_io (s : State) : (s.retire).io = s.io := rfl
@[simp] theorem State.retire_ptePend (s : State) : (s.retire).ptePend = s.ptePend := rfl
@[simp] theorem State.retire_lands (s : State) : (s.retire).lands = s.lands := rfl
@[simp] theorem State.retire_cycle (s : State) : (s.retire).cycle = s.cycle := rfl
@[simp] theorem State.retire_cur (s : State) : (s.retire).cur = s.cur := rfl
@[simp] theorem State.retire_ir (s : State) : (s.retire).ir = s.ir := rfl
@[simp] theorem State.retire_late (s : State) : (s.retire).late = s.late := rfl
@[simp] theorem State.retire_slip (s : State) : (s.retire).slip = s.slip := rfl
@[simp] theorem State.retire_agenda (s : State) : (s.retire).agenda = s.agenda := rfl
@[simp] theorem State.retire_fresh (s : State) : (s.retire).fresh = s.fresh := rfl

@[simp] theorem State.retire8_mem (s : State) : (s.retire8).mem = s.mem := rfl
@[simp] theorem State.retire8_cores (s : State) : (s.retire8).cores = s.cores := rfl
@[simp] theorem State.retire8_cells (s : State) : (s.retire8).cells = s.cells := rfl
@[simp] theorem State.retire8_clusters (s : State) : (s.retire8).clusters = s.clusters := rfl
@[simp] theorem State.retire8_dies (s : State) : (s.retire8).dies = s.dies := rfl
@[simp] theorem State.retire8_looms (s : State) : (s.retire8).looms = s.looms := rfl
@[simp] theorem State.retire8_chans (s : State) : (s.retire8).chans = s.chans := rfl
@[simp] theorem State.retire8_cmds (s : State) : (s.retire8).cmds = s.cmds := rfl
@[simp] theorem State.retire8_issued (s : State) : (s.retire8).issued = s.issued := rfl
@[simp] theorem State.retire8_net (s : State) : (s.retire8).net = s.net := rfl
@[simp] theorem State.retire8_parts (s : State) : (s.retire8).parts = s.parts := rfl
@[simp] theorem State.retire8_ports (s : State) : (s.retire8).ports = s.ports := rfl
@[simp] theorem State.retire8_io (s : State) : (s.retire8).io = s.io := rfl
@[simp] theorem State.retire8_ptePend (s : State) : (s.retire8).ptePend = s.ptePend := rfl
@[simp] theorem State.retire8_lands (s : State) : (s.retire8).lands = s.lands := rfl
@[simp] theorem State.retire8_cycle (s : State) : (s.retire8).cycle = s.cycle := rfl
@[simp] theorem State.retire8_cur (s : State) : (s.retire8).cur = s.cur := rfl
@[simp] theorem State.retire8_ir (s : State) : (s.retire8).ir = s.ir := rfl
@[simp] theorem State.retire8_late (s : State) : (s.retire8).late = s.late := rfl
@[simp] theorem State.retire8_slip (s : State) : (s.retire8).slip = s.slip := rfl
@[simp] theorem State.retire8_agenda (s : State) : (s.retire8).agenda = s.agenda := rfl
@[simp] theorem State.retire8_fresh (s : State) : (s.retire8).fresh = s.fresh := rfl

@[simp] theorem State.ws_mem (s : State) (d : BitVec 5) (w : Word) : (s.ws d w).mem = s.mem := rfl
@[simp] theorem State.ws_cores (s : State) (d : BitVec 5) (w : Word) : (s.ws d w).cores = s.cores := rfl
@[simp] theorem State.ws_cells (s : State) (d : BitVec 5) (w : Word) : (s.ws d w).cells = s.cells := rfl
@[simp] theorem State.ws_clusters (s : State) (d : BitVec 5) (w : Word) : (s.ws d w).clusters = s.clusters := rfl
@[simp] theorem State.ws_dies (s : State) (d : BitVec 5) (w : Word) : (s.ws d w).dies = s.dies := rfl
@[simp] theorem State.ws_looms (s : State) (d : BitVec 5) (w : Word) : (s.ws d w).looms = s.looms := rfl
@[simp] theorem State.ws_chans (s : State) (d : BitVec 5) (w : Word) : (s.ws d w).chans = s.chans := rfl
@[simp] theorem State.ws_cmds (s : State) (d : BitVec 5) (w : Word) : (s.ws d w).cmds = s.cmds := rfl
@[simp] theorem State.ws_issued (s : State) (d : BitVec 5) (w : Word) : (s.ws d w).issued = s.issued := rfl
@[simp] theorem State.ws_net (s : State) (d : BitVec 5) (w : Word) : (s.ws d w).net = s.net := rfl
@[simp] theorem State.ws_parts (s : State) (d : BitVec 5) (w : Word) : (s.ws d w).parts = s.parts := rfl
@[simp] theorem State.ws_ports (s : State) (d : BitVec 5) (w : Word) : (s.ws d w).ports = s.ports := rfl
@[simp] theorem State.ws_io (s : State) (d : BitVec 5) (w : Word) : (s.ws d w).io = s.io := rfl
@[simp] theorem State.ws_ptePend (s : State) (d : BitVec 5) (w : Word) : (s.ws d w).ptePend = s.ptePend := rfl
@[simp] theorem State.ws_lands (s : State) (d : BitVec 5) (w : Word) : (s.ws d w).lands = s.lands := rfl
@[simp] theorem State.ws_cycle (s : State) (d : BitVec 5) (w : Word) : (s.ws d w).cycle = s.cycle := rfl
@[simp] theorem State.ws_cur (s : State) (d : BitVec 5) (w : Word) : (s.ws d w).cur = s.cur := rfl
@[simp] theorem State.ws_ir (s : State) (d : BitVec 5) (w : Word) : (s.ws d w).ir = s.ir := rfl
@[simp] theorem State.ws_late (s : State) (d : BitVec 5) (w : Word) : (s.ws d w).late = s.late := rfl
@[simp] theorem State.ws_slip (s : State) (d : BitVec 5) (w : Word) : (s.ws d w).slip = s.slip := rfl
@[simp] theorem State.ws_agenda (s : State) (d : BitVec 5) (w : Word) : (s.ws d w).agenda = s.agenda := rfl
@[simp] theorem State.ws_fresh (s : State) (d : BitVec 5) (w : Word) : (s.ws d w).fresh = s.fresh := rfl

@[simp] theorem State.wv_mem (s : State) (d : BitVec 5) (w : VReg) : (s.wv d w).mem = s.mem := rfl
@[simp] theorem State.wv_cores (s : State) (d : BitVec 5) (w : VReg) : (s.wv d w).cores = s.cores := rfl
@[simp] theorem State.wv_cells (s : State) (d : BitVec 5) (w : VReg) : (s.wv d w).cells = s.cells := rfl
@[simp] theorem State.wv_clusters (s : State) (d : BitVec 5) (w : VReg) : (s.wv d w).clusters = s.clusters := rfl
@[simp] theorem State.wv_dies (s : State) (d : BitVec 5) (w : VReg) : (s.wv d w).dies = s.dies := rfl
@[simp] theorem State.wv_looms (s : State) (d : BitVec 5) (w : VReg) : (s.wv d w).looms = s.looms := rfl
@[simp] theorem State.wv_chans (s : State) (d : BitVec 5) (w : VReg) : (s.wv d w).chans = s.chans := rfl
@[simp] theorem State.wv_cmds (s : State) (d : BitVec 5) (w : VReg) : (s.wv d w).cmds = s.cmds := rfl
@[simp] theorem State.wv_issued (s : State) (d : BitVec 5) (w : VReg) : (s.wv d w).issued = s.issued := rfl
@[simp] theorem State.wv_net (s : State) (d : BitVec 5) (w : VReg) : (s.wv d w).net = s.net := rfl
@[simp] theorem State.wv_parts (s : State) (d : BitVec 5) (w : VReg) : (s.wv d w).parts = s.parts := rfl
@[simp] theorem State.wv_ports (s : State) (d : BitVec 5) (w : VReg) : (s.wv d w).ports = s.ports := rfl
@[simp] theorem State.wv_io (s : State) (d : BitVec 5) (w : VReg) : (s.wv d w).io = s.io := rfl
@[simp] theorem State.wv_ptePend (s : State) (d : BitVec 5) (w : VReg) : (s.wv d w).ptePend = s.ptePend := rfl
@[simp] theorem State.wv_lands (s : State) (d : BitVec 5) (w : VReg) : (s.wv d w).lands = s.lands := rfl
@[simp] theorem State.wv_cycle (s : State) (d : BitVec 5) (w : VReg) : (s.wv d w).cycle = s.cycle := rfl
@[simp] theorem State.wv_cur (s : State) (d : BitVec 5) (w : VReg) : (s.wv d w).cur = s.cur := rfl
@[simp] theorem State.wv_ir (s : State) (d : BitVec 5) (w : VReg) : (s.wv d w).ir = s.ir := rfl
@[simp] theorem State.wv_late (s : State) (d : BitVec 5) (w : VReg) : (s.wv d w).late = s.late := rfl
@[simp] theorem State.wv_slip (s : State) (d : BitVec 5) (w : VReg) : (s.wv d w).slip = s.slip := rfl
@[simp] theorem State.wv_agenda (s : State) (d : BitVec 5) (w : VReg) : (s.wv d w).agenda = s.agenda := rfl
@[simp] theorem State.wv_fresh (s : State) (d : BitVec 5) (w : VReg) : (s.wv d w).fresh = s.fresh := rfl

@[simp] theorem State.wk_mem (s : State) (d : BitVec 3) (w : Word) : (s.wk d w).mem = s.mem := rfl
@[simp] theorem State.wk_cores (s : State) (d : BitVec 3) (w : Word) : (s.wk d w).cores = s.cores := rfl
@[simp] theorem State.wk_cells (s : State) (d : BitVec 3) (w : Word) : (s.wk d w).cells = s.cells := rfl
@[simp] theorem State.wk_clusters (s : State) (d : BitVec 3) (w : Word) : (s.wk d w).clusters = s.clusters := rfl
@[simp] theorem State.wk_dies (s : State) (d : BitVec 3) (w : Word) : (s.wk d w).dies = s.dies := rfl
@[simp] theorem State.wk_looms (s : State) (d : BitVec 3) (w : Word) : (s.wk d w).looms = s.looms := rfl
@[simp] theorem State.wk_chans (s : State) (d : BitVec 3) (w : Word) : (s.wk d w).chans = s.chans := rfl
@[simp] theorem State.wk_cmds (s : State) (d : BitVec 3) (w : Word) : (s.wk d w).cmds = s.cmds := rfl
@[simp] theorem State.wk_issued (s : State) (d : BitVec 3) (w : Word) : (s.wk d w).issued = s.issued := rfl
@[simp] theorem State.wk_net (s : State) (d : BitVec 3) (w : Word) : (s.wk d w).net = s.net := rfl
@[simp] theorem State.wk_parts (s : State) (d : BitVec 3) (w : Word) : (s.wk d w).parts = s.parts := rfl
@[simp] theorem State.wk_ports (s : State) (d : BitVec 3) (w : Word) : (s.wk d w).ports = s.ports := rfl
@[simp] theorem State.wk_io (s : State) (d : BitVec 3) (w : Word) : (s.wk d w).io = s.io := rfl
@[simp] theorem State.wk_ptePend (s : State) (d : BitVec 3) (w : Word) : (s.wk d w).ptePend = s.ptePend := rfl
@[simp] theorem State.wk_lands (s : State) (d : BitVec 3) (w : Word) : (s.wk d w).lands = s.lands := rfl
@[simp] theorem State.wk_cycle (s : State) (d : BitVec 3) (w : Word) : (s.wk d w).cycle = s.cycle := rfl
@[simp] theorem State.wk_cur (s : State) (d : BitVec 3) (w : Word) : (s.wk d w).cur = s.cur := rfl
@[simp] theorem State.wk_ir (s : State) (d : BitVec 3) (w : Word) : (s.wk d w).ir = s.ir := rfl
@[simp] theorem State.wk_late (s : State) (d : BitVec 3) (w : Word) : (s.wk d w).late = s.late := rfl
@[simp] theorem State.wk_slip (s : State) (d : BitVec 3) (w : Word) : (s.wk d w).slip = s.slip := rfl
@[simp] theorem State.wk_agenda (s : State) (d : BitVec 3) (w : Word) : (s.wk d w).agenda = s.agenda := rfl
@[simp] theorem State.wk_fresh (s : State) (d : BitVec 3) (w : Word) : (s.wk d w).fresh = s.fresh := rfl

@[simp] theorem State.wb_mem (s : State) (d : BitVec 4) (w : BRec) : (s.wb d w).mem = s.mem := rfl
@[simp] theorem State.wb_cores (s : State) (d : BitVec 4) (w : BRec) : (s.wb d w).cores = s.cores := rfl
@[simp] theorem State.wb_cells (s : State) (d : BitVec 4) (w : BRec) : (s.wb d w).cells = s.cells := rfl
@[simp] theorem State.wb_clusters (s : State) (d : BitVec 4) (w : BRec) : (s.wb d w).clusters = s.clusters := rfl
@[simp] theorem State.wb_dies (s : State) (d : BitVec 4) (w : BRec) : (s.wb d w).dies = s.dies := rfl
@[simp] theorem State.wb_looms (s : State) (d : BitVec 4) (w : BRec) : (s.wb d w).looms = s.looms := rfl
@[simp] theorem State.wb_chans (s : State) (d : BitVec 4) (w : BRec) : (s.wb d w).chans = s.chans := rfl
@[simp] theorem State.wb_cmds (s : State) (d : BitVec 4) (w : BRec) : (s.wb d w).cmds = s.cmds := rfl
@[simp] theorem State.wb_issued (s : State) (d : BitVec 4) (w : BRec) : (s.wb d w).issued = s.issued := rfl
@[simp] theorem State.wb_net (s : State) (d : BitVec 4) (w : BRec) : (s.wb d w).net = s.net := rfl
@[simp] theorem State.wb_parts (s : State) (d : BitVec 4) (w : BRec) : (s.wb d w).parts = s.parts := rfl
@[simp] theorem State.wb_ports (s : State) (d : BitVec 4) (w : BRec) : (s.wb d w).ports = s.ports := rfl
@[simp] theorem State.wb_io (s : State) (d : BitVec 4) (w : BRec) : (s.wb d w).io = s.io := rfl
@[simp] theorem State.wb_ptePend (s : State) (d : BitVec 4) (w : BRec) : (s.wb d w).ptePend = s.ptePend := rfl
@[simp] theorem State.wb_lands (s : State) (d : BitVec 4) (w : BRec) : (s.wb d w).lands = s.lands := rfl
@[simp] theorem State.wb_cycle (s : State) (d : BitVec 4) (w : BRec) : (s.wb d w).cycle = s.cycle := rfl
@[simp] theorem State.wb_cur (s : State) (d : BitVec 4) (w : BRec) : (s.wb d w).cur = s.cur := rfl
@[simp] theorem State.wb_ir (s : State) (d : BitVec 4) (w : BRec) : (s.wb d w).ir = s.ir := rfl
@[simp] theorem State.wb_late (s : State) (d : BitVec 4) (w : BRec) : (s.wb d w).late = s.late := rfl
@[simp] theorem State.wb_slip (s : State) (d : BitVec 4) (w : BRec) : (s.wb d w).slip = s.slip := rfl
@[simp] theorem State.wb_agenda (s : State) (d : BitVec 4) (w : BRec) : (s.wb d w).agenda = s.agenda := rfl
@[simp] theorem State.wb_fresh (s : State) (d : BitVec 4) (w : BRec) : (s.wb d w).fresh = s.fresh := rfl

@[simp] theorem State.setStrand_core (s : State) (t : Nat) (x : Strand) (c' : Nat) : (s.setStrand t x).core c' = s.core c' := rfl
@[simp] theorem State.setStrand_cell (s : State) (t : Nat) (x : Strand) (c' j' : Nat) : (s.setStrand t x).cell c' j' = s.cell c' j' := rfl
@[simp] theorem State.setStrand_cluster (s : State) (t : Nat) (x : Strand) (c' : Nat) : (s.setStrand t x).cluster c' = s.cluster c' := rfl
@[simp] theorem State.setStrand_die (s : State) (t : Nat) (x : Strand) (d' : Nat) : (s.setStrand t x).die d' = s.die d' := rfl
@[simp] theorem State.setStrand_loom (s : State) (t : Nat) (x : Strand) (o' : Nat) : (s.setStrand t x).loom o' = s.loom o' := rfl
@[simp] theorem State.setStrand_chan (s : State) (t : Nat) (x : Strand) (c' : Nat) : (s.setStrand t x).chan c' = s.chan c' := rfl
@[simp] theorem State.setStrand_part (s : State) (t : Nat) (x : Strand) (p' : Nat) : (s.setStrand t x).part p' = s.part p' := rfl
@[simp] theorem State.setStrand_slport (s : State) (t : Nat) (x : Strand) (p' : Nat) : (s.setStrand t x).slport p' = s.slport p' := rfl
@[simp] theorem State.setStrand_partOf (s : State) (t : Nat) (x : Strand) (t' : Nat) : (s.setStrand t x).partOf t' = s.partOf t' := rfl

@[simp] theorem State.modStrand_core (s : State) (t : Nat) (f : Strand → Strand) (c' : Nat) : (s.modStrand t f).core c' = s.core c' := rfl
@[simp] theorem State.modStrand_cell (s : State) (t : Nat) (f : Strand → Strand) (c' j' : Nat) : (s.modStrand t f).cell c' j' = s.cell c' j' := rfl
@[simp] theorem State.modStrand_cluster (s : State) (t : Nat) (f : Strand → Strand) (c' : Nat) : (s.modStrand t f).cluster c' = s.cluster c' := rfl
@[simp] theorem State.modStrand_die (s : State) (t : Nat) (f : Strand → Strand) (d' : Nat) : (s.modStrand t f).die d' = s.die d' := rfl
@[simp] theorem State.modStrand_loom (s : State) (t : Nat) (f : Strand → Strand) (o' : Nat) : (s.modStrand t f).loom o' = s.loom o' := rfl
@[simp] theorem State.modStrand_chan (s : State) (t : Nat) (f : Strand → Strand) (c' : Nat) : (s.modStrand t f).chan c' = s.chan c' := rfl
@[simp] theorem State.modStrand_part (s : State) (t : Nat) (f : Strand → Strand) (p' : Nat) : (s.modStrand t f).part p' = s.part p' := rfl
@[simp] theorem State.modStrand_slport (s : State) (t : Nat) (f : Strand → Strand) (p' : Nat) : (s.modStrand t f).slport p' = s.slport p' := rfl
@[simp] theorem State.modStrand_partOf (s : State) (t : Nat) (f : Strand → Strand) (t' : Nat) : (s.modStrand t f).partOf t' = s.partOf t' := rfl

@[simp] theorem State.setMe_core (s : State) (x : Strand) (c' : Nat) : (s.setMe x).core c' = s.core c' := rfl
@[simp] theorem State.setMe_cell (s : State) (x : Strand) (c' j' : Nat) : (s.setMe x).cell c' j' = s.cell c' j' := rfl
@[simp] theorem State.setMe_cluster (s : State) (x : Strand) (c' : Nat) : (s.setMe x).cluster c' = s.cluster c' := rfl
@[simp] theorem State.setMe_die (s : State) (x : Strand) (d' : Nat) : (s.setMe x).die d' = s.die d' := rfl
@[simp] theorem State.setMe_loom (s : State) (x : Strand) (o' : Nat) : (s.setMe x).loom o' = s.loom o' := rfl
@[simp] theorem State.setMe_chan (s : State) (x : Strand) (c' : Nat) : (s.setMe x).chan c' = s.chan c' := rfl
@[simp] theorem State.setMe_part (s : State) (x : Strand) (p' : Nat) : (s.setMe x).part p' = s.part p' := rfl
@[simp] theorem State.setMe_slport (s : State) (x : Strand) (p' : Nat) : (s.setMe x).slport p' = s.slport p' := rfl
@[simp] theorem State.setMe_partOf (s : State) (x : Strand) (t' : Nat) : (s.setMe x).partOf t' = s.partOf t' := rfl

@[simp] theorem State.setCore_cell (s : State) (c : Nat) (x : Core) (c' j' : Nat) : (s.setCore c x).cell c' j' = s.cell c' j' := rfl
@[simp] theorem State.setCore_cluster (s : State) (c : Nat) (x : Core) (c' : Nat) : (s.setCore c x).cluster c' = s.cluster c' := rfl
@[simp] theorem State.setCore_die (s : State) (c : Nat) (x : Core) (d' : Nat) : (s.setCore c x).die d' = s.die d' := rfl
@[simp] theorem State.setCore_loom (s : State) (c : Nat) (x : Core) (o' : Nat) : (s.setCore c x).loom o' = s.loom o' := rfl
@[simp] theorem State.setCore_chan (s : State) (c : Nat) (x : Core) (c' : Nat) : (s.setCore c x).chan c' = s.chan c' := rfl
@[simp] theorem State.setCore_part (s : State) (c : Nat) (x : Core) (p' : Nat) : (s.setCore c x).part p' = s.part p' := rfl
@[simp] theorem State.setCore_slport (s : State) (c : Nat) (x : Core) (p' : Nat) : (s.setCore c x).slport p' = s.slport p' := rfl
@[simp] theorem State.setCore_strand (s : State) (c : Nat) (x : Core) (t' : Nat) : (s.setCore c x).strand t' = s.strand t' := rfl
@[simp] theorem State.setCore_partOf (s : State) (c : Nat) (x : Core) (t' : Nat) : (s.setCore c x).partOf t' = s.partOf t' := rfl

@[simp] theorem State.modCore_cell (s : State) (c : Nat) (f : Core → Core) (c' j' : Nat) : (s.modCore c f).cell c' j' = s.cell c' j' := rfl
@[simp] theorem State.modCore_cluster (s : State) (c : Nat) (f : Core → Core) (c' : Nat) : (s.modCore c f).cluster c' = s.cluster c' := rfl
@[simp] theorem State.modCore_die (s : State) (c : Nat) (f : Core → Core) (d' : Nat) : (s.modCore c f).die d' = s.die d' := rfl
@[simp] theorem State.modCore_loom (s : State) (c : Nat) (f : Core → Core) (o' : Nat) : (s.modCore c f).loom o' = s.loom o' := rfl
@[simp] theorem State.modCore_chan (s : State) (c : Nat) (f : Core → Core) (c' : Nat) : (s.modCore c f).chan c' = s.chan c' := rfl
@[simp] theorem State.modCore_part (s : State) (c : Nat) (f : Core → Core) (p' : Nat) : (s.modCore c f).part p' = s.part p' := rfl
@[simp] theorem State.modCore_slport (s : State) (c : Nat) (f : Core → Core) (p' : Nat) : (s.modCore c f).slport p' = s.slport p' := rfl
@[simp] theorem State.modCore_strand (s : State) (c : Nat) (f : Core → Core) (t' : Nat) : (s.modCore c f).strand t' = s.strand t' := rfl
@[simp] theorem State.modCore_partOf (s : State) (c : Nat) (f : Core → Core) (t' : Nat) : (s.modCore c f).partOf t' = s.partOf t' := rfl

@[simp] theorem State.setCell_core (s : State) (c j : Nat) (x : Cell) (c' : Nat) : (s.setCell c j x).core c' = s.core c' := rfl
@[simp] theorem State.setCell_cluster (s : State) (c j : Nat) (x : Cell) (c' : Nat) : (s.setCell c j x).cluster c' = s.cluster c' := rfl
@[simp] theorem State.setCell_die (s : State) (c j : Nat) (x : Cell) (d' : Nat) : (s.setCell c j x).die d' = s.die d' := rfl
@[simp] theorem State.setCell_loom (s : State) (c j : Nat) (x : Cell) (o' : Nat) : (s.setCell c j x).loom o' = s.loom o' := rfl
@[simp] theorem State.setCell_chan (s : State) (c j : Nat) (x : Cell) (c' : Nat) : (s.setCell c j x).chan c' = s.chan c' := rfl
@[simp] theorem State.setCell_part (s : State) (c j : Nat) (x : Cell) (p' : Nat) : (s.setCell c j x).part p' = s.part p' := rfl
@[simp] theorem State.setCell_slport (s : State) (c j : Nat) (x : Cell) (p' : Nat) : (s.setCell c j x).slport p' = s.slport p' := rfl
@[simp] theorem State.setCell_strand (s : State) (c j : Nat) (x : Cell) (t' : Nat) : (s.setCell c j x).strand t' = s.strand t' := rfl
@[simp] theorem State.setCell_partOf (s : State) (c j : Nat) (x : Cell) (t' : Nat) : (s.setCell c j x).partOf t' = s.partOf t' := rfl



@[simp] theorem State.modLoom_core (s : State) (o : Nat) (f : Loom → Loom) (c' : Nat) : (s.modLoom o f).core c' = s.core c' := rfl
@[simp] theorem State.modLoom_cell (s : State) (o : Nat) (f : Loom → Loom) (c' j' : Nat) : (s.modLoom o f).cell c' j' = s.cell c' j' := rfl
@[simp] theorem State.modLoom_cluster (s : State) (o : Nat) (f : Loom → Loom) (c' : Nat) : (s.modLoom o f).cluster c' = s.cluster c' := rfl
@[simp] theorem State.modLoom_die (s : State) (o : Nat) (f : Loom → Loom) (d' : Nat) : (s.modLoom o f).die d' = s.die d' := rfl
@[simp] theorem State.modLoom_chan (s : State) (o : Nat) (f : Loom → Loom) (c' : Nat) : (s.modLoom o f).chan c' = s.chan c' := rfl
@[simp] theorem State.modLoom_part (s : State) (o : Nat) (f : Loom → Loom) (p' : Nat) : (s.modLoom o f).part p' = s.part p' := rfl
@[simp] theorem State.modLoom_slport (s : State) (o : Nat) (f : Loom → Loom) (p' : Nat) : (s.modLoom o f).slport p' = s.slport p' := rfl
@[simp] theorem State.modLoom_strand (s : State) (o : Nat) (f : Loom → Loom) (t' : Nat) : (s.modLoom o f).strand t' = s.strand t' := rfl
@[simp] theorem State.modLoom_partOf (s : State) (o : Nat) (f : Loom → Loom) (t' : Nat) : (s.modLoom o f).partOf t' = s.partOf t' := rfl

@[simp] theorem State.modChan_core (s : State) (c : Nat) (f : Chan → Chan) (c' : Nat) : (s.modChan c f).core c' = s.core c' := rfl
@[simp] theorem State.modChan_cell (s : State) (c : Nat) (f : Chan → Chan) (c' j' : Nat) : (s.modChan c f).cell c' j' = s.cell c' j' := rfl
@[simp] theorem State.modChan_cluster (s : State) (c : Nat) (f : Chan → Chan) (c' : Nat) : (s.modChan c f).cluster c' = s.cluster c' := rfl
@[simp] theorem State.modChan_die (s : State) (c : Nat) (f : Chan → Chan) (d' : Nat) : (s.modChan c f).die d' = s.die d' := rfl
@[simp] theorem State.modChan_loom (s : State) (c : Nat) (f : Chan → Chan) (o' : Nat) : (s.modChan c f).loom o' = s.loom o' := rfl
@[simp] theorem State.modChan_part (s : State) (c : Nat) (f : Chan → Chan) (p' : Nat) : (s.modChan c f).part p' = s.part p' := rfl
@[simp] theorem State.modChan_slport (s : State) (c : Nat) (f : Chan → Chan) (p' : Nat) : (s.modChan c f).slport p' = s.slport p' := rfl
@[simp] theorem State.modChan_strand (s : State) (c : Nat) (f : Chan → Chan) (t' : Nat) : (s.modChan c f).strand t' = s.strand t' := rfl
@[simp] theorem State.modChan_partOf (s : State) (c : Nat) (f : Chan → Chan) (t' : Nat) : (s.modChan c f).partOf t' = s.partOf t' := rfl

@[simp] theorem State.setPart_core (s : State) (p : Nat) (x : Part) (c' : Nat) : (s.setPart p x).core c' = s.core c' := rfl
@[simp] theorem State.setPart_cell (s : State) (p : Nat) (x : Part) (c' j' : Nat) : (s.setPart p x).cell c' j' = s.cell c' j' := rfl
@[simp] theorem State.setPart_cluster (s : State) (p : Nat) (x : Part) (c' : Nat) : (s.setPart p x).cluster c' = s.cluster c' := rfl
@[simp] theorem State.setPart_die (s : State) (p : Nat) (x : Part) (d' : Nat) : (s.setPart p x).die d' = s.die d' := rfl
@[simp] theorem State.setPart_loom (s : State) (p : Nat) (x : Part) (o' : Nat) : (s.setPart p x).loom o' = s.loom o' := rfl
@[simp] theorem State.setPart_chan (s : State) (p : Nat) (x : Part) (c' : Nat) : (s.setPart p x).chan c' = s.chan c' := rfl
@[simp] theorem State.setPart_slport (s : State) (p : Nat) (x : Part) (p' : Nat) : (s.setPart p x).slport p' = s.slport p' := rfl
@[simp] theorem State.setPart_strand (s : State) (p : Nat) (x : Part) (t' : Nat) : (s.setPart p x).strand t' = s.strand t' := rfl

@[simp] theorem State.modPart_core (s : State) (p : Nat) (f : Part → Part) (c' : Nat) : (s.modPart p f).core c' = s.core c' := rfl
@[simp] theorem State.modPart_cell (s : State) (p : Nat) (f : Part → Part) (c' j' : Nat) : (s.modPart p f).cell c' j' = s.cell c' j' := rfl
@[simp] theorem State.modPart_cluster (s : State) (p : Nat) (f : Part → Part) (c' : Nat) : (s.modPart p f).cluster c' = s.cluster c' := rfl
@[simp] theorem State.modPart_die (s : State) (p : Nat) (f : Part → Part) (d' : Nat) : (s.modPart p f).die d' = s.die d' := rfl
@[simp] theorem State.modPart_loom (s : State) (p : Nat) (f : Part → Part) (o' : Nat) : (s.modPart p f).loom o' = s.loom o' := rfl
@[simp] theorem State.modPart_chan (s : State) (p : Nat) (f : Part → Part) (c' : Nat) : (s.modPart p f).chan c' = s.chan c' := rfl
@[simp] theorem State.modPart_slport (s : State) (p : Nat) (f : Part → Part) (p' : Nat) : (s.modPart p f).slport p' = s.slport p' := rfl
@[simp] theorem State.modPart_strand (s : State) (p : Nat) (f : Part → Part) (t' : Nat) : (s.modPart p f).strand t' = s.strand t' := rfl



@[simp] theorem State.put_core (s : State) (d : BitVec 5) (w : Word) (c' : Nat) : (s.put d w).core c' = s.core c' := rfl
@[simp] theorem State.put_cell (s : State) (d : BitVec 5) (w : Word) (c' j' : Nat) : (s.put d w).cell c' j' = s.cell c' j' := rfl
@[simp] theorem State.put_cluster (s : State) (d : BitVec 5) (w : Word) (c' : Nat) : (s.put d w).cluster c' = s.cluster c' := rfl
@[simp] theorem State.put_die (s : State) (d : BitVec 5) (w : Word) (d' : Nat) : (s.put d w).die d' = s.die d' := rfl
@[simp] theorem State.put_loom (s : State) (d : BitVec 5) (w : Word) (o' : Nat) : (s.put d w).loom o' = s.loom o' := rfl
@[simp] theorem State.put_chan (s : State) (d : BitVec 5) (w : Word) (c' : Nat) : (s.put d w).chan c' = s.chan c' := rfl
@[simp] theorem State.put_part (s : State) (d : BitVec 5) (w : Word) (p' : Nat) : (s.put d w).part p' = s.part p' := rfl
@[simp] theorem State.put_slport (s : State) (d : BitVec 5) (w : Word) (p' : Nat) : (s.put d w).slport p' = s.slport p' := rfl
@[simp] theorem State.put_partOf (s : State) (d : BitVec 5) (w : Word) (t' : Nat) : (s.put d w).partOf t' = s.partOf t' := rfl

@[simp] theorem State.put8_core (s : State) (d : BitVec 5) (w : Word) (c' : Nat) : (s.put8 d w).core c' = s.core c' := rfl
@[simp] theorem State.put8_cell (s : State) (d : BitVec 5) (w : Word) (c' j' : Nat) : (s.put8 d w).cell c' j' = s.cell c' j' := rfl
@[simp] theorem State.put8_cluster (s : State) (d : BitVec 5) (w : Word) (c' : Nat) : (s.put8 d w).cluster c' = s.cluster c' := rfl
@[simp] theorem State.put8_die (s : State) (d : BitVec 5) (w : Word) (d' : Nat) : (s.put8 d w).die d' = s.die d' := rfl
@[simp] theorem State.put8_loom (s : State) (d : BitVec 5) (w : Word) (o' : Nat) : (s.put8 d w).loom o' = s.loom o' := rfl
@[simp] theorem State.put8_chan (s : State) (d : BitVec 5) (w : Word) (c' : Nat) : (s.put8 d w).chan c' = s.chan c' := rfl
@[simp] theorem State.put8_part (s : State) (d : BitVec 5) (w : Word) (p' : Nat) : (s.put8 d w).part p' = s.part p' := rfl
@[simp] theorem State.put8_slport (s : State) (d : BitVec 5) (w : Word) (p' : Nat) : (s.put8 d w).slport p' = s.slport p' := rfl
@[simp] theorem State.put8_partOf (s : State) (d : BitVec 5) (w : Word) (t' : Nat) : (s.put8 d w).partOf t' = s.partOf t' := rfl

@[simp] theorem State.retire_core (s : State) (c' : Nat) : (s.retire).core c' = s.core c' := rfl
@[simp] theorem State.retire_cell (s : State) (c' j' : Nat) : (s.retire).cell c' j' = s.cell c' j' := rfl
@[simp] theorem State.retire_cluster (s : State) (c' : Nat) : (s.retire).cluster c' = s.cluster c' := rfl
@[simp] theorem State.retire_die (s : State) (d' : Nat) : (s.retire).die d' = s.die d' := rfl
@[simp] theorem State.retire_loom (s : State) (o' : Nat) : (s.retire).loom o' = s.loom o' := rfl
@[simp] theorem State.retire_chan (s : State) (c' : Nat) : (s.retire).chan c' = s.chan c' := rfl
@[simp] theorem State.retire_part (s : State) (p' : Nat) : (s.retire).part p' = s.part p' := rfl
@[simp] theorem State.retire_slport (s : State) (p' : Nat) : (s.retire).slport p' = s.slport p' := rfl
@[simp] theorem State.retire_partOf (s : State) (t' : Nat) : (s.retire).partOf t' = s.partOf t' := rfl

@[simp] theorem State.retire8_core (s : State) (c' : Nat) : (s.retire8).core c' = s.core c' := rfl
@[simp] theorem State.retire8_cell (s : State) (c' j' : Nat) : (s.retire8).cell c' j' = s.cell c' j' := rfl
@[simp] theorem State.retire8_cluster (s : State) (c' : Nat) : (s.retire8).cluster c' = s.cluster c' := rfl
@[simp] theorem State.retire8_die (s : State) (d' : Nat) : (s.retire8).die d' = s.die d' := rfl
@[simp] theorem State.retire8_loom (s : State) (o' : Nat) : (s.retire8).loom o' = s.loom o' := rfl
@[simp] theorem State.retire8_chan (s : State) (c' : Nat) : (s.retire8).chan c' = s.chan c' := rfl
@[simp] theorem State.retire8_part (s : State) (p' : Nat) : (s.retire8).part p' = s.part p' := rfl
@[simp] theorem State.retire8_slport (s : State) (p' : Nat) : (s.retire8).slport p' = s.slport p' := rfl
@[simp] theorem State.retire8_partOf (s : State) (t' : Nat) : (s.retire8).partOf t' = s.partOf t' := rfl

@[simp] theorem State.ws_core (s : State) (d : BitVec 5) (w : Word) (c' : Nat) : (s.ws d w).core c' = s.core c' := rfl
@[simp] theorem State.ws_cell (s : State) (d : BitVec 5) (w : Word) (c' j' : Nat) : (s.ws d w).cell c' j' = s.cell c' j' := rfl
@[simp] theorem State.ws_cluster (s : State) (d : BitVec 5) (w : Word) (c' : Nat) : (s.ws d w).cluster c' = s.cluster c' := rfl
@[simp] theorem State.ws_die (s : State) (d : BitVec 5) (w : Word) (d' : Nat) : (s.ws d w).die d' = s.die d' := rfl
@[simp] theorem State.ws_loom (s : State) (d : BitVec 5) (w : Word) (o' : Nat) : (s.ws d w).loom o' = s.loom o' := rfl
@[simp] theorem State.ws_chan (s : State) (d : BitVec 5) (w : Word) (c' : Nat) : (s.ws d w).chan c' = s.chan c' := rfl
@[simp] theorem State.ws_part (s : State) (d : BitVec 5) (w : Word) (p' : Nat) : (s.ws d w).part p' = s.part p' := rfl
@[simp] theorem State.ws_slport (s : State) (d : BitVec 5) (w : Word) (p' : Nat) : (s.ws d w).slport p' = s.slport p' := rfl
@[simp] theorem State.ws_partOf (s : State) (d : BitVec 5) (w : Word) (t' : Nat) : (s.ws d w).partOf t' = s.partOf t' := rfl

@[simp] theorem State.wv_core (s : State) (d : BitVec 5) (w : VReg) (c' : Nat) : (s.wv d w).core c' = s.core c' := rfl
@[simp] theorem State.wv_cell (s : State) (d : BitVec 5) (w : VReg) (c' j' : Nat) : (s.wv d w).cell c' j' = s.cell c' j' := rfl
@[simp] theorem State.wv_cluster (s : State) (d : BitVec 5) (w : VReg) (c' : Nat) : (s.wv d w).cluster c' = s.cluster c' := rfl
@[simp] theorem State.wv_die (s : State) (d : BitVec 5) (w : VReg) (d' : Nat) : (s.wv d w).die d' = s.die d' := rfl
@[simp] theorem State.wv_loom (s : State) (d : BitVec 5) (w : VReg) (o' : Nat) : (s.wv d w).loom o' = s.loom o' := rfl
@[simp] theorem State.wv_chan (s : State) (d : BitVec 5) (w : VReg) (c' : Nat) : (s.wv d w).chan c' = s.chan c' := rfl
@[simp] theorem State.wv_part (s : State) (d : BitVec 5) (w : VReg) (p' : Nat) : (s.wv d w).part p' = s.part p' := rfl
@[simp] theorem State.wv_slport (s : State) (d : BitVec 5) (w : VReg) (p' : Nat) : (s.wv d w).slport p' = s.slport p' := rfl
@[simp] theorem State.wv_partOf (s : State) (d : BitVec 5) (w : VReg) (t' : Nat) : (s.wv d w).partOf t' = s.partOf t' := rfl

@[simp] theorem State.wk_core (s : State) (d : BitVec 3) (w : Word) (c' : Nat) : (s.wk d w).core c' = s.core c' := rfl
@[simp] theorem State.wk_cell (s : State) (d : BitVec 3) (w : Word) (c' j' : Nat) : (s.wk d w).cell c' j' = s.cell c' j' := rfl
@[simp] theorem State.wk_cluster (s : State) (d : BitVec 3) (w : Word) (c' : Nat) : (s.wk d w).cluster c' = s.cluster c' := rfl
@[simp] theorem State.wk_die (s : State) (d : BitVec 3) (w : Word) (d' : Nat) : (s.wk d w).die d' = s.die d' := rfl
@[simp] theorem State.wk_loom (s : State) (d : BitVec 3) (w : Word) (o' : Nat) : (s.wk d w).loom o' = s.loom o' := rfl
@[simp] theorem State.wk_chan (s : State) (d : BitVec 3) (w : Word) (c' : Nat) : (s.wk d w).chan c' = s.chan c' := rfl
@[simp] theorem State.wk_part (s : State) (d : BitVec 3) (w : Word) (p' : Nat) : (s.wk d w).part p' = s.part p' := rfl
@[simp] theorem State.wk_slport (s : State) (d : BitVec 3) (w : Word) (p' : Nat) : (s.wk d w).slport p' = s.slport p' := rfl
@[simp] theorem State.wk_partOf (s : State) (d : BitVec 3) (w : Word) (t' : Nat) : (s.wk d w).partOf t' = s.partOf t' := rfl

@[simp] theorem State.wb_core (s : State) (d : BitVec 4) (w : BRec) (c' : Nat) : (s.wb d w).core c' = s.core c' := rfl
@[simp] theorem State.wb_cell (s : State) (d : BitVec 4) (w : BRec) (c' j' : Nat) : (s.wb d w).cell c' j' = s.cell c' j' := rfl
@[simp] theorem State.wb_cluster (s : State) (d : BitVec 4) (w : BRec) (c' : Nat) : (s.wb d w).cluster c' = s.cluster c' := rfl
@[simp] theorem State.wb_die (s : State) (d : BitVec 4) (w : BRec) (d' : Nat) : (s.wb d w).die d' = s.die d' := rfl
@[simp] theorem State.wb_loom (s : State) (d : BitVec 4) (w : BRec) (o' : Nat) : (s.wb d w).loom o' = s.loom o' := rfl
@[simp] theorem State.wb_chan (s : State) (d : BitVec 4) (w : BRec) (c' : Nat) : (s.wb d w).chan c' = s.chan c' := rfl
@[simp] theorem State.wb_part (s : State) (d : BitVec 4) (w : BRec) (p' : Nat) : (s.wb d w).part p' = s.part p' := rfl
@[simp] theorem State.wb_slport (s : State) (d : BitVec 4) (w : BRec) (p' : Nat) : (s.wb d w).slport p' = s.slport p' := rfl
@[simp] theorem State.wb_partOf (s : State) (d : BitVec 4) (w : BRec) (t' : Nat) : (s.wb d w).partOf t' = s.partOf t' := rfl

/-! ## Reading back -/

theorem State.setStrand_strand (s : State) (t u : Nat) (x : Strand) : (s.setStrand t x).strand u = if u = t then x else s.strand u := by
  simp only [State.strand, State.setStrand, SMap.get_set]; rfl
@[simp] theorem State.setStrand_self (s : State) (t : Nat) (x : Strand) : (s.setStrand t x).strand t = x := by
  simp [State.setStrand_strand]
theorem State.setStrand_ne (s : State) {t u : Nat} (x : Strand) (h : u ≠ t) : (s.setStrand t x).strand u = s.strand u := by
  simp [State.setStrand_strand, h]
@[simp] theorem State.modStrand_self (s : State) (t : Nat) (f : Strand → Strand) : (s.modStrand t f).strand t = f (s.strand t) := by
  simp [State.modStrand]
theorem State.modStrand_ne (s : State) {t u : Nat} (f : Strand → Strand) (h : u ≠ t) : (s.modStrand t f).strand u = s.strand u := by
  simp [State.modStrand, State.setStrand_ne _ _ h]
@[simp] theorem State.setMe_me (s : State) (x : Strand) : (s.setMe x).me = x := by simp [State.me, State.setMe]
theorem State.setMe_ne (s : State) {u : Nat} (x : Strand) (h : u ≠ s.cur) : (s.setMe x).strand u = s.strand u := by
  simp [State.setMe, State.setStrand_ne _ _ h]
@[simp] theorem State.put_me (s : State) (d : BitVec 5) (w : Word) : (s.put d w).me = (s.me.ws d w).advance 4 := by simp [State.put]
@[simp] theorem State.put8_me (s : State) (d : BitVec 5) (w : Word) : (s.put8 d w).me = (s.me.ws d w).advance 8 := by simp [State.put8]
@[simp] theorem State.retire_me (s : State) : s.retire.me = s.me.advance 4 := by simp [State.retire]
@[simp] theorem State.retire8_me (s : State) : s.retire8.me = s.me.advance 8 := by simp [State.retire8]
theorem State.put_ne (s : State) (d : BitVec 5) (w : Word) {u : Nat} (h : u ≠ s.cur) : (s.put d w).strand u = s.strand u :=
  s.setMe_ne _ h
theorem State.retire_ne (s : State) {u : Nat} (h : u ≠ s.cur) : s.retire.strand u = s.strand u := s.setMe_ne _ h
theorem State.setCore_core (s : State) (c d : Nat) (x : Core) : (s.setCore c x).core d = if d = c then x else s.core d := by
  simp only [State.core, State.setCore, SMap.get_set]; rfl
@[simp] theorem State.setCore_self (s : State) (c : Nat) (x : Core) : (s.setCore c x).core c = x := by simp [State.setCore_core]
@[simp] theorem State.modCore_self (s : State) (c : Nat) (f : Core → Core) : (s.modCore c f).core c = f (s.core c) := by
  simp [State.modCore]
theorem State.setPart_part (s : State) (p q : Nat) (x : Part) : (s.setPart p x).part q = if q = p then x else s.part q := by
  simp only [State.part, State.setPart, SMap.get_set]
@[simp] theorem State.setPart_self (s : State) (p : Nat) (x : Part) : (s.setPart p x).part p = x := by simp [State.setPart_part]
@[simp] theorem State.modPart_self (s : State) (p : Nat) (f : Part → Part) : (s.modPart p f).part p = f (s.part p) := by
  simp [State.modPart]
@[simp] theorem State.setCell_self (s : State) (c j : Nat) (x : Cell) : (s.setCell c j x).cell c j = x := by
  simp [State.cell, State.setCell]

/-! ## Registers (R17, R65, R233) -/

@[simp] theorem Strand.rs_zero (x : Strand) : x.rs 0 = 0 := rfl
@[simp] theorem Strand.rk_zero (x : Strand) : x.rk 0 = BitVec.allOnes 64 := rfl
theorem Strand.rs_ws (x : Strand) (d r : BitVec 5) (w : Word) : (x.ws d w).rs r = if r = d ∧ d ≠ 0 then w else x.rs r := by
  unfold Strand.rs Strand.ws
  by_cases hd : d = 0
  · simp [hd]
  · by_cases hr : r = 0
    · subst hr; simp; intro h; exact absurd h.symm hd
    · simp only [hd, hr, if_false, ne_eq, not_false_iff, and_true]
      change (x.s.set d.toNat w d.isLt)[r.toNat] = if r = d then w else x.s[r.toNat]
      rw [Vector.getElem_set]
      by_cases h : r = d
      · simp [h]
      · have h' : ¬ d.toNat = r.toNat := fun q => h (BitVec.eq_of_toNat_eq q.symm)
        simp [h, h']
theorem Strand.rv_wv (x : Strand) (d r : BitVec 5) (w : VReg) : (x.wv d w).rv r = if r = d then w else x.rv r := by
  unfold Strand.rv Strand.wv
  have e : (x.v.set d.toNat w d.isLt).get r.toFin = if d.toNat = r.toNat then w else x.v.get r.toFin := by
    change (x.v.set d.toNat w d.isLt)[r.toNat] = if d.toNat = r.toNat then w else x.v[r.toNat]
    rw [Vector.getElem_set]
  have hr := r.isLt
  by_cases h : r = d
  · subst h; simp [e, hr]
  · have h' : ¬ d.toNat = r.toNat := fun q => h (BitVec.eq_of_toNat_eq q.symm)
    have h2 : (1#32 <<< d.toNat).getLsbD r.toNat = false := by
      simp [BitVec.getLsbD_shiftLeft, BitVec.getLsbD_one]; omega
    have h3 : (x.dead &&& ~~~(1#32 <<< d.toNat)).getLsbD r.toNat = x.dead.getLsbD r.toNat := by
      rw [BitVec.getLsbD_and, BitVec.getLsbD_not, h2]; simp; omega
    simp only [e, h', h, h3, if_false]
theorem Strand.rk_wk (x : Strand) (d r : BitVec 3) (w : Word) : (x.wk d w).rk r = if r = d ∧ d ≠ 0 then w else x.rk r := by
  unfold Strand.rk Strand.wk
  by_cases hd : d = 0
  · simp [hd]
  · by_cases hr : r = 0
    · subst hr; simp; intro h; exact absurd h.symm hd
    · simp only [hd, hr, if_false, ne_eq, not_false_iff, and_true]
      change (x.k.set d.toNat w d.isLt)[r.toNat] = if r = d then w else x.k[r.toNat]
      rw [Vector.getElem_set]
      by_cases h : r = d
      · simp [h]
      · have h' : ¬ d.toNat = r.toNat := fun q => h (BitVec.eq_of_toNat_eq q.symm)
        simp [h, h']
theorem Strand.rb_wb (x : Strand) (d r : BitVec 4) (w : BRec) : (x.wb d w).rb r = if r = d then w else x.rb r := by
  unfold Strand.rb Strand.wb
  change (x.b.set d.toNat w d.isLt)[r.toNat] = if r = d then w else x.b[r.toNat]
  rw [Vector.getElem_set]
  by_cases h : r = d
  · simp [h]
  · have h' : ¬ d.toNat = r.toNat := fun q => h (BitVec.eq_of_toNat_eq q.symm)
    simp [h, h']
theorem Strand.rs_ws_ne (x : Strand) {d r : BitVec 5} (w : Word) (h : r ≠ d) : (x.ws d w).rs r = x.rs r := by
  simp [Strand.rs_ws, h]
@[simp] theorem Strand.advance_rs (x : Strand) (n : Nat) (r : BitVec 5) : (x.advance n).rs r = x.rs r := rfl
@[simp] theorem Strand.advance_rv (x : Strand) (n : Nat) (r : BitVec 5) : (x.advance n).rv r = x.rv r := rfl
@[simp] theorem Strand.advance_rk (x : Strand) (n : Nat) (r : BitVec 3) : (x.advance n).rk r = x.rk r := rfl
@[simp] theorem Strand.advance_rb (x : Strand) (n : Nat) (r : BitVec 4) : (x.advance n).rb r = x.rb r := rfl
@[simp] theorem Strand.advance_pc (x : Strand) (n : Nat) : (x.advance n).pc = x.pc + BitVec.ofNat 64 n := rfl
@[simp] theorem Strand.ws_pc (x : Strand) (d : BitVec 5) (w : Word) : (x.ws d w).pc = x.pc := by unfold Strand.ws; split <;> rfl

end Machine
end Sys2Proof
end

