-- ==== Sys2Proof/Laws/Ops.lean ====
section
/-! SUPPORT. What each shared operation of Machine/Ops.lean can do, said once: what it writes, what it leaves, and that it keeps memory in
its canonical form. A proof about an instruction cites these and does not unfold the operation. -/

namespace Sys2Proof.Machine

/-! ## Retiring, and writing one register -/

theorem State.setMe_others (s : State) (x : Strand) : OthersKept s (s.setMe x) :=
  ⟨rfl, fun _ h => s.setMe_ne x h, fun _ => rfl⟩

/-- A retired instruction that wrote nothing. -/
theorem State.retire_retired (s : State) : Retired s s.retire 4 :=
  ⟨s.setMe_others _, by simp [Strand.advance], by simp⟩
theorem State.retire8_retired (s : State) : Retired s s.retire8 8 :=
  ⟨s.setMe_others _, by simp [Strand.advance], by simp⟩

theorem Strand.ws_sameButS (x : Strand) (d : BitVec 5) (w : Word) (n : Nat) : Strand.SameButS x ((x.ws d w).advance n) := by
  unfold Strand.SameButS Strand.ws Strand.advance; split <;> rfl
/-- A write of a register ends its own wait and no other (R116). -/
theorem Strand.othersWait_known (x y : Strand) (d : RegName) (h : y.tags = x.known d) : Strand.OthersWait x y d := by
  intro r id hr; rw [h]; simp [Strand.known, hr]
theorem Strand.ws_othersWait (x : Strand) (d : BitVec 5) (w : Word) (n : Nat) : Strand.OthersWait x ((x.ws d w).advance n) (.s d) := by
  unfold Strand.ws; split
  · exact fun _ _ _ => Iff.rfl
  · exact Strand.othersWait_known _ _ _ rfl
theorem Strand.wk_othersWait (x : Strand) (d : BitVec 3) (w : Word) (n : Nat) : Strand.OthersWait x ((x.wk d w).advance n) (.k d) := by
  unfold Strand.wk; split
  · exact fun _ _ _ => Iff.rfl
  · exact Strand.othersWait_known _ _ _ rfl

/-- A retired instruction of n bytes that wrote d. -/
theorem State.setMe_wroteS (s : State) (d : BitVec 5) (w : Word) (n : Nat) : WroteS s (s.setMe ((s.me.ws d w).advance n)) d w n := by
  refine ⟨s.setMe_others _, ?_, ?_, ?_, ?_, ?_⟩
  · rw [State.setMe_me]; exact Strand.ws_sameButS _ _ _ _
  · rw [State.setMe_me]; exact Strand.ws_othersWait _ _ _ _
  · intro r h; simp [State.rs, Strand.rs_ws, h]
  · unfold State.rs; rw [State.setMe_me, Strand.advance_rs, Strand.rs_ws]
    by_cases h : d = 0
    · subst h; rfl
    · rw [if_pos ⟨rfl, h⟩, if_neg h]
  · simp
theorem State.put_wroteS (s : State) (d : BitVec 5) (w : Word) : WroteS s (s.put d w) d w 4 := s.setMe_wroteS d w 4
theorem State.put8_wroteS (s : State) (d : BitVec 5) (w : Word) : WroteS s (s.put8 d w) d w 8 := s.setMe_wroteS d w 8

theorem State.setMe_wroteK (s : State) (d : BitVec 3) (w : Word) (n : Nat) : WroteK s (s.setMe ((s.me.wk d w).advance n)) d w 0 n := by
  refine ⟨s.setMe_others _, ?_, ?_, ?_, ?_, ?_⟩
  · rw [State.setMe_me]; unfold Strand.SameButK Strand.wk Strand.advance Strand.flagged; split <;> simp
  · rw [State.setMe_me]; exact Strand.wk_othersWait _ _ _ _
  · intro r h; simp [State.rk, Strand.rk_wk, h]
  · intro h; unfold State.rk; rw [State.setMe_me, Strand.advance_rk, Strand.rk_wk, if_pos ⟨rfl, h⟩]
  · rw [State.setMe_me]; unfold Strand.wk Strand.advance; split <;> rfl

theorem State.setMe_wroteV (s : State) (d : BitVec 5) (w : VReg) (n : Nat) : WroteV s (s.setMe ((s.me.wv d w).advance n)) d w 0 n := by
  refine ⟨s.setMe_others _, ?_, ?_, ?_, ?_, ?_⟩
  · rw [State.setMe_me]; simp [Strand.SameButV, Strand.wv, Strand.advance, Strand.flagged]
  · rw [State.setMe_me]; exact Strand.othersWait_known _ _ _ rfl
  · intro r h; simp [State.rv, Strand.rv_wv, h]
  · simp [State.rv, Strand.rv_wv]
  · rw [State.setMe_me]; rfl

theorem State.setMe_wroteB (s : State) (d : BitVec 4) (w : BRec) (n : Nat) : WroteB s (s.setMe ((s.me.wb d w).advance n)) d w n := by
  refine ⟨s.setMe_others _, ?_, ?_, ?_, ?_, ?_⟩
  · rw [State.setMe_me]; simp [Strand.SameButB, Strand.wb, Strand.advance]
  · rw [State.setMe_me]; exact Strand.othersWait_known _ _ _ rfl
  · intro r h; simp [State.rb, Strand.rb_wb, h]
  · simp [State.rb, Strand.rb_wb]
  · rw [State.setMe_me]; rfl

/-! ## Memory through the operations that write none of it -/

theorem foldl_mem {α : Type} (f : State → α → State) (hf : ∀ s a, (f s a).mem = s.mem) (l : List α) (s : State) : (l.foldl f s).mem = s.mem := by
  induction l generalizing s with
  | nil => rfl
  | cons a l ih => rw [List.foldl_cons, ih, hf]

@[simp] theorem State.dcause_mem (s : State) (p : Nat) (n : Fin 16) (pc : Word) : (s.dcause p n pc).mem = s.mem := rfl
@[simp] theorem State.event_mem (s : State) (n : Fin 16) : (s.event n).mem = s.mem := rfl
@[simp] theorem State.dropTag_mem (s : State) (t : Nat) : (s.dropTag t).mem = s.mem := by unfold State.dropTag; split <;> rfl
@[simp] theorem State.jumpT_mem (s : State) (t : Nat) (pc : Word) : (s.jumpT t pc).mem = s.mem := by
  unfold State.jumpT; dsimp only; split <;> simp
@[simp] theorem State.jump_mem (s : State) (pc : Word) : (s.jump pc).mem = s.mem := s.jumpT_mem _ _
@[simp] theorem State.haltStrand_mem (s : State) (t : Nat) (why : BitVec 8) (hpc : Word) : (s.haltStrand t why hpc).mem = s.mem := by
  unfold State.haltStrand; dsimp only; repeat' split
  all_goals rfl
@[simp] theorem State.niFill_mem (s : State) (core p : Nat) (rk : BitVec 16) : (s.niFill core p rk).mem = s.mem := by
  unfold State.niFill; dsimp only; split <;> rfl
@[simp] theorem State.post_mem (s : State) (a : Nat) (r : Option (BitVec 16)) (d : Nat) (c : Bool) (b : Body) (f : Option Nat) (y : Bool) :
    (s.post a r d c b f y).mem = s.mem := rfl
@[simp] theorem State.countSent_mem (s : State) (t : Nat) : (s.countSent t).mem = s.mem := rfl
@[simp] theorem State.sendRank_mem (s : State) (t : Nat) (rk : BitVec 16) (b : Body) : (s.sendRank t rk b).mem = s.mem := by
  simp [State.sendRank]
@[simp] theorem State.arrival_mem (s : State) (core : Nat) : (s.arrival core).mem = s.mem := by
  unfold State.arrival; rw [foldl_mem _ (fun _ _ => State.modStrand_mem _ _ _), State.setCore_mem]
@[simp] theorem State.reached_mem (s : State) (core : Nat) : (s.reached core).mem = s.mem := by unfold State.reached; dsimp only; split <;> rfl
@[simp] theorem State.joinWait_mem (s : State) (t : Nat) : (s.joinWait t).mem = s.mem := by
  unfold State.joinWait; split <;> rfl
@[simp] theorem State.endWait_mem (s : State) (t : Nat) (f : Strand → Strand) : (s.endWait t f).mem = s.mem := by
  unfold State.endWait; dsimp only; split
  · simp
  · split <;> rfl
@[simp] theorem State.dropClean_mem (s : State) (core : Nat) (f : Line → Bool) : (s.dropClean core f).mem = s.mem := rfl
@[simp] theorem wakeParked_mem (s : State) (core : Nat) (j : BitVec 12) : (wakeParked s core j).mem = s.mem := by
  unfold wakeParked; rw [foldl_mem _ (fun _ _ => by simp)]
@[simp] theorem State.fqDoor_mem (s : State) (p : Nat) (pc : Word) : (s.fqDoor p pc).mem = s.mem := by
  unfold State.fqDoor; dsimp only; split
  · rfl
  · split
    · split <;> simp
    · simp
@[simp] theorem State.enter_mem (s : State) (t : Nat) (lvl : BitVec 2) (vec cause val tpc : Word) : (s.enter t lvl vec cause val tpc).mem = s.mem := by
  simp [State.enter]

/-! ## The operations that write memory keep its form -/

theorem State.writeLines_wf (s : State) (core : Nat) (ls : List (Nat × Line)) (h : s.MemWf) : (s.writeLines core ls).MemWf :=
  Memory.wf_foldl (fun m (l : Nat × Line) => writeDirty m l.1 l.2 64) (fun _ _ hm => Memory.wf_writeDirty _ _ _ hm) _ h
theorem State.writeBackAll_wf (s : State) (core : Nat) (h : s.MemWf) : (s.writeBackAll core).MemWf := s.writeLines_wf core _ h

/-- A queue that overflows puts its oldest record into the spill area (R211): memory keeps its form. -/
theorem State.spillOldest_wf (s : State) (core : Nat) (q : List TRec) (h : s.MemWf) : (s.spillOldest core q).1.MemWf := by
  unfold State.spillOldest; dsimp only; split
  · exact h
  · split
    · exact h
    · unfold State.MemWf; dsimp only; apply Memory.wf_writeWords; exact h
theorem State.enqueueAt_wf (s : State) (core : Nat) (p : BitVec 2) (r : TRec) (h : s.MemWf) : (s.enqueueAt core p r).MemWf := by
  have := s.spillOldest_wf core ((s.core core).queues.get p.toFin ++ [r]) h
  unfold State.enqueueAt; dsimp only; split
  · exact this
  · exact h
theorem State.queueRecord_wf (s : State) (a core : Nat) (r : TRec) (h : s.MemWf) : (s.queueRecord a core r).MemWf := by
  unfold State.queueRecord; dsimp only; split
  · unfold State.MemWf; rw [State.arrival_mem]; exact s.enqueueAt_wf _ _ _ h
  · exact h
/-- Payload words that find no room in the core go into the spill area (R220): memory keeps its form. -/
theorem State.keepWords_wf (s : State) (core : Nat) (l : List PWord) (ws : List Word) (h : s.MemWf) : (s.keepWords core l ws).1.MemWf := by
  induction ws generalizing s l with
  | nil => exact h
  | cons w ws ih =>
    rw [State.keepWords]; split
    · exact ih s _ h
    · exact ih _ _ (by unfold State.MemWf; exact Memory.wf_writeN _ _ _ h)
theorem State.fire_wf (s : State) (core : Nat) (j : BitVec 12) (h : s.MemWf) : (s.fire core j).MemWf := by
  have hw : (wakeParked s core j).MemWf := by unfold State.MemWf; rw [wakeParked_mem]; exact h
  unfold State.fire; dsimp only; split
  · exact hw
  · exact State.queueRecord_wf _ _ _ _ hw
theorem State.decrement_wf (s : State) (core : Nat) (j : BitVec 12) (d : Nat) (ws : List Word) (seq : Option (BitVec 16)) (a : Nat) (f : Bool)
    (h : s.MemWf) : (s.decrement core j d ws seq a f).MemWf := by
  have hk := s.keepWords_wf core (s.payloadOf core) ws h
  unfold State.decrement; dsimp only; split
  · exact h
  · split
    · exact State.fire_wf _ _ _ hk
    · exact hk
theorem State.localDec_wf (s : State) (a core : Nat) (j : BitVec 12) (d : BitVec 8) (ws : List Word) (seq : Option (BitVec 16)) (f : Bool)
    (fo : Option Nat) (h : s.MemWf) : (s.localDec a core j d ws seq f fo).MemWf := by
  unfold State.localDec; dsimp only; split
  · exact h
  · exact s.decrement_wf _ _ _ _ _ _ _ h
theorem State.completeCw_wf (s : State) (a cwCore p : Nat) (cw : Word) (cnt : Nat) (ws : List Word) (seq : Option (BitVec 16)) (f : Bool)
    (h : s.MemWf) : (s.completeCw a cwCore p cw cnt ws seq f).MemWf := by
  unfold State.completeCw; split
  · exact h
  · split
    · split
      · exact h
      · exact h
    · exact s.localDec_wf _ _ _ _ _ _ _ _ h
theorem State.enterRecord_wf (s : State) (r : FaultRec) (h : s.MemWf) : (s.enterRecord r).1.MemWf := by
  unfold State.enterRecord; dsimp only; split
  · exact h
  · split
    · apply Memory.wf_writeN; exact h
    · apply Memory.wf_writeN; apply Memory.wf_writeWords; exact h
theorem State.report_wf (s : State) (r : FaultRec) (h : s.MemWf) : (s.report r).MemWf := by
  have := s.enterRecord_wf r h
  unfold State.report; dsimp only; split
  · unfold State.MemWf; simpa using this
  · exact this
theorem State.reportFailed_wf (s : State) (r : FaultRec) (a cwCore cnt : Nat) (h : s.MemWf) : (s.reportFailed r a cwCore cnt).MemWf := by
  unfold State.reportFailed; dsimp only; split
  · exact State.completeCw_wf _ _ _ _ _ _ _ _ _ (s.report_wf _ h)
  · unfold State.MemWf; rw [State.dcause_mem]; exact s.report_wf _ h
theorem State.haltTrap_wf (s : State) (t : Nat) (why c : BitVec 8) (val tpc : Word) (h : s.MemWf) : (s.haltTrap t why c val tpc).MemWf := by
  unfold State.haltTrap; dsimp only
  exact State.report_wf _ _ (by unfold State.MemWf; simpa using h)
theorem State.deliver_wf (s : State) (c : BitVec 8) (val tpc : Word) (h : s.MemWf) : (s.deliver c val tpc).MemWf := by
  unfold State.deliver; dsimp only; split
  · exact s.haltTrap_wf _ _ _ _ _ h
  · unfold State.MemWf; rw [State.enter_mem]; exact h

/-! ## What the outcomes can be -/

/-- A trap is a next state. -/
theorem State.trap_next (s : State) (c : BitVec 8) (val : Word) : s.trap c val = .next (s.deliver c val s.me.pc) := rfl
theorem State.trapIr_next (s : State) (c : BitVec 8) : s.trapIr c = .next (s.deliver c s.ir s.me.pc) := rfl
/-- A device step happens or is no run. -/
theorem enabled_cases {o : Option State} {t : State} (h : enabled o = .next t) : o = some t := by
  cases o with
  | none => cases h
  | some u => cases h; rfl
/-- What waits for the release of a strand: its core copy is written back and the rest follows, or it stands at the state a stall leaves. -/
theorem State.afterRelease_cases {s t back : State} {k : State → Out1} (h : s.afterRelease k back = .next t) :
    (s.Released ∧ k (s.writeBackAll (coreOf s.cur)) = .next t) ∨ (¬ s.Released ∧ t = back) := by
  unfold State.afterRelease at h; split at h
  · rename_i q; exact .inl ⟨by simpa using q, h⟩
  · rename_i q; exact .inr ⟨by simpa using q, by cases h; rfl⟩
/-- A transfer of control goes to its target, or raises cause 0x03 (R230). -/
theorem State.transfer_cases (s : State) (target : Word) :
    (target.extractLsb' 0 2 = 0 ∧ s.transfer target = .next (s.jump target))
    ∨ (target.extractLsb' 0 2 ≠ 0 ∧ s.transfer target = .next (s.deliver 0x03 target s.me.pc)) := by
  unfold State.transfer; split
  · exact .inr ⟨‹_›, rfl⟩
  · rename_i q; exact .inl ⟨by simpa using q, rfl⟩
/-- ERET raises cause 0x02 or 0x03, or returns (R255). -/
theorem State.eret_cases {s t : State} (h : s.eret = .next t) :
    (s.me.level.toNat < (tsPlev s.me.csr.tstat).toNat ∧ t = s.deliver 0x02 s.ir s.me.pc)
    ∨ (s.me.csr.tpc.extractLsb' 0 2 ≠ 0 ∧ t = s.deliver 0x03 s.me.csr.tpc s.me.pc)
    ∨ ((tsPlev s.me.csr.tstat).toNat ≤ s.me.level.toNat ∧ s.me.csr.tpc.extractLsb' 0 2 = 0
        ∧ t.mem = s.mem ∧ t.me.level = tsPlev s.me.csr.tstat) := by
  unfold State.eret at h; dsimp only at h; split at h
  · cases h; exact .inl ⟨‹_›, rfl⟩
  · rename_i q; split at h
    · cases h; exact .inr (.inl ⟨‹_›, rfl⟩)
    · rename_i q'
      have e : t = (s.jump s.me.csr.tpc).modStrand s.cur fun y =>
        { y with level := tsPlev s.me.csr.tstat, csr := { y.csr with tstat := tstatOf (tsPlev s.me.csr.tstat) (tsPie s.me.csr.tstat) (tsPie s.me.csr.tstat) } } := by
        cases h; rfl
      have c : (s.jump s.me.csr.tpc).cur = s.cur := by
        unfold State.jump State.jumpT State.dropTag; dsimp only; split
        · split <;> rfl
        · rfl
      refine .inr (.inr ⟨by omega, by simpa using q', ?_, ?_⟩)
      · rw [e, State.modStrand_mem, State.jump_mem]
      · unfold State.me at e ⊢; have c' : t.cur = s.cur := by rw [e, State.modStrand_cur]; exact c
        rw [c', e, State.modStrand_self]

/-! ## Core copies and translations: what leaves them goes home -/

/-- A dropped line's dirty bytes go home (R43): memory keeps its form. -/
theorem State.dropLines_wf (s : State) (core : Nat) (f : Nat × Line → Bool) (h : s.MemWf) : (s.dropLines core f).MemWf := by
  unfold State.dropLines; dsimp only; split
  · exact h
  · exact s.writeLines_wf core _ h
theorem State.dropPage_wf (s : State) (core page : Nat) (h : s.MemWf) : (s.dropPage core page).MemWf := s.dropLines_wf core _ h
theorem State.tlbDrop_wf (s : State) (core : Nat) (f : TlbEntry → Bool) (h : s.MemWf) : (s.tlbDrop core f).MemWf := by
  unfold State.tlbDrop; dsimp only; split
  · exact h
  · generalize (s.core core).tlb.filter f = l
    have h0 : (s.modCore core fun c => { c with tlb := c.tlb.filter fun e => !f e }).MemWf := h
    generalize (s.modCore core fun c => { c with tlb := c.tlb.filter fun e => !f e }) = u at h0
    induction l generalizing u with
    | nil => exact h0
    | cons e l ih => exact ih _ (u.dropPage_wf core _ h0)
/-- A discarded translation (R77) writes its lines back: memory keeps its form. -/
theorem State.discard_wf (s : State) (c : Ctx) (acc : Acc) (va : Nat) (h : s.MemWf) : (s.discard c acc va).MemWf := by
  unfold State.discard; dsimp only
  have k : ∀ u : State, u.MemWf → (if (u.cluster (clusterOf c.core)).tlb.any (fun e => e.covers c.p va && !permits e acc c.lvl) = true then
      u.modCluster (clusterOf c.core) fun x => { x with tlb := x.tlb.filter fun e => !(e.covers c.p va && !permits e acc c.lvl) }
      else u).MemWf := fun u hu => by split <;> exact hu
  refine k _ (State.tlbDrop_wf _ _ _ ?_)
  split <;> split <;> exact h
theorem State.discardAt_wf (s : State) (c : Ctx) (acc : Acc) (va : Word) (h : s.MemWf) : (s.discardAt c acc va).MemWf := by
  unfold State.discardAt; split
  · exact s.discard_wf c acc _ h
  · exact h

end Sys2Proof.Machine
end

