-- ==== Sys2Proof/Tests/Slice0.lean ====
section
/-! SUPPORT. Tests: well-formedness, words of the spec and what they decode to, single steps on small states, and states that meet the
hypotheses of every obligation, clause by clause. Expected values are the spec's own examples and tables, or worked from its rules. -/

namespace Sys2Proof.Tests

set_option Elab.async false

open Sys2Proof Sys2Proof.Machine

/-! ## Well-formedness: a field that each check refuses beside one it takes (R234, R235, R237, R275) -/

theorem test_wf_widths :
    [Instr.wf (.sext 4 5 0 3), Instr.wf (.zext 4 5 0 3), Instr.wf (.zext 4 5 0 7), Instr.wf (.lds 4 5 7 0), Instr.wf (.sts 4 5 7 0),
     Instr.wf (.ldaq 4 5 7 0 0), Instr.wf (.ldaq 4 5 3 5 0), Instr.wf (.strl 4 5 7 0 0), Instr.wf (.strl 4 5 3 5 0)] = List.replicate 9 false
    ∧ [Instr.wf (.sext 4 5 0 2), Instr.wf (.zext 4 5 0 4), Instr.wf (.zext 4 5 0 6), Instr.wf (.lds 4 5 6 0), Instr.wf (.sts 4 5 6 0),
     Instr.wf (.ldaq 4 5 6 4 0), Instr.wf (.strl 4 5 6 4 0)] = List.replicate 7 true := by decide +kernel

theorem test_wf_buffers :
    [Instr.wf (.vld 1 2 3 0 0 5), Instr.wf (.vst 1 2 3 0 0 5), Instr.wf (.vldg 1 2 3 0 4), Instr.wf (.vsts 1 2 3 0 4), Instr.wf (.vldx 1 2 3 0 0),
     Instr.wf (.vstx 1 2 3 0 0), Instr.wf (.sld 1 2 3 0 0 4), Instr.wf (.sst 1 2 3 0 0 4), Instr.wf (.pfetch 2 3 0 0 6),
     Instr.wf (.brsetf 2 3 12 0), Instr.wf (.brgetf 4 3 12 0)] = List.replicate 11 false
    ∧ [Instr.wf (.vld 1 2 3 0 0 4), Instr.wf (.vst 1 2 3 0 0 4), Instr.wf (.vldg 1 2 3 0 3), Instr.wf (.vsts 1 2 3 0 3), Instr.wf (.vldx 1 2 3 1 0),
     Instr.wf (.vstx 1 2 3 7 0), Instr.wf (.sld 1 2 3 0 0 3), Instr.wf (.sst 1 2 3 0 0 3), Instr.wf (.pfetch 2 3 0 0 5),
     Instr.wf (.brsetf 2 3 11 0), Instr.wf (.brgetf 4 3 11 0)] = List.replicate 11 true := by decide +kernel

theorem test_wf_atomics :
    ([Instr.aadd 4 5 6 2 0 0, .aand 4 5 6 2 0 0, .aor 4 5 6 2 0 0, .axor 4 5 6 2 0 0, .amin 4 5 6 2 0 0, .amax 4 5 6 2 0 0, .aminn 4 5 6 2 0 0,
     .amaxn 4 5 6 2 0 0, .axchg 4 5 6 2 0 0, .afadd 4 5 6 0 5, .afaddh 4 5 6 2 0 0, .afmax 4 5 6 3 0 0, .acas 4 5 6 2 0 0, .acas 4 5 6 1 0 5,
     .fence 0 5].map Instr.wf).all (· == false) = true
    ∧ ([Instr.aadd 4 5 6 1 0 4, .aand 4 5 6 1 0 4, .aor 4 5 6 1 0 4, .axor 4 5 6 1 0 4, .amin 4 5 6 1 0 4, .amax 4 5 6 1 0 4, .aminn 4 5 6 1 0 4,
     .amaxn 4 5 6 1 0 4, .axchg 4 5 6 1 0 4, .afadd 4 5 6 0 4, .afaddh 4 5 6 1 0 4, .afmax 4 5 6 2 0 4, .acas 4 5 6 1 0 4, .fence 0 4].map
      Instr.wf).all id = true := by decide +kernel

theorem test_wf_vectors :
    ([Instr.vabs 1 2 0 4, .vneg 1 2 0 4, .vfadd 1 2 3 0 3, .vfsub 1 2 3 0 3, .vfmul 1 2 3 0 3, .vfma 1 2 3 0 3, .vfms 1 2 3 0 3, .vfnma 1 2 3 0 3,
     .vfmin 1 2 3 0 5, .vfmax 1 2 3 0 5, .vfabs 1 2 0 5, .vfneg 1 2 0 5, .vfrcp 1 2 0 3, .vfrsq 1 2 0 3, .vfceq 1 2 3 0 5, .vfclt 1 2 3 0 5,
     .vfcle 1 2 3 0 5, .vfclass 1 2 0 5, .vcvt 1 2 16 0 0 1, .vcvt 1 2 0 0 23 1, .vcvt 1 2 0 0 0 7, .vqblk 1 2 4 1 0, .vqblk 1 2 0 0 0, .vqblk 1 2 0 1 6,
     .vdqblk 1 2 8 1 2, .vbaddq 1 2 7 0, .vbaddq 1 2 0 0, .vbscal 2 0 0, .vbscal 2 1 6, .vfredadd 1 2 0 3, .vfredmax 1 2 0 3,
     .vfscanadd 1 2 0 3].map Instr.wf).all (· == false) = true
    ∧ ([Instr.vabs 1 2 0 3, .vneg 1 2 0 3, .vfadd 1 2 3 0 2, .vfsub 1 2 3 0 2, .vfmul 1 2 3 0 2, .vfma 1 2 3 0 2, .vfms 1 2 3 0 2, .vfnma 1 2 3 0 2,
     .vfmin 1 2 3 0 4, .vfmax 1 2 3 0 4, .vfabs 1 2 0 4, .vfneg 1 2 0 4, .vfrcp 1 2 0 2, .vfrsq 1 2 0 2, .vfceq 1 2 3 0 4, .vfclt 1 2 3 0 4,
     .vfcle 1 2 3 0 4, .vfclass 1 2 0 4, .vcvt 1 2 15 0 22 6, .vqblk 1 2 3 1 0, .vdqblk 1 2 7 1 2, .vbaddq 1 2 6 5, .vbscal 2 7 5,
     .vfredadd 1 2 0 2, .vfredmax 1 2 0 2, .vfscanadd 1 2 0 2].map Instr.wf).all id = true := by decide +kernel

theorem test_wf_others :
    ([Instr.jcrd 4 5 0 4, .ladr 6 4 0 0 6, .topk 6 5 4 7 0 1 0 0 0 0, .rfork 4 5 6 7 0 0, .send 4 5 0 9, .sendm 4 5 6 0 9, .halo 5 4 0 0,
      .tmplinv 1 0 1].map Instr.wf).all (· == false) = true
    ∧ ([Instr.jcrd 4 5 0 3, .ladr 6 4 0 0 5, .topk 6 5 4 7 0 1 0 0 1 0, .rfork 4 5 6 7 0 1, .send 4 5 0 8, .sendm 4 5 6 0 8, .halo 5 4 0 1,
      .tmplinv 0 0 1].map Instr.wf).all id = true := by decide +kernel

/-! ## Words of the spec's encoding tables and examples -/

/-- R243, R245 (their examples). -/
theorem test_decode_alu : ∀ x, decode 0x04C62000 x = .ok (.add 6 6 4 0) ∧ decode 0x04853340 x = .ok (.div 4 5 6 0)
    ∧ decode 0x04850281 x = .ok (.sext 4 5 0 1) ∧ decode 0x048532C3 x = .ok (.lea 4 5 6 0 3) ∧ decode 0x048533C0 x = .ok (.cmov 4 5 6 0)
    ∧ decode 0x08E00001 x = .ok (.addi 7 0 1) ∧ decode 0x08A5FFFF x = .ok (.addi 5 5 0xFFFF) ∧ decode 0x10C01000 x = .ok (.ori 6 0 0x1000)
    ∧ decode 0x1C850043 x = .ok (.shi 4 5 1 3) ∧ decode 0x20801234 x = .ok (.lih 4 0x1234) ∧ decode 0x24845678 x = .ok (.lix 4 4 0x5678) :=
  fun _ => ⟨rfl, rfl, rfl, rfl, rfl, rfl, rfl, rfl, rfl, rfl, rfl⟩

/-- R246, R247, R250, R252, R258 to R261 (their tables and the program of 10_encoding). -/
theorem test_decode_control : ∀ x, decode 0x2CA0FFFA x = .ok (.bne 5 0 0xFFFA) ∧ decode 0x3C85FFFF x = .ok (.bgen 4 5 0xFFFF)
    ∧ decode 0x40000003 x = .ok (.j 3) ∧ decode 0x47FFFFFE x = .ok (.jl 0x3FFFFFE) ∧ decode 0x48010000 x = .ok (.jlr 0 1 0)
    ∧ decode 0xC0862010 x = .ok (.csrset 4 6 0x010) ∧ decode 0xC0A73010 x = .ok (.csrclr 5 7 0x010) ∧ decode 0xC000507F x = .ok (.trap 0x7F)
    ∧ decode 0xC0006000 x = .ok .eret ∧ decode 0xC0008003 x = .ok (.haltg 3) ∧ decode 0xC4042800 x = .ok (.rkset 4 5 0)
    ∧ decode 0xC4042820 x = .ok (.rktrn 4 5 0) ∧ decode 0xC4050040 x = .ok (.tlbinv 5 0) ∧ decode 0xC4000060 x = .ok (.ptsync 0)
    ∧ decode 0xC4C42880 x = .ok (.part 6 4 5 0) ∧ decode 0xC4C400A0 x = .ok (.preemptSave 6 4 0) ∧ decode 0xC4C400A1 x = .ok (.preemptRest 6 4 0) :=
  fun _ => ⟨rfl, rfl, rfl, rfl, rfl, rfl, rfl, rfl, rfl, rfl, rfl, rfl, rfl, rfl, rfl, rfl, rfl⟩

/-- R282, R285, R288, R290, R292 to R295 (their examples). -/
theorem test_decode_memory : ∀ x, decode 0x50856008 x = .ok (.lds 4 5 3 8) ∧ decode 0x54856008 x = .ok (.sts 4 5 3 8)
    ∧ decode 0x58E86C00 x = .ok (.ldaq 7 8 3 3 0) ∧ decode 0x5C886C00 x = .ok (.strl 4 8 3 3 0) ∧ decode 0x60245062 x = .ok (.vld 1 2 5 3 0 2)
    ∧ decode 0x64684012 x = .ok (.vst 3 4 4 0 2 2) ∧ decode 0x68247002 x = .ok (.vldg 1 2 7 0 2) ∧ decode 0x702A6045 x = .ok (.vldx 1 5 6 2 0)
    ∧ decode 0x80853203 x = .ok (.aadd 4 5 6 1 0 3) ∧ decode 0x80053203 x = .ok (.aadd 0 5 6 1 0 3) ∧ decode 0x80053564 x = .ok (.afmax 0 5 6 2 0 4)
    ∧ decode 0x84853201 x = .ok (.acas 4 5 6 1 0 1) ∧ decode 0x88000003 x = .ok (.fence 0 3) ∧ decode 0x88000060 x = .ok (.efenc 0)
    ∧ decode 0x8C450000 x = .ok (.brld 2 5 0) ∧ decode 0x8C831060 x = .ok (.brgetf 4 3 2 0) ∧ decode 0x90022025 x = .ok (.pfetch 1 2 1 0 5)
    ∧ decode 0x94800006 x = .ok (.qrd 4 0 6) ∧ decode 0x94040027 x = .ok (.qwr 4 0 7) :=
  fun _ => ⟨rfl, rfl, rfl, rfl, rfl, rfl, rfl, rfl, rfl, rfl, rfl, rfl, rfl, rfl, rfl, rfl, rfl, rfl, rfl⟩

/-- R268 to R280 (the program of 12_vector and the tables of R236). -/
theorem test_decode_vector : ∀ x, decode 0x98221870 x = .ok (.vadds 1 2 3 0 0) ∧ decode 0x98244882 x = .ok (.vcmpeq 1 4 9 0 2)
    ∧ decode 0x9822199F x = .ok (.vsel 1 2 3 1 7) ∧ decode 0x9C611000 x = .ok (.vfadd 3 1 2 0 0) ∧ decode 0x9C22181A x = .ok (.vfma 1 2 3 0 2)
    ∧ decode 0x9C22017C x = .ok (.vfclass 1 2 1 4) ∧ decode 0xA0224051 x = .ok (.vcvt 1 2 8 0 10 1) ∧ decode 0xA4221900 x = .ok (.vqblk 1 2 3 1 0)
    ∧ decode 0xA4220210 x = .ok (.vbaddq 1 2 2 0) ∧ decode 0xA8A43222 x = .ok (.vcomp 5 4 6 2 2) ∧ decode 0xA8C00032 x = .ok (.viota 6 0 0 2)
    ∧ decode 0xAC220119 x = .ok (.vfredadd 1 2 1 1) ∧ decode 0xB0410018 x = .ok (.knot 2 1) ∧ decode 0xB1220028 x = .ok (.kget 9 2)
    ∧ decode 0xB4242806 x = .ok (.vrand 1 4 5 0) ∧ decode 0xB4040008 x = .ok (.vlive 4) :=
  fun _ => ⟨rfl, rfl, rfl, rfl, rfl, rfl, rfl, rfl, rfl, rfl, rfl, rfl, rfl, rfl, rfl, rfl⟩

/-- R322 to R330 (their examples). -/
theorem test_decode_task : ∀ x, decode 0xB8853000 x = .ok (.fork 4 5 6 0) ∧ decode 0xB8853006 x = .ok (.forkP 4 5 6 0 2)
    ∧ decode 0xB8000020 x = .ok (.done 0 0) ∧ decode 0xB8001020 x = .ok (.done 2 0) ∧ decode 0xB8000040 x = .ok (.yield 0)
    ∧ decode 0xB8853060 x = .ok (.jcinit 4 5 6 0) ∧ decode 0xB80400A0 x = .ok (.jcwait 4 0) ∧ decode 0xB88500C3 x = .ok (.jcrd 4 5 0 3)
    ∧ decode 0xB8850160 x = .ok (.migr 4 5 0) :=
  fun _ => ⟨rfl, rfl, rfl, rfl, rfl, rfl, rfl, rfl, rfl⟩

/-- R306, R331, R356 (the words of their examples). -/
theorem test_decode_loom : decode 0xE008531C 0x41000000 = .ok (.lmm 4 5 6 7 0 8 1 0 0) ∧ decode 0xE048531C 0 = .ok (.lmmg 4 5 6 7 0 0 0 0)
    ∧ decode 0xE088531C 0x40000000 = .ok (.lmms 4 5 6 7 0 8 0 0 0) ∧ decode 0xE0CA6000 0 = .ok (.lbld 5 6 0 0)
    ∧ decode 0xE1000000 0 = .ok (.lbswp 0) ∧ decode 0xE1480000 0x01000000 = .ok (.laini 4 0 0 1) ∧ decode 0xE18C4000 1 = .ok (.ladr 6 4 0 0 1)
    ∧ decode 0xE1C80000 0x01000000 = .ok (.lsemi 4 0 1) ∧ decode 0xE2080000 0 = .ok (.lstat 4 0)
    ∧ decode 0xE40C521C 4 = .ok (.topk 6 5 4 7 0 0 0 1 0 0) ∧ decode 0xE44E4000 0 = .ok (.rcsnap 7 4 0) ∧ decode 0xE4885000 0 = .ok (.rcrd 4 5 0 0)
    ∧ decode 0xE808531C 16 = .ok (.rfork 4 5 6 7 0 16) ∧ decode 0xE8480000 0 = .ok (.mfork 4 0) :=
  ⟨rfl, rfl, rfl, rfl, rfl, rfl, rfl, rfl, rfl, rfl, rfl, rfl, rfl, rfl⟩

/-- R334, R341, R352, R361, R369 (the words of their examples). -/
theorem test_decode_engines : decode 0xEC085000 2 = .ok (.send 4 5 0 2) ∧ decode 0xEC485300 2 = .ok (.sendm 4 5 6 0 2)
    ∧ decode 0xEC88531C 0 = .ok (.rread 4 5 6 7 0) ∧ decode 0xECCA4000 1 = .ok (.halo 5 4 0 1) ∧ decode 0xED08531C 0 = .ok (.rwrite 4 5 6 7 0)
    ∧ decode 0xF00A0000 0 = .ok (.shdw 5 0) ∧ decode 0xF04A0000 0 = .ok (.publ 5 0) ∧ decode 0xF08A0000 0 = .ok (.disc 5 0)
    ∧ decode 0xF0C85000 0 = .ok (.cpyt 4 5 0) ∧ decode 0xF1085000 0 = .ok (.wmrd 4 5 0) ∧ decode 0xF14C5000 0 = .ok (.digest 6 5 0)
    ∧ decode 0xF1880000 0 = .ok (.tmplinv 4 0 0) ∧ decode 0xF1800000 1 = .ok (.tmplinv 0 0 1) ∧ decode 0xF4085300 0 = .ok (.spec 4 5 6 0)
    ∧ decode 0xF4480000 0 = .ok (.hrel 4 0) ∧ decode 0xF4C80000 0 = .ok (.hcall 4 0) ∧ decode 0xF5085000 0 = .ok (.hstat 4 5 0)
    ∧ decode 0xF8085000 0 = .ok (.stgdef 4 5 0) ∧ decode 0xF8885300 0 = .ok (.stgend 4 5 6 0) ∧ decode 0xF8CC4280 0 = .ok (.stgsnap 6 4 5 0)
    ∧ decode 0xF9085000 0 = .ok (.stgseq 4 5 0) ∧ decode 0xFC0A4000 0 = .ok (.glnch 5 4 0) ∧ decode 0xFC480000 0 = .ok (.gres 4 0)
    ∧ decode 0xFC885000 0 = .ok (.gstat 4 5 0) :=
  ⟨rfl, rfl, rfl, rfl, rfl, rfl, rfl, rfl, rfl, rfl, rfl, rfl, rfl, rfl, rfl, rfl, rfl, rfl, rfl, rfl, rfl, rfl, rfl, rfl⟩

/-- R238 and the table of 10_encoding: words that raise cause 0x01. -/
theorem test_decode_refuses : ∀ x, decode 0x00000000 x = .error .major ∧ decode 0x4C000000 x = .error .major
    ∧ decode 0x04C623E0 x = .error .selector ∧ decode 0x04C62001 x = .error .field ∧ decode 0x5086E000 x = .error .field
    ∧ decode 0x80853205 x = .error .field ∧ decode 0x9C611005 x = .error .field ∧ decode 0xA0224091 x = .error .field :=
  fun _ => ⟨rfl, rfl, rfl, rfl, rfl, rfl, rfl, rfl⟩

/-! ## Single steps on small states -/

/-- Partition 0 holds die 0; strand 0 of core 0 is ready there at master level, at 0x100 of its private alias. -/
def s0 : State :=
  { State.reset with
    parts := [(0, { Part.reset with mask := 1 })], dies := [(0, { Die.reset with frames := 16 })],
    strands := [(0, { Strand.reset with st := .ready, level := 2, resident := true, pc := 0x100 })] }
/-- A state with another strand 0. -/
def me (f : Strand → Strand) (s : State) : State := s.setMe (f s.me)
/-- Another partition 0. -/
def pt (f : Part → Part) (s : State) : State := s.modPart 0 f
/-- Another core 0. -/
def co (f : Core → Core) (s : State) : State := s.modCore 0 f
def r (d : BitVec 5) (x : Word) (s : State) : State := s.ws d x
def v (d : BitVec 5) (x : VReg) (s : State) : State := s.wv d x
def k (d : BitVec 3) (x : Word) (s : State) : State := s.wk d x
/-- A number in local memory of core 0. -/
def loc (off n x : Nat) (s : State) : State := { s with mem := Memory.writeN s.mem (coreAddr 0 off) n x }
/-- A number in off-package memory. -/
def far (pa n x : Nat) (s : State) : State := { s with mem := Memory.writeN s.mem pa n x }
/-- A buffer record (R82). -/
def brec (base extent fmt space : Nat) (dim0 dim1 stride0 stride1 bounds : Nat := 0) : BRec :=
  BitVec.ofNat 256 (base + extent * 2 ^ 56 + stride0 * 2 ^ 88 + stride1 * 2 ^ 120 + dim0 * 2 ^ 152 + dim1 * 2 ^ 168 + fmt * 2 ^ 184
    + bounds * 2 ^ 192 + space * 2 ^ 201)
def b (d : BitVec 4) (x : BRec) (s : State) : State := s.wb d x
/-- A next state with a property. -/
def goes (o : Out1) (f : State → Bool) : Bool := match o with | .next t => f t | _ => false

/-- R243: 2^63 − 1 plus 1 wraps; the register it writes is the one it reads. -/
theorem test_add_wraps : goes (exec (.add 1 1 2 0) (r 1 0x7FFFFFFFFFFFFFFF (r 2 1 s0))) (fun t => t.rs 1 = 0x8000000000000000 && t.me.pc = 0x104) = true := by
  decide +kernel
/-- R17: s0 discards a write. -/
theorem test_add_zero_register : goes (exec (.add 0 1 1 0) (r 1 5 s0)) (fun t => t.rs 0 = 0 && t.me.pc = 0x104) = true := by decide +kernel
/-- R244: −2^63 by −1. -/
theorem test_div_overflow : goes (exec (.div 3 1 2 0) (r 1 0x8000000000000000 (r 2 0xFFFFFFFFFFFFFFFF s0))) (fun t => t.rs 3 = 0x8000000000000000) = true
    ∧ goes (exec (.rem 3 1 2 0) (r 1 0x8000000000000000 (r 2 0xFFFFFFFFFFFFFFFF s0))) (fun t => t.rs 3 = 0) = true := by decide +kernel
/-- R244, R375: a zero divisor, cause 0x0A with the dividend in TVAL, to the master vector. -/
theorem test_div_by_zero :
    goes (exec (.divn 3 1 2 0) (co (fun c => { c with cmtvec := 0x2000 }) (r 1 7 s0)))
      (fun t => t.me.pc = 0x2000 && t.me.csr.tcause = 0x0A && t.me.csr.tval = 7 && t.me.csr.tpc = 0x100 && t.me.csr.tstat = 0x20) = true := by
  decide +kernel
/-- R246: a branch of −6 words. -/
theorem test_bne_back : goes (exec (.bne 5 0 0xFFFA) (r 5 1 s0)) (fun t => t.me.pc = 0xE8) = true := by decide +kernel
/-- R247: the target comes from a before the link is written to it. -/
theorem test_jlr_same_register : goes (exec (.jlr 1 1 0xFFFF) (r 1 0x200 s0)) (fun t => t.me.pc = 0x1FC && t.rs 1 = 0x104) = true := by decide +kernel
/-- R282: a byte is sign-extended by code 0 and zero-extended by code 4, at the last byte of the data half. -/
theorem test_lds_extends :
    goes (exec (.lds 4 2 0 0x1FFF) (r 2 0x20000 (loc 0x1FFFF 1 0x80 s0))) (fun t => t.rs 4 = 0xFFFFFFFFFFFFFF80) = true
    ∧ goes (exec (.lds 4 2 4 0x1FFF) (r 2 0x20000 (loc 0x1FFFF 1 0x80 s0))) (fun t => t.rs 4 = 0x80) = true := by decide +kernel
/-- R283: a misaligned load, cause 0x03 with the address. -/
theorem test_lds_misaligned :
    goes (exec (.lds 4 2 3 4) (co (fun c => { c with cmtvec := 0x2000 }) (r 2 0x1000 s0))) (fun t => t.me.csr.tcause = 3 && t.me.csr.tval = 0x1004) = true := by
  decide +kernel
/-- R113, R117: a store stands in the outbox until the drain step, which moves it. -/
theorem test_sts_drains :
    goes (exec (.sts 3 2 2 0) (r 2 0x1000 (r 3 0x1122334455667788 s0))) (fun t => t.me.out.length = 1
      && goes (exec (.drain 0 0 true) t) (fun u => u.me.out = [] && Memory.readN u.mem (coreAddr 0 0x1000) 8 = 0x55667788)) = true := by decide +kernel
/-- R268: the examples of `vadds` and `vmulh`. -/
theorem test_vadds_vmulh :
    goes (exec (.vadds 1 2 3 0 0) (v 2 100 (v 3 50 s0))) (fun t => (t.rv 1).extractLsb' 0 8 = 127) = true
    ∧ goes (exec (.vadds 1 2 3 0 0) (v 2 0x9C (v 3 0xCE s0))) (fun t => (t.rv 1).extractLsb' 0 8 = 0x80) = true
    ∧ goes (exec (.vadds 1 2 3 0 4) (v 2 200 (v 3 100 s0))) (fun t => (t.rv 1).extractLsb' 0 8 = 255) = true
    ∧ goes (exec (.vmulh 1 2 3 0 1) (v 2 0xFFFE (v 3 3 s0))) (fun t => (t.rv 1).extractLsb' 0 16 = 0xFFFF) = true := by decide +kernel
/-- R270: the seed of 1/√2 is 0.70703125. -/
theorem test_vfrsq_seed : goes (exec (.vfrsq 1 2 0 0) (v 2 0x40000000 s0)) (fun t => (t.rv 1).extractLsb' 0 32 = 0x3F350000) = true := by decide +kernel
/-- R264: an inactive lane keeps its value. -/
theorem test_vadd_masked : goes (exec (.vadd 1 2 3 1 2) (k 1 1 (v 1 (7 <<< 32) (v 2 5 (v 3 6 s0))))) (fun t => t.rv 1 = (7 <<< 32) ||| 11) = true := by
  decide +kernel
/-- R278: the program of 12_vector: every lane is zero but 2, 6 and 13. -/
theorem test_vcmpeq_knot :
    let lanes : VReg := BitVec.ofNat 512 (((List.range 16).map fun i => if i = 2 ∨ i = 6 ∨ i = 13 then 2 ^ (32 * i) else 0).sum)
    goes (exec (.vcmpeq 1 4 9 0 2) (v 4 lanes s0)) (fun t => t.rk 1 = 0xDFBB && goes (exec (.knot 2 1) t) (fun u => u.rk 2 = 0xFFFFFFFFFFFF2044)) = true := by
  decide +kernel
/-- The worked example of 11_scalar: the old value of FCTL goes to s4, and csrclr clears bit 11. -/
theorem test_csr_rounding_mode :
    goes (exec (.csrset 4 6 0x010) (r 6 0x1000 (me (fun x => { x with csr := { x.csr with fctl := 0x801 } }) s0)))
      (fun t => t.rs 4 = 0x801 && t.me.csr.fctl = 0x1801
        && goes (exec (.csrclr 5 7 0x010) (r 7 0x800 t)) (fun u => u.rs 5 = 0x1801 && u.me.csr.fctl = 0x1001)) = true := by decide +kernel
/-- R254, R376: ERET goes back to TPC at the saved level and restores `ie`. -/
theorem test_eret :
    goes (exec .eret (me (fun x => { x with csr := { x.csr with tpc := 0x300, tstat := 0x12 } }) s0))
      (fun t => t.me.pc = 0x300 && t.me.level = 1 && t.me.csr.tstat = 0x13) = true := by decide +kernel
/-- R290: the old value is zero-extended in d, the new one in memory, in one step. -/
theorem test_aadd_32 : goes (exec (.aadd 4 5 6 0 0 0) (r 5 0x1000 (r 6 2 (loc 0x1000 8 0x1FFFFFFFF s0))))
    (fun t => t.rs 4 = 0xFFFFFFFF && Memory.readN t.mem (coreAddr 0 0x1000) 8 = 0x100000001) = true := by decide +kernel
/-- R226, R295: words go through q7 in order. -/
theorem test_qwr : goes (exec (.qwr 4 0 7) (r 4 9 s0)) (fun t => t.me.q.get 7 = [9] && t.me.pc = 0x104) = true := by decide +kernel
/-- R325, R326: a cell armed with 2 holds 1 after a decrement of 1. -/
theorem test_join_cell : goes (exec (.jcinit 4 5 0 0) (r 4 3 (r 5 2 s0))) (fun t => (t.cell 0 3).count = 2
    && goes (exec (.jcdec 6 7 0 0) (r 6 0x1003 (r 7 1 t))) (fun u => (u.cell 0 3).count = 1)) = true := by decide +kernel
/-- R231: a long instruction is eight bytes. -/
theorem test_lsemi_length : goes (exec (.lsemi 4 0 1) (r 4 7 s0)) (fun t => t.me.pc = 0x108 && t.me.weave.get 1 = 7) = true := by decide +kernel
/-- A first step after reset fetches the placed word and runs it (log 5). -/
theorem test_first_step : goes (step (State.reset.withFetchWord 32 0x08E00001)) (fun t => t.me.s.get 7 = 1 && t.me.pc = 0x1004) = true := by decide +kernel

/-! ## States that meet the hypotheses of the obligations, clause by clause

Each list holds, for each clause, its hypotheses on a concrete state and operands, at a boundary where there is one. -/

def okE {ε α : Type} (e : Except ε α) (f : α → Bool) : Bool := match e with | .ok a => f a | .error _ => false
def errE {ε α : Type} (e : Except ε α) (f : ε → Bool) : Bool := match e with | .ok _ => false | .error a => f a
def okC {α : Type} (e : Checked α) (f : α → Bool) : Bool := match e with | .ok a => f a | _ => false
def trapC {α : Type} (e : Checked α) : Bool := match e with | .trap _ => true | _ => false
def okR (e : Route) (f : Part1 → Bool) : Bool := match e with | .ok p _ => f p | _ => false
def faultR (e : Route) : Bool := match e with | .fault _ => true | _ => false
def invalidR (e : Route) : Bool := match e with | .invalid _ => true | _ => false
/-- The context of strand 0's accesses. -/
def cx (s : State) : Ctx := s.ctx s.cur
/-- Mesh address of an offset of core 0's slot. -/
def slot0 (off : Nat) : Word := BitVec.ofNat 64 (coreAddr 0 off)
/-- Apprentice and journeyman. -/
def s1 : State := me (fun x => { x with level := 1 }) s0
def sA : State := me (fun x => { x with level := 0 }) s0
/-- A rank table of four entries in the pool of cluster 0: rank 1 names strand 0 of core 0, rank 2 strand 0 of core 1, rank 3 is in
transit to strand 1 of core 0. -/
def table : Nat := poolAddr 0 0x10000
def sR (s : State) : State :=
  far (table + 4) 4 (placeEntry 1 0).toNat (far (table + 8) 4 (placeEntry 1 16).toNat (far (table + 12) 4 (placeEntry 2 1).toNat
    (me (fun x => { x with rank := 1 }) (pt (fun p => { p with rtbase := BitVec.ofNat 64 table, rtlim := 4 }) s))))

/-- A page of a format at 0x100000, readable and writable, RC, at 2^32 off the package; the scales are at 2^28. -/
def page (fmt : Nat) : TlbEntry :=
  ⟨0, 0x100000, false, 0x20000, BitVec.ofNat 64 (0xB3 + 2 ^ 17 + fmt * 2 ^ 19 + 0x40000 * 2 ^ 32), 0, 0⟩
def sV (fmt : Nat) (s : State) : State := pt (fun p => { p with sfreg := 0x1000010000000 }) (co (fun c => { c with tlb := [page fmt] }) s)

theorem meets_AluResults : (r 1 5 s0).rs 1 ≠ 0 ∧ s0.rs 1 = 0 := by decide +kernel

theorem meets_Division :
    let s := r 2 0xFFFFFFFFFFFFFFFF (r 1 0x8000000000000000 s0)
    let f := fun (w : IWord) => ((w.extractLsb' 26 6).toNat, (w.extractLsb' 11 5).toNat, (w.extractLsb' 5 6).toNat, (w.extractLsb' 0 3).toNat)
    ([s.rs 1 = BitVec.intMin 64 ∧ s.rs 2 = BitVec.allOnes 64, s0.rs 2 = 0, f 0x04C62001 = (1, 4, 0, 1), f 0x04850283 = (1, 0, 20, 3), f 0x048502A3 = (1, 0, 21, 3),
      f 0x048502A7 = (1, 0, 21, 7), f 0x04850AA4 = (1, 1, 21, 4), f 0x048532E1 = (1, 6, 23, 1)] : List Bool).all id = true := by decide +kernel

theorem meets_Immediates :
    let f := fun (w : IWord) => ((w.extractLsb' 26 6).toNat, (w.extractLsb' 16 5).toNat, (w.extractLsb' 8 8).toNat)
    f 0x1C850143 = (7, 5, 1) ∧ f 0x20811234 = (8, 1, 0x12) := by decide +kernel

theorem meets_ControlTransfers :
    let lt := r 1 0xFFFFFFFFFFFFFFFF s0
    let gt := r 2 0xFFFFFFFFFFFFFFFF s0
    ([(s0.me.pc + BitVec.ofInt 64 (4 * (0x8000 : BitVec 16).toInt)).toNat % 4 = 0,
      ((me (fun x => { x with pc := 2 }) s0).me.pc + BitVec.ofInt 64 (4 * (0x7FFF : BitVec 16).toInt)).toNat % 4 ≠ 0, s0.rs 1 = s0.rs 2, lt.rs 1 ≠ lt.rs 2, (lt.rs 1).toInt < (lt.rs 2).toInt, ¬ (gt.rs 1).toInt < (gt.rs 2).toInt,
      (gt.rs 2).toInt ≤ (gt.rs 1).toInt, ¬ (lt.rs 2).toInt ≤ (lt.rs 1).toInt, (gt.rs 1).toNat < (gt.rs 2).toNat, ¬ (lt.rs 1).toNat < (lt.rs 2).toNat,
      (lt.rs 2).toNat ≤ (lt.rs 1).toNat, ¬ (gt.rs 2).toNat ≤ (gt.rs 1).toNat,
      (s0.me.pc + BitVec.ofInt 64 (4 * (0x2000000 : BitVec 26).toInt)).toNat % 4 = 0,
      ((me (fun x => { x with pc := 2 }) s0).me.pc + BitVec.ofInt 64 (4 * (1 : BitVec 26).toInt)).toNat % 4 ≠ 0,
      (s0.rs 1 + BitVec.ofInt 64 (4 * (0x8000 : BitVec 16).toInt)).toNat % 4 = 0,
      ((r 1 2 s0).rs 1 + BitVec.ofInt 64 (4 * (0x7FFF : BitVec 16).toInt)).toNat % 4 ≠ 0] : List Bool).all id = true := by decide +kernel

/-- An LBSWP is under way; a frame register of strand 0 waits for a value; core 0 is gated. -/
def swapping (s : State) : State := { s with cmds := [s.newCmd .lbswp 0] }
def awaited (s : State) : State := { s.modStrand 0 fun x => { x with tags := [(.s 4, 9)] } with fresh := 10 }
/-- The same of strand 1. -/
def awaited1 (s : State) : State := { s.modStrand 1 fun x => { x with tags := [(.s 4, 9)] } with fresh := 10 }
def asleep (s : State) : State := co (fun c => { c with gate := 2 }) s
/-- A scalar load of 8 bytes at s1. -/
def loads (s : State) (f : State → Part1 → Bool) : Bool :=
  okR (s.routeScalar (cx s) .load (s.rs 1 + (0 : BitVec 13).signExtend 64) 8) fun p => f s p

theorem meets_ScalarLoads :
    let s := r 1 0x20000 s0
    let own := r 1 (slot0 0x1000) s0
    ([s.Settled ∧ inLocal (s.rs 1 + (0x1FF8 : BitVec 13).signExtend 64) 8 ∧ (s.rs 1 + (0x1FF8 : BitVec 13).signExtend 64).toNat % 8 = 0,
      s.Settled ∧ inLocal (s.rs 1 + (0x3FF : BitVec 10).signExtend 64) 1,
      s.Settled ∧ okR (s.routeScalar (cx s) .load (s.rs 1 + (0x1FF8 : BitVec 13).signExtend 64) 8) fun p => s.Takes p && !ownPort 0 p,
      own.Settled ∧ okR (own.routeScalar (cx own) .load (own.rs 1 + (0 : BitVec 13).signExtend 64) 8) fun p => own.Takes p && ownPort 0 p,
      own.Settled ∧ okR (own.routeScalar (cx own) .load (own.rs 1 + (8 : BitVec 10).signExtend 64) 4) fun p => own.Takes p && ownPort 0 p,
      (let s := swapping (r 1 (slot0 0x300000) s0); (s.routeScalar (cx s) .load (s.rs 1 + (0 : BitVec 13).signExtend 64) 8 == .wait)), loads (awaited (r 1 (slot0 0x100020) s0)) fun s p => !s.sleeps p && s.frameUnknown s.fresh p,
      loads (r 1 (slot0 0x1000) (asleep s0)) fun s p => s.sleeps p] : List Bool).all id = true := by
  decide +kernel

theorem meets_ScalarStores :
    let s := r 1 0x20000 s0
    let fr := r 1 (slot0 0x280208) s0
    let at_ := fun (s : State) f => okR (s.routeScalar (cx s) .store (s.rs 1 + (0 : BitVec 13).signExtend 64) 8) f
    ([s.Settled ∧ okR (s.routeScalar (cx s) .store (s.rs 1 + (0x1FF8 : BitVec 13).signExtend 64) 8) fun p => !special p && !ownPort 0 p && !s.stagingBusy p,
      s.Settled ∧ okR (s.routeScalar (cx s) .store (s.rs 1 + (0x3F8 : BitVec 10).signExtend 64) 8) fun p => !special p && !ownPort 0 p && !s.stagingBusy p,
      fr.Settled ∧ at_ fr fun p => special p && fr.Takes p && !fr.enableHeld p && okE (fr.specialStore p 5 fr.me.level) fun _ => true,
      (let u := awaited1 (r 1 (slot0 0x101020) s0); u.Settled ∧ at_ u fun p => special p && u.frameUnknown u.fresh p && okE (u.specialStore p 5 2) fun _ => true),
      at_ (r 1 (slot0 0x100180) s0) fun p => special p && errE (s0.specialStore p 5 2) fun _ => true] : List Bool).all id = true := by
  decide +kernel

theorem meets_AccessTraps :
    let s := r 1 0x20000 s0
    let bad := 1#256 <<< 203
    let R := brec 0x1000 4 0 1
    let tV := sV 2 s
    ([s.unsorted (cx s) (s.rs 1) = true, s.unsorted (cx s) (s.rs 1 + (0x1FFF : BitVec 13).signExtend 64) = false,
      (s.rs 1 + (0x1FFF : BitVec 13).signExtend 64).toNat % 8 ≠ 0,
      s.unsorted (cx s) (s.rs 1 + (0x3FF : BitVec 10).signExtend 64) = false, (s.rs 1 + (0x3FF : BitVec 10).signExtend 64).toNat % 2 ≠ 0,
      recRefused bad false, !recRefused R false, okC (s.unitOf (cx s) R 2 (unitOffsets (s.rs 0) 0)) (· = 4),
      trapC (tV.unitOf (cx tV) (brec 0x100000 4 31 0) 5 (unitOffsets (tV.rs 0) 0)),
      trapC (s.checkUnits (cx s) R 4 2 .load (unitOffsets (s.rs 0) 0 4)), trapC (s.checkUnits (cx s) R 4 2 .store (unitOffsets (s.rs 0) 0 4))]
        : List Bool).all id = true := by decide +kernel

theorem meets_AccessTraps_pages :
    let none_ := r 1 0x100000 s0
    let entry := fun (lo : Nat) => co (fun c => { c with tlb := [{ page 2 with lo := BitVec.ofNat 64 (lo + 2 ^ 17 + 2 * 2 ^ 19 + 0x40000 * 2 ^ 32) }] }) none_
    let sealed := co (fun c => { c with tlb := [{ page 2 with lo := (page 2).lo ||| 0x4000000, key := 8 }] }) none_
    let sT1 := far 0x1000000 8 (1 + 0x401 * 2 ^ 32) (pt (fun p => { p with ptreg := 0x0001000001000000, ptroot := 0x1000000 }) none_)
    let denies := fun (acc : Acc) (lvl : BitVec 2) (e : TlbEntry) => decide (lvl = 0 ∧ Pte.appr e.lo = false) || decide (acc = .load ∧ Pte.r e.lo = false)
      || decide (acc = .store ∧ Pte.w e.lo = false)
    ([vaRegion (none_.rs 1) = .translated ∧ none_.unsorted (cx none_) (none_.rs 1) = false ∧ none_.cached 0 0 0x100000 = none,
      none_.walk 0 0x100000 = .fault ∨ none_.walk 0 0x100000 = .invalid, sT1.walk 0 0x100000 = .invalid,
      ((entry 0xA3).cached 0 0 0x100000).any (denies .load 2),
      ((entry 0x93).cached 0 0 0x100000).any (denies .store 2), ((entry 0x33).cached 0 0 0x100000).any fun e => denies .load 0 e && !denies .load 1 e,
      ((match sealed.translate (cx sealed) .store 0x100000 with | .ok e => Pte.sealed e.lo && decide (e.key ∉ sealed.me.heldKeys) | _ => false) : Bool)]
        : List Bool).all id = true := by decide +kernel

theorem meets_AccessTraps_windows :
    let named := fun (s : State) (off : Nat) (f : Region → Bool) =>
      vaRegion (slot0 off) = .mesh && !s.unsorted (cx s) (slot0 off) && (slot0 off).toNat % 8 = 0 && f (meshRegion (slot0 off).toNat)
    let search := s0.modCluster 0 fun c => { c with sacfg := 0x102 }
    ([named s0 0x100020 fun x => x == .frame 0 0x20, named sA 0x100020 fun x => x == .frame 0 0x20, sA.me.level = 0 ∧ s1.me.level ≠ 2,
      named s0 0x200060 fun x => x == .cell 0 3 0, named s1 0x280208 fun x => x == .ctl 0 0x208, named s1 0x38000200 fun x => x == .clusterCtl 0 0x200,
      named search 0x30020000 (fun x => x == .pool 0 0x20000) ∧ (search.cluster 0).searching 0x20000 ∧ (search.cluster 0).searching 0x5FFF8,
      named (sR s0) 0x30010000 (fun x => x == .pool 0 0x10000) ∧ (sR s0).myPart.inNames table ∧ (sR s0).myPart.inNames (table + 0x400F8)
        ∧ (sR s0).myPart.inNames (table + 0x40100) = false,
      accessBits 6 / 8 = 4 ∧ accessBits 3 / 8 = 8, (gatewayPort 0).isSome ∧ (gatewayPort 1).isNone] : List Bool).all id = true := by decide +kernel

theorem meets_AccessTraps_units :
    let fails := fun (s : State) (R : BRec) (cls : Nat) (acc : Acc) (offs : Nat → List Int) (k : Nat) =>
      okC (s.unitOf (cx s) R cls offs) fun u =>
        let at_ := fun (i : Nat) => s.bmUnit (cx s) R ((offs u).getD i 0) u cls acc
        decide (k < (offs u).length) && (match at_ k with | .invalid _ | .fault _ => true | _ => false)
          && (List.range k).all fun i => match at_ i with | .ok _ _ _ | .dropped => true | _ => false
    let W := brec 0x1FFF0 0x200 2 1
    let D := brec 0x1FFE0 0x200 3 1
    let far_ := v 3 (8 * 2 ^ 64 + 64 * 2 ^ 128) s0
    let B := brec 0x10FFF0 0x200 16 0
    let t := sV 16 s0
    let one := fun (i : Int) (u : Nat) => [i * u]
    ([fails s0 W 2 .load (unitOffsets (s0.rs 0) 0) 4, fails s0 W 2 .store (unitOffsets (s0.rs 0) 0) 4,
      fails far_ D 3 .load (fun _ => laneOffsets (far_.rv 3) 3) 2, fails far_ D 3 .store (fun _ => laneOffsets (far_.rv 3) 3) 2,
      fails t B 5 .load (unitOffsets (t.rs 0) 0) 1, fails t B 5 .store (unitOffsets (t.rs 0) 0) 1,
      fails s0 W 2 .load (one 4) 0, fails s0 W 2 .store (one 4) 0,
      (let s := sV 2 s0; trapC (s.unitOf (cx s) (brec 0x110000 4 31 0) 5 (unitOffsets (s.rs 0) 0)))] : List Bool).all id = true := by decide +kernel

/-- Every part of the checked units stands where a statement asks. -/
def unitsAre (s : State) (R : BRec) (cls : Nat) (acc : Acc) (offs : Nat → List Int) (isStore merge : Bool) (f : Part1 → Bool) : Bool :=
  okC (s.unitOf (cx s) R cls offs) fun u => okC (s.checkUnits (cx s) R u cls acc (offs u)) fun l => (s.unitParts R u l isStore merge).all f

theorem meets_BufferAccess :
    let R := brec 0x1000 0x200 2 1
    let Q := brec 0x100000 0x200 16 0
    let s := b 1 R s0
    let t := sV 16 s0
    let own := fun p => !ownPort 0 p && s.Takes p
    let out := fun p => !ownPort 0 p && !special p && !s.stagingBusy p
    ([s.Settled ∧ t.Settled, !recRefused R false, !recRefused Q false,
      unitsAre s R 2 .load (unitOffsets (s.rs 0) 0) false true own, unitsAre s (brec 0x1000 0x200 0 1) 0 .load (unitOffsets (s.rs 0) 7) false true own,
      unitsAre s (brec 0x1000 0x200 3 1) 3 .load (fun _ => laneOffsets (s.rv 0) 3) false false own,
      unitsAre s R 2 .load (fun u => [(s.rs 0).toInt + 63 * u]) false false own, unitsAre t Q 5 .load (unitOffsets (s.rs 0) 0) false false own,
      unitsAre s R 2 .store (unitOffsets (s.rs 0) 0) true true out, unitsAre s (brec 0x1000 0x200 3 1) 3 .store (fun _ => laneOffsets (s.rv 0) 3) true false out,
      unitsAre s R 2 .store (fun u => [(s.rs 0).toInt + 63 * u]) true false out, unitsAre t Q 5 .store (unitOffsets (s.rs 0) 0) true false out]
        : List Bool).all id = true := by decide +kernel

theorem meets_Atomics :
    let s := r 5 0x1FFF8 s0
    let h := r 5 0x20000 s0
    let own := r 5 (slot0 0x1000) s0
    let sp := pt (fun p => { p with ptreg := 0x0001000001000000, ptroot := 0x1000000 }) (r 5 0x100000 s0)
    ([s.Settled ∧ s.MemWf ∧ inLocal (s.rs 5) 8 ∧ (s.rs 5).toNat % 8 = 0, inLocal ((r 5 0x1FFFC s0).rs 5) 4 ∧ ((r 5 0x1FFFC s0).rs 5).toNat % 4 = 0,
      ((r 5 0x1001 s0).rs 5).toNat % AtomOp.size .add 0 ≠ 0, ((r 5 0x1001 s0).rs 5).toNat % AtomOp.size .faddh 0 ≠ 0,
      (h.rs 5).toNat % 8 = 0 ∧ faultR (h.route (cx h) .atomic (h.rs 5) 8 0),
      s.Settled ∧ okR (s.route (cx s) .atomic (s.rs 5) (AtomOp.size .add 1) 0) fun p => s.Takes p && !ownPort 0 p,
      okR (s.route (cx s) .atomic (s.rs 5) (AtomOp.size .fmax 1) 0) fun p => s.Takes p && !ownPort 0 p,
      own.Settled ∧ okR (own.route (cx own) .atomic (own.rs 5) (AtomOp.size .add 1) 0) fun p => own.Takes p && ownPort 0 p,
      sp.me.level ≠ 0 ∧ ((match sp.route (cx sp) .atomic (sp.rs 5) 8 0 with | .invalid _ => true | _ => false) : Bool)] : List Bool).all id = true := by
  decide +kernel

/-- A store on its way. -/
def posted : Out := ⟨⟨coreAddr 0 0x1000, 0x1000, 8, .alias_, .rc, false, none, 0, none, false, 0⟩, 5, none, 0⟩
theorem meets_Fences :
    ([s0.Settled, (1 : BitVec 3) ≠ 0, s0.cmds = [] ∧ s0.issued = [] ∧ s0.net = [], (me (fun x => { x with out := [posted] }) { s0 with fresh := 1 }).me.out ≠ [] ∧ posted.id < 1] : List Bool).all id
      = true := by decide +kernel

theorem meets_BufferRecords :
    let s := r 5 0x1FFE0 s0
    let own := r 5 0x2000 s0
    ([s.Settled ∧ inLocal (s.rs 5) 32 ∧ (s.rs 5).toNat % 32 = 0,
      okC (s.recParts .load (s.rs 5)) fun ps => ps.all fun p => !ownPort 0 p && s.Takes p,
      okC (own.recParts .store (own.rs 5)) fun ps => ps.all fun p => !ownPort 0 p && !special p && !own.stagingBusy p] : List Bool).all id = true
    ∧ ([(56, false), (32, false), (32, true), (16, false), (5, false), (3, false), (2, false)].all fun (f : Nat × Bool) =>
        let fits := fun (v : Word) => if f.2 then -(2 ^ (f.1 - 1) : Int) ≤ v.toInt ∧ v.toInt < 2 ^ (f.1 - 1) else v.toNat < 2 ^ f.1
        let top := if f.2 then 2 ^ (f.1 - 1) else 2 ^ f.1
        decide (fits (BitVec.ofNat 64 (top - 1))) && !decide (fits (BitVec.ofNat 64 top))) = true := by decide +kernel

theorem meets_QueueRegisters :
    let s := sR (me (fun x => { x with partner := some 2, paired := true, q := x.q.set 3 [7] }) s0)
    let h := me (fun x => { x with task := { x.task with handler := some 3, words := [⟨9, none⟩] } }) s0
    let full := fun n (s : State) => me (fun x => { x with q := x.q.set 7 (List.replicate n 1) }) s
    let sent := s.modStrand 16 fun x => { x with q := x.q.set 3 (List.replicate 8 1) }
    let R := sR s0
    ([s0.me.readMisuse 3 ∧ s0.me.readMisuse 7, s.me.wait = .none ∧ s.me.paired ∧ s.me.q.get 3 = [7], s.me.q.get 4 = [],
      s.me.wait = .none, h.me.task.handler.isSome ∧ h.me.task.words = [⟨9, none⟩] ∧ h.me.q.get 6 = [], (me (fun x => { x with q := x.q.set 6 [4] }) h).me.q.get 6 = [4],
      ((full 7 s0).me.entries 7).length < 8, ((full 8 s0).me.entries 7).length ≥ 8,
      s0.me.paired = false, s.heldFor 0 = none ∧ s.partnerOf 0 = some 16 ∧ s.queueCount 0 0 < 8, sent.partnerOf 0 = some 16 ∧ 8 ≤ sent.queueCount 0 0,
      R.resolve 0 0 4 = none ∧ R.resolve 0 0 3 ≠ none ∧ R.resolve 0 0 0 = none,
      R.resolve 0 0 1 = some (1, placeEntry 1 0) ∧ entryState (placeEntry 1 0) = 1 ∧ R.me.rank = 1, R.resolve 0 0 2 = some (2, placeEntry 1 16),
      (List.range 6).all fun n => R.queueCount 0 (BitVec.ofNat 3 n) = 0 ∧ (R.me.q.toList.getD n []).length = 0] : List Bool).all id = true := by
  decide +kernel

/-- Every flag enabled. -/
def fe (s : State) : State := me (fun x => { x with csr := { x.csr with fctl := 0xBE0 } }) s
/-- A signalling NaN and a number in every 32-bit lane. -/
def nan : VReg := 0x7F800001
def two : VReg := 0x40000000

theorem meets_VectorFloats :
    let s := v 2 nan (v 3 two s0)
    let q := v 2 two (v 3 two s0)
    let raised := fun (s : State) => activeFlags 16 (s.rk 0) fun i => (fF32.value (s.flane 0 (s.rv 2) i)).sig ||| (fF32.value (s.flane 0 (s.rv 3) i)).sig
    let added := fun (s : State) => activeFlags 16 (s.rk 0) fun i =>
      (fF32.flushOut s.me.ftz (fF32.rounded s.me.rm (FV.add s.me.rm (fF32.value (s.flane 0 (s.rv 2) i)) (fF32.value (s.flane 0 (s.rv 3) i))))).2
    ([(2 : BitVec 3).toNat ≤ 2 ∧ (4 : BitVec 3).toNat ≤ 4, raised s &&& fctlEnables s.me.csr.fctl = 0, raised (fe s) &&& fctlEnables (fe s).me.csr.fctl ≠ 0,
      added q &&& fctlEnables (fe q).me.csr.fctl = 0, added (fe s) &&& fctlEnables (fe s).me.csr.fctl ≠ 0] : List Bool).all id = true := by decide +kernel

theorem meets_VectorConvert :
    let s := v 2 nan s0
    let fl := fun (s : State) => activeFlags 16 (s.rk 0) fun i =>
      (flushOutCode 1 s.me.ftz (convert (flushInCode 8 s.me.ftz (lane (s.rv 2) 32 i)) 8 1 (.rm (s.me.rounding 6)))).2
    ([cvtFormat 0, cvtFormat 15, cvtFormat 22, cvtFormat 8, cvtFormat 1, (6 : BitVec 3).toNat ≤ 6, fl s &&& fctlEnables s.me.csr.fctl = 0,
      fl (fe s) &&& fctlEnables (fe s).me.csr.fctl ≠ 0] : List Bool).all id = true := by decide +kernel

theorem meets_VectorBlocks :
    let q := fun (s : State) => (quantise16 ((List.range 16).map fun i => fF32.value (fF32.flushIn s.me.ftz (lane (s.rv 2) 32 i))) (blkElem 0)).2.2
    let stepped := (List.range (blockSlots 0)).foldl (fun (x : Flags) j => x ||| (scaleStep ((0 : Word).extractLsb' (8 * j) 8).toNat (-1)).2) 0
    ([(1 : BitVec 3) ≠ 0 ∧ (5 : BitVec 3).toNat ≤ 5, (3 : BitVec 5).toNat < blockSlots 0 ∧ (7 : BitVec 5).toNat < blockSlots 2, (6 : BitVec 3).toNat ≤ 6,
      q (v 2 two s0) &&& fctlEnables s0.me.csr.fctl = 0,
      q (v 2 nan s0) &&& fctlEnables (fe s0).me.csr.fctl ≠ 0, stepped &&& fctlEnables s0.me.csr.fctl = 0] : List Bool).all id = true := by decide +kernel

theorem meets_VectorReductions :
    let s := v 2 nan s0
    let fl := fun (s : State) => laneFlags ((List.range 16).map fun i => s.widened 2 0 0 0x80000000 i)
    ([(2 : BitVec 3).toNat ≤ 2, fl (v 2 two s0) &&& fctlEnables (fe s0).me.csr.fctl = 0,
      (fl s ||| (fred s.me.addF32 4 (((List.range 16).map fun i => s.widened 2 0 0 0x80000000 i).map (·.1))).2) &&& fctlEnables (fe s).me.csr.fctl ≠ 0,
      ((List.range 16).map fun i => s.widened 2 0 0 0x80000000 i) ≠ []] : List Bool).all id = true := by decide +kernel

/-- A swap of two pages is under way, and core 0 holds a dirty line over the entry of one: its write-back waits (R60). -/
def held60 (s : State) : State :=
  co (fun c => { c with lines := [(0x8000, ⟨7, 1, 0x8000, none, true⟩)] }) (pt (fun p => { p with swap := some (0x8000, 0x9000) }) s)
/-- An instruction of strand 0 that waits for a value. -/
def aHeld (s : State) : Held :=
  { id := 9, w := 0x9C611000, x := 0, s := s.me.s, k := s.me.k, v := s.me.v, dead := 0, b := s.me.b, fctl := 0, need := [(.v 1, 8)] }
def waits1 (s : State) : State := me (fun x => { x with held := [aHeld s], tags := [(.v 3, 9)] }) s
/-- An SO store in the outbox. -/
def soOut (s : State) : State := me (fun x => { x with out := [{ posted with at_ := { posted.at_ with kind := .so } }] }) s
/-- A load of eight bytes of local memory that is not performed. -/
def aPend (p : Part1) : Pend := { s0.newPend [p] with id := 1, dst := .sreg 4 64 false }
/-- An atomic that stands in a fault queue. -/
def parked1 (s : State) : State :=
  me (fun x => { x with pend := [{ aPend posted.at_ with atom := some ⟨.add, 1, 2, 0, 5, 0, 0x100⟩, parked := true }] }) s

/-- Strand 0 with a store on its way: not released. -/
def busy (s : State) : State := me (fun x => { x with out := [{ posted with at_ := { posted.at_ with kind := .rc } }] }) s

/-- A record of a priority. -/
def aRec (prio : BitVec 2) : TRec :=
  { code := 0x1000, frame := 5, seq := 0, level := 0, prio := prio, cw := 0, path := 9, a0 := 1, a1 := 2, a2 := 3, a3 := 4, cwCore := 0, handler := none,
    words := [], mixed := false, launches := [], role := .none, b0 := 0, tag := none, slot := none }

theorem meets_Forks :
    let ok := fun (s : State) => (s.rs 5).extractLsb' 0 2 = 0 ∧ (s.rs 5).extractLsb' 56 8 = 0 ∧ s.checkCw 0 0 (s.rs 4) = none
    let far_ := r 4 0x7000 (sR s0)
    let full := co (fun c => { c with queues := c.queues.set 0 (List.replicate 16 (aRec 0)) }) s0
    ([((r 4 0x40000000 s0).rs 4).extractLsb' 30 34 ≠ 0, (s0.rs 4).extractLsb' 30 34 = 0 ∧ ((r 5 2 s0).rs 5).extractLsb' 0 2 ≠ 0,
      ((r 5 0x0100000000000000 s0).rs 5).extractLsb' 56 8 ≠ 0,
      ok (busy s0) ∧ ¬ (busy s0).Released, ok (held60 s0) ∧ ¬ (held60 s0).Released, ok s0 ∧ cwRemote (s0.rs 4) = false ∧ s0.Released,
      ok far_ ∧ cwRemote (far_.rs 4) ∧ far_.namesOrdered 0 0 (far_.rs 4) = false ∧ far_.Released,
      ok s0 ∧ goes (exec (.fork 4 5 6 0) s0) fun t => !t.spawnHeld 0, ok full ∧ full.Released ∧ goes (exec (.fork 4 5 6 0) full) fun t => t.spawnHeld 0] : List Bool).all id = true := by decide +kernel

theorem meets_TaskEnd :
    let q := fun i l => me (fun x => { x with q := x.q.set i.toNat l i.isLt }) s0
    let cw := fun c => me (fun x => { x with task := { x.task with cw := c } }) s0
    let bad := fun (s : State) (n : BitVec 5) => 8 < n.toNat ∨ (s.me.q.get 7).length < n.toNat ∨ s.me.q.get 3 ≠ [] ∨ s.me.q.get 4 ≠ [] ∨ s.me.q.get 5 ≠ []
      ∨ (n ≠ 0 ∧ cwValid (s.me.task.cw.setWidth 64) = false)
    let cmd : Cmd := s0.newCmd .lbswp 0
    let two := (cw 0x1003).setCell 0 3 { Cell.zero with count := 2 }
    ([bad (q (7 : BitVec 3) (List.replicate 9 1)) 9, bad s0 1, bad (q (3 : BitVec 3) [1]) 0, bad (q (4 : BitVec 3) [1]) 0, bad (q (5 : BitVec 3) [1]) 0,
      bad (q (7 : BitVec 3) [1]) 1, ¬ bad (cw 0x7000) 0 ∧ cwValid ((cw 0x7000).me.task.cw.setWidth 64) ∧ (cw 0x7000).cwGone ((cw 0x7000).me.task.cw.setWidth 64),
      ¬ bad s0 0 ∧ ¬ (busy s0).Released, ¬ bad s0 0 ∧ ({ s0 with cmds := [cmd] } : State).cmds.any (fun c => c.by_ = 0),
      ¬ bad s0 0 ∧ (waits1 s0).me.held ≠ [],
      ¬ bad s0 0 ∧ s0.cmds = [] ∧ s0.me.held = [] ∧ s0.Released ∧ s0.me.task.role = .none ∧ s0.me.tag = none ∧ cwValid (s0.me.task.cw.setWidth 64) = false,
      ¬ bad two 0 ∧ two.cwGone (two.me.task.cw.setWidth 64) = false ∧ cwValid (two.me.task.cw.setWidth 64) ∧ cwRemote (two.me.task.cw.setWidth 64) = false
        ∧ two.me.task.cwCore = 0 ∧ two.me.task.role = .none ∧ two.net = [] ∧ (two.payloadOf 0).length + 8 ≤ 512 ∧ 1 < (two.cell 0 3).count.toNat] : List Bool).all id = true := by decide +kernel

theorem meets_TaskControl :
    let s := s0.modStrand 1 fun x => { x with st := .ready, resident := false }
    let c := fun f => s0.setCell 0 3 (f Cell.zero)
    ([s.waitsForRoom 0, ¬ s0.waitsForRoom 0, ((r 5 0x1000 s0).rs 5).extractLsb' 12 52 ≠ 0, ((r 5 0xFFF s0).rs 5).extractLsb' 12 52 = 0,
      ((c fun x => { x with reinit := true }).cell 0 3).reinit, ((c id).cell 0 3).reinit = false ∧ ((c id).cell 0 3).count = 0,
      ((c fun x => { x with count := 1 }).cell 0 3).count ≠ 0] : List Bool).all id = true := by decide +kernel

theorem meets_JoinCells :
    let dj := fun (w : Word) => w.extractLsb' 14 50
    let s := r 6 0x1FFF0 s0
    let code := BitVec.ofNat 64 (Memory.readN s.mem (s.localHome (s.rs 6)) 8)
    let c := s0.setCell 0 3 { Cell.zero with count := 2 }
    let q := me (fun x => { x with q := x.q.set 7 [5] }) c
    let full := c.setCell 0 3 { (c.cell 0 3) with arrivals := [⟨List.replicate 512 ⟨1, none⟩, none, 5⟩] }
    ([dj 0x4000 ≠ 0, sA.me.level = 0, dj 0x3FFF = 0 ∧ (0xFFFFFFFF : Word).extractLsb' 32 32 = 0, (s0.cell 0 3).parked = false ∧ (s0.cell 0 3).arrivals = [],
      s1.me.level ≠ 0,
      s.Settled ∧ s.rs 6 ≠ 0 ∧ inLocal (s.rs 6) 16 ∧ (s.rs 6).toNat % 16 = 0 ∧ code.extractLsb' 56 6 = 0 ∧ code.extractLsb' 62 2 ≠ 3
        ∧ (code.extractLsb' 62 2).toNat ≤ s.me.level.toNat, ((r 6 8 s0).rs 6) ≠ 0 ∧ ((r 6 8 s0).rs 6).toNat % 16 ≠ 0,
      (s0.checkCw 0 0 0x2000).isSome, (s0.checkCw 0 0 0x7000).isSome, s0.rs 4 = 0, c.checkCw 0 0 0x1003 = none ∧ (0x1003 : Word) ≠ 0 ∧ (255 : Word).toNat < 256,
      8 < (9 : BitVec 5).toNat, (c.me.q.get 7).length < 1, (8 : BitVec 5).toNat ≤ 8, 1 ≤ (q.me.q.get 7).length, ¬ (busy c).Released,
      c.Released ∧ cwRemote 0x1003 = false ∧ c.net = [] ∧ c.payloadRoom 0 1 ∧ (c.payloadOf 0).length + 1 ≤ 512 ∧ 1 < (c.cell 0 3).count.toNat,
      (full.cell 0 3).count ≠ 0 ∧ full.payloadRoom 0 1 = false ∧ full.Released, (s0.cell 0 3).count = 0,
      (c.cell 0 3).count ≠ 0 ∧ (c.cell 0 3).count.toNat ≤ 2, (sR c).checkCw 0 0 0x7003 = none ∧ cwRemote 0x7003 ∧ (sR c).Released] : List Bool).all id
      = true := by decide +kernel

/-- No strand is parked on cell 3. -/
theorem meets_JoinCells_alone :
    ∀ t, ¬ ((s1.strand t).wait = .cell 0 3 ∧ ((s1.strand t).st = .parked ∨ ((s1.strand t).st = .moving ∧ (s1.strand t).rest = .parked))) := by
  intro t
  match t with
  | 0 => decide
  | t + 1 =>
    have h : s1.strand (t + 1) = (s1.die (dieOfCore (coreOf (t + 1)))).freshStrand (frameOf (t + 1)) := by
      show SMap.get _ (SMap.set s0.strands 0 _) (t + 1) = _
      rw [SMap.get_set, if_neg (by omega)]
      simp [s0, SMap.get]
    rw [h, Die.freshStrand]
    split <;> simp [Strand.reset]

theorem meets_SealWords :
    let R := sR s0
    let held := me (fun x => { x with csr := { x.csr with sealk := x.csr.sealk.set 0 7 } }) R
    let sealed := fun (key : BitVec 32) => co (fun c => { c with tlb := [{ page 2 with lo := (page 2).lo ||| 0x4000000, key := key }] }) held
    let x := fun (s : State) (f : TlbEntry → Bool) => match s.translate (cx s) .load 0x100000 with | .ok e => f e | _ => false
    ([R.resolve 0 0 4 = none, (R.resolve 0 0 1).isSome ∧ R.checkCw 0 0 0 = none, R.me.heldKeys.contains 7 = false, (7 : BitVec 32) ≠ 0 ∧ held.me.heldKeys.contains 7 ∧ held.me.pend = [],
      (parked1 held).me.heldKeys.contains 7 ∧ (parked1 held).me.pend.any (·.parked),
      s0.unsorted (cx s0) 0x20000, s0.unsorted (cx s0) 0x1000 = false ∧ vaRegion 0x1000 ≠ .translated, s0.unsorted (cx s0) 0x100000 = false ∧ vaRegion 0x100000 = .translated,
      x (sV 2 s0) fun e => !Pte.sealed e.lo, x (sealed 8) fun e => Pte.sealed e.lo && !(e.key ≠ 0 && held.me.heldKeys.contains e.key),
      x (sealed 7) fun e => Pte.sealed e.lo && e.key ≠ 0 && held.me.heldKeys.contains e.key] : List Bool).all id = true := by decide +kernel

theorem meets_Migrate :
    let core := fun (w : Word) => ((w.extractLsb' 14 3).toNat * 16 + (w.extractLsb' 10 4).toNat) * 48 + (w.extractLsb' 4 6).toNat
    let bad := fun (s : State) (w : Word) => w.extractLsb' 17 47 ≠ 0 ∨ w.extractLsb' 0 4 ≠ 0 ∨ 47 < (w.extractLsb' 4 6).toNat
      ∨ (s.mask 0).getLsbD (w.extractLsb' 14 3).toNat = false ∨ (s.core (core w)).stage ≠ s.myCore.stage
    let free := s0.modStrand 16 fun x => { x with st := .free }
    ([sA.me.level = 0, s1.me.level ≠ 0, bad s0 0x20000, bad s0 1, bad s0 0x300, bad s0 0x4000, bad (s0.modCore 1 fun c => { c with stage := 1 }) 0x10,
      ¬ bad s0 0x2F0, (busy s0).settled 0 = false, s0.settled 0, core 0 = coreOf s0.cur, core 0x10 ≠ 0 ∧ s0.freeFrame (core 0x10) = none,
      free.freeFrame (core 0x10) = some 16 ∧ free.settled 0 ∧ free.backHeld 0 = false, (held60 free).freeFrame (core 0x10) = some 16 ∧ (held60 free).settled 0
        ∧ (held60 free).backHeld 0] : List Bool).all id = true := by decide +kernel

theorem meets_CsrOperations :
    let ok := fun (s : State) (c : BitVec 12) (x : Word) => ((s.writeBackAll 0).csrStore 0 c x).isSome
    ([csrLevels 5 = none, csrLevels 0xFFF = none, csrLevels 0x100 = some (1, some 1) ∧ sA.me.level.toNat < 1, csrLevels 0x10 = some (0, some 0),
      csrLevels 0 = some (0, none), csrLevels 0x221 = some (2, none), csrLevels 0x101 = some (0, some 1) ∧ sA.me.level.toNat < 1,
      partKept 0x70 ∧ (soOut s0).me.soReady = false, partKept 0x70 ∧ csrLevels 0x70 = some (0, some 2) ∧ s0.me.level = 2 ∧ s0.Released ∧ s0.me.soReady,
      partKept 0x70 ∧ ¬ (busy s0).Released ∧ (busy s0).me.soReady, (waits1 s0).me.flagsDue ∧ s0.me.flagsDue = false,
      partKept 0x104 = false ∧ s0.csrStore 0 0x104 0x30 = none, s0.csrStore 0 0x104 0x20 ≠ none ∧ csrLevels 0x104 = some (0, some 1),
      ok s0 0x71 5] : List Bool).all id = true := by decide +kernel

theorem meets_TrapRegisters : 1 ≤ s1.me.level.toNat ∧ (0x20 : Word).extractLsb' 4 2 ≠ 3 ∧ (0x30 : Word).extractLsb' 4 2 = 3 := by decide +kernel

theorem meets_TrapEntry :
    let own := fun (s : State) (c : BitVec 8) (x : Word) => c = 0x10 ∧ 0x40 ≤ x.toNat ∧ x.toNat ≤ 0x7F ∧ s.me.level = 0 ∧ s.me.csr.atvec ≠ 0
    let up := fun (s : State) (c : BitVec 8) => 0x20 ≤ c.toNat ∨ s.me.level = 2 ∨ s.me.csr.tdeleg.getLsbD c.toNat = false
    let a := me (fun x => { x with csr := { x.csr with atvec := 0x400 } }) sA
    let j := me (fun x => { x with csr := { x.csr with tdeleg := 0x3FFFFE, tvec := 0x500 } }) sA
    ([own a 0x10 0x40 ∧ own a 0x10 0x7F, ¬ own a 0x10 0x80 ∧ up a 0x10, ¬ own a 0x10 0x3F, up s0 0x0A, up j 0x20,
      ¬ own j 0x10 0x40 ∧ ¬ up j 0x10 ∧ j.me.csr.tvec ≠ 0, s0.myCore.cmtvec = 0 ∧ s0.me.st ≠ .free ∧ s0.me.st ≠ .halted,
      (co (fun c => { c with cmtvec := 0x600 }) s0).myCore.cmtvec ≠ 0] : List Bool).all id = true := by decide +kernel

theorem meets_SystemOperations :
    let e := fun (ts tpc : Word) s => me (fun x => { x with csr := { x.csr with tstat := ts, tpc := tpc } }) s
    ([sA.me.level.toNat < ((e 0x10 0 sA).me.csr.tstat.extractLsb' 4 2).toNat, ((e 0x20 2 s0).me.csr.tstat.extractLsb' 4 2).toNat ≤ s0.me.level.toNat,
      (e 0x20 2 s0).me.csr.tpc.toNat % 4 ≠ 0, (e 0x20 0x100 s0).me.csr.tpc.toNat % 4 = 0, s0.myCore.cdbg.getLsbD 0 = false,
      (co (fun c => { c with cdbg := 1 }) s0).myCore.cdbg.getLsbD 0 ∧ s0.me.st = .ready, sA.me.level = 0, s1.me.level ≠ 0 ∧ s1.me.st = .ready,
      (co (fun c => { c with cdbg := 0x800000000000 }) s0).myCore.cdbg.getLsbD 47 ∧ s0.myCore.cdbg.getLsbD 47 = false, s0.me.irq = none,
      (me (fun x => { x with irq := some 0 }) s0).me.irq ≠ none] : List Bool).all id = true := by decide +kernel

theorem meets_RankEntries :
    let R := sR s0
    let e1 : Word := (placeEntry 1 17).setWidth 64
    ([sA.me.level = 0, R.me.level ≠ 0 ∧ (R.part 0).rtlim.toNat ≤ (4 : Word).toNat ∧ (R.part 0).rtlim.toNat ≤ 65536,
      R.rankBad 0 3 = false ∧ R.entryBad 0 0x80000000, R.entryBad 0 0x40000300, R.rankBad 0 0 = false ∧ R.entryBad 0 e1 = false ∧ R.Released
        ∧ entryState (R.rankEntry 0 0) ≤ 1 ∧ R.routedTo 0 0 = false, entryState (e1.setWidth 32) = 1, R.rankBad 0 1 = false ∧ R.rankBad 0 2 = false,
      R.entryLive 0 (R.rankEntry 0 0) = false, (1 : BitVec 16) ≠ 2, (R.mask 0).getLsbD ((R.rankEntry 0 1).extractLsb' 14 3).toNat ∧ (R.mask 0).getLsbD ((R.rankEntry 0 2).extractLsb' 14 3).toNat,
      entryState (R.rankEntry 0 1) = 1 ∧ entryState (R.rankEntry 0 2) = 1 ∧ R.routedTo 0 1 = false ∧ R.routedTo 0 2 = false] : List Bool).all id
      = true := by decide +kernel

theorem meets_TranslationRemoval :
    let sorted := fun va => 0x40000 ≤ va ∧ va < 2 ^ 55
    let off := me (fun x => { x with inv := [(0, 0x2000)], out := [{ posted with at_ := { posted.at_ with name := .translated } }] }) s0
    ([sA.me.level = 0, s1.me.level ≠ 0 ∧ (busy s1).me.out ≠ [], s1.Settled, sorted 0x40000, sorted (2 ^ 55 - 1), ¬ sorted 0x3FFFF, ¬ sorted (2 ^ 55),
      s1.rangesQuiet 0 s1.me.inv, off.rangesQuiet 0 off.me.inv = false] : List Bool).all id = true := by decide +kernel

/-- Partition 1 holds die 1, and is stopped. -/
def s2 : State := s0.setPart 1 { Part.reset with mask := 2, gang := some 8, quiet := true }

theorem meets_Partitioning :
    let may := fun (s : State) => s.me.level = 2 ∧ (s.mask (s.partOf 0)).getLsbD 0
    let lock := fun t => s2.modPart 1 fun p => { p with tdi := t }
    let refusedA := fun (s : State) (aw bw : Word) => aw.extractLsb' 3 61 ≠ 0 ∨ (s.part (aw.extractLsb' 0 3).toNat).tdi = .locked
      ∨ (s.part (aw.extractLsb' 0 3).toNat).tdi = .run ∨ ((s.part (aw.extractLsb' 0 3).toNat).saved.isSome ∧ bw.extractLsb' 0 8 ≠ 0)
    let refusedB := fun (s : State) (n : Nat) (bw : Word) => bw.extractLsb' 8 56 ≠ 0 ∨ (List.range 8).any fun k => s.dieRefused n (bw.extractLsb' 0 8) 0 0 k
    let sv : Saved := { mask := 2, strands := [], cores := [], cells := [], clusters := [], dies := [], looms := [], chans := [], cmds := [], net := [], spilled := 0 }
    let saved := s2.modPart 1 fun p => { p with saved := some sv }
    let gone := saved.modPart 1 fun p => { p with mask := 0 }
    let taken := gone.setPart 2 { Part.reset with mask := 2 }
    let fenced := me (fun x => { x with fences := [(9, .fence 4)] }) s2
    ([¬ may sA, ¬ may (pt (fun p => { p with mask := 0 }) s0), may s2, refusedA s2 8 0, refusedA (lock .locked) 1 2, refusedA (lock .run) 1 2, refusedA saved 1 2,
      ¬ refusedA s2 1 2, refusedB s2 1 0x100, refusedB s2 1 3, ¬ refusedB s2 1 6, s2.me.drained ∧ s2.me.fences = [] ∧ s2.backHeld 0 = false, (busy s2).me.drained = false, fenced.me.fences ≠ [], (held60 s2).backHeld 0,
      s2.maskHeld 1 6 = false, (held60 s2).maskHeld 1 1, (List.range 768).all fun c => s2.backHeld (768 + c) = false,
      s2.mask 1 ≠ 0 ∧ 1 ≠ s2.partOf 0,
      (s2.part 1).tdi ≠ .locked ∧ (s2.part 1).tdi ≠ .run, (saved.part 1).saved.isSome,
      ((List.range 4).foldl (fun (s : State) i => s.setPart (4 + i) { Part.reset with saved := some sv }) s2).storedOn 1 = 4,
      (s2.part 1).saved = none ∧ s2.storedOn 1 < 4 ∧ (s2.part 1).gang = some 8 ∧ (s2.part 1).quiet,
      ((s2.modPart 1 fun p => { p with quiet := false }).part 1).quiet = false, (gone.part 1).saved = some sv ∧ gone.partOfDie 1 = 8,
      (taken.part 1).saved = some sv ∧ taken.partOfDie 1 = 2] : List Bool).all id = true := by decide +kernel

/-- Disjoint masks of partitions 0 and 1. -/
theorem meets_Partitioning_disjoint : s2.Disjoint := by
  intro p q h
  have e : ∀ n, (s2.part n).mask = if n = 0 then 1 else if n = 1 then 2 else 0 := by
    intro n
    match n with
    | 0 => rfl
    | 1 => rfl
    | n + 2 => simp [s2, s0, State.part, State.setPart, SMap.get, SMap.set, Part.reset]
  rw [e, e]
  by_cases h0 : p = 0 <;> by_cases h1 : q = 0 <;> by_cases h2 : p = 1 <;> by_cases h3 : q = 1 <;> simp_all

/-! ### Loom, search, messages -/

/-- An accumulator, an A record and their weave pair; the active view holds one K-block of `i8x16`. -/
def accC : BRec := brec 0x30000 0x100 2 1 4 4 4 16
def sL : State :=
  { me (fun x => { x with weave := x.weave.set 1 4 }) s0 with looms := [(0, { Loom.reset with viewAct := ⟨1, 4, 0, 19, true⟩ })] }

theorem meets_LoomCommands :
    let A := brec 0x1000 0x100 0 1 16 4 1 16
    let P := brec 0x1000 0x1000 0 1 1 4 144 144
    let G := brec 0x1000 0x1000 0 1 128 4 1 128
    let O := brec 0x4000 8 2 1 2 1 4
    let rows := fun (A : BRec) (cnt first : Nat) => decide (64 < cnt) || (decide (cnt ≠ 0) && decide (min (Rec.dim1 A) (Rec.dim1 accC) < first + cnt))
    let recs := fun (A : BRec) u => [recCheck accC 4 (accOffsets accC), recCheck A u (walkOffsets A)]
    let pair := sL.me.weave.get 1
    let base := fun (A : BRec) => [(2, !loomCombo pair (Rec.fmt A) 19 false), (3, Rec.fmt accC = 31 || Rec.fmt A = 31)]
    let accs := [(5, accBad accC [loomAccFmt pair])]
    let os := fun (a z : Nat) => match (loc 0x4000 8 (a + 2 ^ 32 * z) sL).loadValues O 4 2 ((List.range 2).map fun i => recOffset O i 0) with
      | .ok (_, vs) => some (vs.map (sxN 32)) | _ => none
    ([sL.loomCheck 0 (recs A 1) (base A ++ [(4, rows A 4 0)] ++ accs ++ [(6, Rec.space A = 3 || decide (kPositions A < 16)), (7, decide (Rec.dim0 accC ≤ 0))]) = none,
      (sL.loomCheck (1 <<< 40) (recs A 1) []).isSome, (sL.loomCheck 0 (recs (1#256 <<< 203) 1) []).isSome, (sL.loomCheck 0 (recs A 1) [(4, rows A 65 0)]).isSome,
      (sL.loomCheck 0 (recs A 1) [(4, rows A 4 1)]).isSome,
      sL.loomCheck 0 (recs P 144) (base P ++ [(4, rows P 4 0)] ++ accs ++ [(6, Rec.space P = 3 || decide (Rec.dim0 P < 1)), (8, loomPad pair false 19 ≠ 0),
        (10, decide ((Rec.base P).toNat % 16 ≠ 0) || decide (Rec.stride0 P % 16 ≠ 0) || decide (Rec.stride0 P < 144))]) = none,
      sL.loomCheck 0 (recs G 1 ++ [recCheck O 4 ((List.range (Rec.dim0 O)).map fun i => recOffset O i 0) false]) (base G ++ accs ++ [(6, decide (kPositions G < 128)),
        (13, decide (Rec.fmt O ≠ 2) || decide (Rec.dim0 O < 2) || decide (5 < Rec.dim0 O))]) = none,
      os 0 4 = some [0, 4], os 0xFFFFFFFF 4 = some [-1, 4], os 4 3 = some [4, 3], os 0 65 = some [0, 65], os 1 5 = some [1, 5]] : List Bool).all id = true := by
  decide +kernel

theorem meets_LoomControl :
    let B := brec 0x1000 0x1000 19 1 4 4 16 64
    let D := brec 0x2000 0x100 2 1 4 4 4 16
    ([sL.loomCheck 0 [recCheck B (unitBytes 19) (walkOffsets B)] [(3, Rec.fmt B = 31), (11, !loomBFmt 19 || decide (128 < Rec.dim0 B) || decide (32 < Rec.dim1 B))] = none,
      (sL.loomCheck 0 [recCheck D 4 (walkOffsets D)] [(11, !loomBFmt (Rec.fmt D))]).isSome,
      sL.loomCheck 0 [recCheck accC 4 (accOffsets accC)] [(3, Rec.fmt accC = 31), (5, accBad accC [loomAccFmt (sL.me.weave.get 1)])] = none,
      (sL.loomCheck 0 [recCheck accC 4 (accOffsets accC)] [(5, accBad accC [loomAccFmt 0])]).isSome,
      sL.loomCheck 0 [recCheck D 4 (walkOffsets D), recCheck accC 4 (accOffsets accC)] [(5, accBad accC [8, 2]),
        (12, decide (Rec.dim1 D ≠ Rec.dim1 accC) || decide (Rec.dim0 D ≠ 4))] = none,
      (sL.loomCheck 0 [] [(12, decide (Rec.dim0 B ≠ 5))]).isSome, (7 : Word).toNat < 8, 8 ≤ (8 : Word).toNat] : List Bool).all id = true := by decide +kernel

/-- The cases of an issue: not released; released with room, now or later; without room. -/
theorem meets_Submitted :
    let c := sL.newCmd .lbswp 0
    let full := { sL with cmds := List.replicate 16 c }
    ([¬ (busy sL).Released, ¬ (held60 sL).Released, sL.Released ∧ sL.late = false ∧ (sL.cmds.countP fun k => k.core = 0 && k.op.isLoom) < 16 ∧ (sL.writeBackAll 0).boardRoom [],
      ¬ (full.cmds.countP fun k => k.core = 0 && k.op.isLoom) < 16, ({ sL with late := true } : State).late] : List Bool).all id = true := by decide +kernel

theorem meets_Search :
    let S := brec 0x1000 0x100 2 1 4 4 4 16
    let O := brec 0x2000 0x100 2 1 4 4 4 16
    let s := s0.modCluster 0 fun c => { c with sacfg := 0x100 }
    let ck := fun (s : State) (P : Word) => s.loomCheck 0 [walkCheck O, walkCheck S]
      [(14, !((s.cluster 0).sacfg.getLsbD 8)), (15, decide ((P.extractLsb' 0 7).toNat = 0) || decide (64 < (P.extractLsb' 0 7).toNat) || P.getLsbD 7
         || decide (P.extractLsb' 12 52 ≠ 0)),
       (16, !([0, 1, 2, 4, 5, 6, 8, 9, 10].contains (Rec.fmt S)) || decide (512 < Rec.dim0 S) || decide (64 < Rec.dim1 S)),
       (17, (decide (Rec.fmt O ≠ 1) && decide (Rec.fmt O ≠ 2)) || decide (Rec.dim0 O < (P.extractLsb' 0 7).toNat) || decide (Rec.dim1 O < Rec.dim1 S))]
    let R := brec 0x3000 0x2000 3 1
    let out := fun (n : Nat) => okC (s.checkUnits (cx s) R 8 3 .store ((List.range (2 * n)).map fun (i : Nat) => (8 * (i : Int)))) fun l =>
      l.all fun u => match u with | some ([q], _) => !special q && !ownPort 0 q && !s.stagingBusy q | _ => false
    let bad := fun (v m : Word) => v &&& ~~~m ≠ 0
    let searching : State := { s with cmds := [s.newCmd (.topk O S 4 0 false false false none) 0] }
    ([ck s 4 = none, (ck s0 4).isSome, (ck s 0).isSome, (ck s 65).isSome, (ck s 5).isSome,
      okC (s.recParts .load (s.rs 7)) fun ps => match s.loadNow ps with | some (t, vs) => okE (t.searchBlock 0 0 (BitVec.ofNat 64 (vs.getD 0 0)) 0 0) fun _ => true | none => false,
      bad 0x4000000 0x3FF000F, ((0x0 : Word).extractLsb' 16 10).toNat = 0, 512 < ((0x2010000 : Word).extractLsb' 16 10).toNat,
      ¬ bad 0x200000F 0x3FF000F ∧ ((0x200000F : Word).extractLsb' 16 10).toNat = 512 ∧ s.Settled ∧ s.cmds = [] ∧ s.issued = [] ∧ recRefused R false = false,
      out 2, bad 0x2000000 0x1FF000F, ¬ bad 0x1FF000F 0x1FF000F ∧ s0.me.level ≠ 0 ∧ s0.me.soReady, sA.me.level = 0, (soOut s0).me.soReady = false,
      searching.cmds.any fun k => k.by_ = 0 && (match k.op with | .topk .. => true | _ => false)] : List Bool).all id = true := by decide +kernel

theorem meets_Sends :
    let R := me (fun x => { x with q := x.q.set 7 [1, 2] }) (sR s0)
    let hdr : Word := 0x00300200
    ([R.resolve 0 0 0 = none, (R.resolve 0 0 1).isSome, (0x100000000 : Word).extractLsb' 32 32 ≠ 0, (1 : Word).extractLsb' 0 8 ≠ 0,
      hdr.extractLsb' 32 32 = 0 ∧ hdr.extractLsb' 0 8 = 0 ∧ (hdr.extractLsb' 8 4).toNat = 2 ∧ 2 ≤ (R.me.q.get 7).length, ¬ (hdr.extractLsb' 8 4).toNat = 3,
      ¬ 3 ≤ (R.me.q.get 7).length, ¬ (busy R).Released, R.Released, 4096 < (4097 : Word).toNat, errE (R.sendRanks 2 3 0) (· = 4),
      okE (R.sendRanks 1 3 0) (· = [1, 2, 3]), okE (R.sendRanks 1 0 0) (· = [])] : List Bool).all id = true := by decide +kernel

theorem meets_NetworkCommands :
    let R := sR s0
    let L := brec 0x1000 0x100 2 1 4 4 4 16
    let T := brec 0x2000 0x100 6 1 16 1 4
    let last := fun (src : Nat) => src + walkCount L * unitBytes (Rec.fmt L)
    let tile := brec 0x1000 0x100 2 1 3 3 4 16
    let nb := fun (a : Nat) => okC (R.recParts .load 0x4000) fun ps => match (loc 0x4000 8 a R).loadNow ps with
      | some (t, vs) => okE (t.neighbours ((List.range 4).map fun i => (i, BitVec.ofNat 64 (vs.getD i 0)))) fun n => n.length = 1 | none => false
    ([recRefused (1#256 <<< 203) false, Rec.space (brec 0x100000 4 2 0) ≠ 1, notPlain (brec 0x1000 4 31 1), !(recRefused L false) && !notPlain L && Rec.space L = 1,
      last (0x20000 - 64) ≤ 0x20000, last (0x40000 - 64) ≤ 0x40000, ¬ last (0x20000 - 60) ≤ 0x20000, R.resolve 0 0 4 = none, (R.resolve 0 0 1).isSome,
      (R.checkCw 0 0 0x2000).isSome, R.checkCw 0 0 0 = none,
      okE (R.effective (cx R) L) fun S => okE (R.effective (cx R) T) fun D => sizeClass (Rec.fmt S) ≠ 5 ∧ sizeClass (Rec.fmt D) ≠ 5
        ∧ sameSize (Rec.fmt S) (Rec.fmt D) ∧ walkCount S = walkCount D, ¬ sameSize 2 3, walkCount L ≠ walkCount tile,
      Rec.dim0 tile < 3 * 2, 3 * 1 ≤ Rec.dim0 tile ∧ 3 * 1 ≤ Rec.dim1 tile, nb 2] : List Bool).all id = true := by decide +kernel

/-! ### Shadows, copies, launches, the Forge, the Bolter, the Assay -/

theorem meets_Shadows :
    let R := brec 0x1000 0x100 2 1
    let k := shKeyOf 0 R
    let s := pt (fun p => { p with shreg := 1 <<< 48 }) s0
    let opened := fun (h : Shadow) => pt (fun p => { p with shadows := [h] }) s
    let ok := fun (s : State) (R : BRec) => okC (s.shadowPages (cx s) (pagesOf (Rec.base R).toNat (Rec.extent R))) (fun x => !x)
      && !s.shadowRegionBad (cx s) (Rec.base R).toNat (Rec.extent R) && (s.part 0).shadowRegion ≠ 0
    let clash := fun (s : State) (R : BRec) => ((s.part 0).shadows.any fun y => y.key.overlaps (shKeyOf 0 R) || y.key = shKeyOf 0 R)
      || decide ((s.part 0).shadowRegion < shadowNeed (Rec.extent R))
    let y : ShKey → Shadow := fun k => { Shadow.new k with bytes := [(2 ^ 32, 5)], vas := [(2 ^ 32, 0x100000)] }
    let wrote := co (fun c => { c with cmtvec := 0x600, tlb := [{ page 2 with lo := (page 2).lo ||| 0x4000000, key := 8 }] }) (opened (y k))
    let full := pt (fun p => { p with shadows := (List.range 64).map fun i => .new { k with base := BitVec.ofNat 56 (0x8000 + i), extent := 1 } }) s
    ([rangeRefused (1#256 <<< 203) ≠ none, rangeRefused (brec 0x100000 0x100 2 1) ≠ none, rangeRefused R = none ∧ ok s R, clash (opened (.new k)) R, clash (opened (.new { k with base := 0x10FF })) R,
      ok s (brec 0x1000 0x1000000 2 1) = false ∨ clash s (brec 0x1000 0x1000000 2 1), !clash (opened (.new { k with base := 0x1100 })) R && s.Released && (s.part 0).shadowFits k,
      ¬ (busy s).Released, !clash full R && !(full.part 0).shadowFits k, s.shadowOf 0 k = none,
      (opened (.new k)).shadowOf 0 k = some (.new k) ∧ (Shadow.new k).closed = false ∧ s.cmds = [] ∧ s.Released ∧ s.late = false ∧ s.me.wait = .none,
      s.publishHeld 0 (.new k) = false ∧ (s.writeBackAll 0).lacks 0 0 (.new k) [] = none,
      wrote.Released ∧ wrote.publishHeld 0 (y k) = false ∧ (wrote.writeBackAll 0).lacks 0 0 (y k) [] = some 0x100000 ∧ (wrote.target 0 0x06 0x100000).2 ≠ 0] : List Bool).all id = true := by decide +kernel

theorem meets_Copies :
    let s := sV 2 (pt (fun p => { p with ctbase := 0x100000 }) s0)
    let R := brec 0x1000 0x100 2 1 4 4 4 16
    let D := brec 0x2000 0x100 2 1 4 4 4 16
    let t := far (2 ^ 32 + 128) 64 (R.toNat + 2 ^ 256 * D.toNat) s
    let begun := fun (s : State) => { s.writeBackAll 0 with fresh := s.fresh + 1 }
    let at_ := fun (n : Nat) (s : State) => ((s.part 0).ctbase &&& 0x00FFFFFFFFFF0000) + BitVec.ofNat 64 (128 * n)
    let c := s.newCmd (.start 0 1) 0
    let ok := fun (w : Word) => w.extractLsb' 11 53 = 0 ∧ (s.mask 0).getLsbD ((w.extractLsb' 6 5).toNat / 4)
    let other := pt (fun p => { p with ctbase := 0x200000 }) s0
    let read := fun (n : Nat) (s : State) => (begun s).templateParts c false (at_ n s)
    let refused := far (2 ^ 32 + 128) 64 (R.toNat + 2 ^ 256 * (1#256 <<< 203).toNat) s
    ([¬ ok 0x800, ¬ ok 0x100, ok 0xFF, 4096 ≤ (4096 : Word).toNat, (4095 : Word).toNat < 4096, ¬ (busy s).Released,
      s.Released ∧ s.late = false ∧ (s.cmds.countP fun k => k.op.channel = some 0) < 16, ({ s with late := true } : State).late,
      match read 0 other with | some (.error _) => true | _ => false,
      match read 1 t with
      | some (.ok ps) =>
          let T := (begun t).templateValue 0 ps
          let u := ((begun t).templateRead c ps).modDie 0 fun d => { d with templates := d.templates ++ [(at_ 1 t, T)] }
          (t.checkCw 0 0 (T.extractLsb' 576 64)).isNone && match (begun t).copyOf c 0 (at_ 1 t) T with
          | some (.ok op) => u.boardRoom (u.ranges { c with op := op, cw := T.extractLsb' 576 64 }) && t.cmds = [] | _ => false
      | _ => false,
      match read 1 refused with
      | some (.ok ps) =>
          let T := (begun refused).templateValue 0 ps
          ((begun refused).checkCw 0 0 (T.extractLsb' 576 64)).isNone && match (begun refused).copyOf c 0 (at_ 1 refused) T with
          | some (.error _) => true | _ => false
      | _ => false] : List Bool).all id = true := by decide +kernel

theorem meets_Digests :
    let D := brec 0x3000 0x20 3 1
    let S := brec 0x1000 0x100 2 1 4 4 4 16
    let inSlot := (pt (fun p => { p with slots := [(7, 5)] }) s0).modCluster 0 fun c => { c with rpcfg := BitVec.ofNat 64 (1 + (slot0 0x30000000).toNat) }
    let slotOut := fun (s : State) => ((match s.checkUnits (cx s) (brec ((slot0 0x30000000).toNat + 224) 0x20 3 2) 8 3 .store ((List.range 4).map fun (i : Nat) => (8 * i : Int)) with
      | .ok ds => placeUnits none 64 ds | _ => []) : List Part1)
    let words := (List.range 4).map fun (i : Nat) => (8 * i : Int)
    let cellD := brec (slot0 0x200000).toNat 0x20 3 2
    let refused := fun (D : BRec) => recRefused D false ∨ (Rec.fmt D ≠ 31 ∧ sizeClass (Rec.fmt D) ≠ 3)
    ([trapC (s0.checkUnits (cx s0) (brec 0x3000 0x10 3 1) 8 3 .load words), okC (s0.checkUnits (cx s0) cellD 8 3 .load words) (fun _ => true), trapC (s0.checkUnits (cx s0) cellD 8 3 .store words),
      refused (1#256 <<< 203), refused S, ¬ refused D ∧ recRefused S false = false, s0.Settled, 2 ^ 24 < 0xFFFF * 0xFFFF * 4,
      inSlot.slotOf 0 (slotOut inSlot) = some 7 ∧ (inSlot.part 0).slots.has 7,
      okC (s0.checkUnits (cx s0) D 8 3 .load words) (fun _ => true) && okC (s0.checkUnits (cx s0) D 8 3 .store words) fun ds =>
        okE (s0.effective (cx s0) S) fun E => okC (s0.checkUnits (cx s0) S (unitBytes (Rec.fmt E)) (sizeClass (Rec.fmt E)) .load (walkOffsets S)) fun us =>
          let out := placeUnits (s0.thruOf 0 D true) 64 ds
          s0.slotOf 0 out = none && (s0.loadNow (placeUnits (s0.thruOf 0 D false) 64 ds ++ placeUnits (s0.thruOf 0 S false) 0 us)).isSome
            && out.all (fun q => !special q && !ownPort 0 q && !s0.stagingBusy q) && walkCount S * 4 ≤ 2 ^ 24] : List Bool).all id = true := by decide +kernel

/-- A launch packet: one copy on core 0 of cluster 0 of die 0, code at 0x1000 (R224). -/
def packet : BitVec 512 := BitVec.ofNat 512 (0x1000 + 2 ^ 256 + 2 ^ 304 + 2 ^ 320)

theorem meets_Launches :
    let none_ := { s0 with dies := [(0, { Die.reset with frames := 0 })] }
    let armed := s0.setCell 0 3 { Cell.zero with count := 1 }
    let full := co (fun c => { c with queues := c.queues.set 0 (List.replicate 16 (aRec 0)) }) s0
    let chunks := fun (trip g : Nat) => (trip + g - 1) / g
    let ready := fun (s : State) n => (s.cell 0 3).count = 0 ∧ (s.cell 0 3).parked = false ∧ (s.cell 0 3).arrivals = [] ∧ n ≤ 65536
    let p := fun (s : State) => loc 0x1FFC0 64 packet.toNat s
    let q := BitVec.ofNat 512 (Memory.readN (p s0).mem ((p s0).localHome 0x1FFC0) 64)
    ([(0x1000 : Word).extractLsb' 12 52 ≠ 0, (0xFFF : Word).extractLsb' 12 52 = 0 ∧ (0xFFFFFFFF : Word).toNat < 2 ^ 32, ¬ ready armed 1, ¬ ready s0 (chunks 65537 1),
      ready s0 (chunks 65536 1), chunks 0 1 = 0, 0 < chunks 1 0xFFFF, s0.Released ∧ s0.me.wait = .none, ¬ (busy s0).Released,
      goes (exec (.rfork 3 4 5 6 0 16) (r 6 16 s0)) (fun t => !t.spawnHeld 0), full.Released ∧ goes (exec (.rfork 3 4 5 6 0 16) (r 6 16 full)) (fun t => t.spawnHeld 0), (none_.part 0).dmode = false ∧ none_.recruits 0 0 1 = [],
      s0.recruits 0 0 1 ≠ [], s0.unsorted (cx s0) 0x20000, (p s0).Settled ∧ inLocal 0x1FFC0 64 ∧ (0x1FFC0 : Word).toNat % 64 = 0,
      s0.packetRefused 0 0 2, q = packet ∧ s0.packetRefused 0 q 2 = false ∧ s0.checkCw 0 0 0 = none ∧ cwRemote 0 = false] : List Bool).all id = true := by
  decide +kernel

/-- Handle 3 with references, held. -/
def hd (ref : BitVec 16) (f : Handle → Handle := id) : State :=
  pt (fun p => p.setHandle 3 (f { Handle.free with ref := ref, held := true, base := 0x3000, bytes := 16 })) s0

theorem meets_Handles :
    let A := brec 0x1000 0x100 3 1
    let tagged := me (fun x => { x with tag := some 1 }) (hd 1)
    let z := (hd 1 fun h => { h with map := 0x10 })
    ([s0.me.soReady, (soOut s0).me.soReady = false, (0x1000 : Word).extractLsb' 12 52 ≠ 0, ((s0.part 0).handle 3).ref = 0, (3 : Word).extractLsb' 12 52 = 0 ∧ (((hd 1).part 0).handle 3).ref ≠ 0,
      (((hd 0xFFFF).part 0).handle 3).ref = 0xFFFF, 1 < (((hd 2).part 0).handle 3).ref.toNat,
      (((hd 1).part 0).handle 3).ref = 1 ∧ (((hd 1).part 0).handle 3).held ∧ (((hd 1).part 0).handle 3).res = 0 ∧ (((hd 1).part 0).handle 3).src = none,
      tagged.me.tag.isSome, (hd 1).me.tag = none ∧ (hd 1).me.tagRet = none, (0x8000000000000003 : Word).extractLsb' 12 52 = 1#52 <<< 51,
      recRefused A false = false ∧ sizeClass (Rec.fmt A) = 3,
      okC (z.checkUnits (cx z) A 8 3 .load ((earlyRegs 0x10).map fun (i : Nat) => (8 * i : Int))) fun us =>
        (z.loadNow (placeUnits (z.thruOf 0 A false) 0 us)).isSome && us.length = 1] : List Bool).all id = true := by decide +kernel

/-- A set of one stage for 5,000 records. -/
def oneSet : BoltSet :=
  { salt := 7, n := 1, fx := false, cw := 0, cwCore := 0, codes := [0x1000], frames := [5], weights := [1], count := 5000, level := 0, core := 0, rank := 0,
    pc := 0, seals := [], records := [], stats := [], by_ := 0, launches := [] }
def bs (f : BoltSet → BoltSet) : State := pt (fun p => { p with sets := [(3, f oneSet)] }) s0

theorem meets_BolterSets :
    let R := brec 0x3000 0x80 3 1 16 1 8
    let w := fun (s : State) (n : Nat) => if n < 36 then BitVec.ofNat 64 (Memory.readN s.mem (s.localHome 0x1FEE0 + 8 * n) 8) else 0
    let nine := loc 0x1FEE8 8 9 s0
    let run := fun (fx : Bool) (id : Nat) => me (fun x => { x with task := { x.task with role := .stage 3 id 0, path := oneSet.path id 0 0 } })
      (bs fun b => { b with fx := fx, records := [(id, { done := 0, running := some 0 })] })
    let three := bs fun b => { b with count := 0x10000, records := (List.range 4).map fun i => (4096 * i, { done := 1, running := none }) }
    let get := fun (s : State) => (s.part 0).set? 3
    ([recRefused (1#256 <<< 203) false, s0.Settled ∧ recRefused R false = false ∧ inLocal 0x1FEE0 288 ∧ (0x1FEE0 : Word).toNat % 32 = 0, nine.badSet (w nine) R,
      s0.badSet (w s0) R = false ∧ s0.checkCw 0 0 (w s0 2) = none, 16 ≤ (16 : Word).toNat, get s0 = none, (15 : Word).toNat < 16 ∧ (get (bs id)).isSome,
      oneSet.count ≤ 5000 ∧ 4999 < oneSet.count, (get (run false 4)).any fun b => b.records.has 4, oneSet.records.has 4 = false ∧ oneSet.mayPut 1 ∧ s0.Released,
      (get three).any fun b => b.mayPut 3, (bs id).myStage 3 4 = none, (run false 4).myStage 3 4 = some 0, 2 < (3 : Word).toNat,
      (get (run true 0)).any fun b => b.fx && b.turn 0 0, (get (run true 4)).any fun b => b.fx && !b.turn 4 0, (get (bs id)).any fun b => !b.fx,
      0 < 16 ∧ ({ oneSet with count := 0 } : BoltSet).complete 0 ∧ sizeClass (Rec.fmt R) = 3, { oneSet with count := 1, records := [(0, { done := 1, running := none })] }.complete 0,
      okC (s0.checkUnits (cx s0) R 8 3 .store ((List.range 16).map fun (i : Nat) => (8 * i : Int))) fun us =>
        us.all fun u => match u with | some ([q], _) => !special q && !ownPort 0 q && !s0.stagingBusy q | _ => false] : List Bool).all id = true := by decide +kernel

/-- A launch in flight of descriptor 0x2000 with one tile. -/
def assay (v : Option Bool) : Assay :=
  { id := 5, desc := 0x2000, sur := 3, chk := 3, exa := 3, tol := 0, tile := 0, unit := 4, cw := 0, frame := 0,
    tiles := [{ sDone := false, cDone := false, verdict := v, exact := false, eDone := false, published := false, hold := [] }], opened := 1, by_ := 9, core := 0,
    rank := 0, pc := 0, level := 0, prio := 0, seals := [], path := 0, ord := 0, launches := [] }

theorem meets_GuardedLaunches :
    let R := brec 0x1000 0x100 2 1 4 1 4
    let out := brec 0x3FFF8 0x100 2 1 4 1 4
    let s := pt (fun p => { p with shreg := 1 <<< 48 }) (loc 0x2000 8 0x000300030003 (hd 1))
    let dead := loc 0x2000 8 4 s
    let odd := loc 0x2000 8 0x000300031003 s
    let fresh := fun (s : State) => (s.part 0).assays.all fun y => decide (¬ (y.by_ = s.cur ∧ y.pc = s.me.pc ∧ y.opened < y.tiles.length))
    let get := fun (s : State) (f : State → Word → Bool) => okC (s.recParts .load 0x2000) fun ps => match s.loadNow ps with
      | some (t, vs) => f t (BitVec.ofNat 64 (vs.getD 0 0)) | none => false
    let live := fun (t : State) (h : BitVec 12) => decide (((t.part 0).handle h).ref ≠ 0)
    let with_ := fun v => pt (fun p => { p with assays := [assay v] }) (me (fun x => { x with task := { x.task with role := .tile 5 0 1 } }) s0)
    ([fresh s && s.me.soReady, (soOut s).me.soReady = false, get dead fun t w => !live t (w.extractLsb' 0 12), get odd fun t w => live t (w.extractLsb' 0 12) && live t (w.extractLsb' 16 12) && live t (w.extractLsb' 32 12) && w &&& 0xFFF8F000F000F000 ≠ 0,
      get s fun t w => live t (w.extractLsb' 0 12) && live t (w.extractLsb' 16 12) && live t (w.extractLsb' 32 12) && w &&& 0xFFF8F000F000F000 = 0
        && (t.checkCw 0 0 0).isNone && !recRefused R false && Rec.dim1 R = 1 && 0 ≤ Rec.stride0 R
        && okE (t.effective (cx t) R) fun E => okE (tileRecord R (unitBytes (Rec.fmt E)) 0) fun r => tilesLeave R [r] = none &&
          okC (t.tilesCheck (cx t) [] [r]) (fun _ => true) && (t.part 0).assays.length < 64 && t.Released && (t.part 0).shadowFits (shKeyOf 0 r) && (t.part 0).assays = [],
      get s fun t _ => okE (t.effective (cx t) out) fun E => okE (tileRecord out (unitBytes (Rec.fmt E)) 0) fun r => (tilesLeave out [r]).isSome && Rec.dim1 out = 1
        && !recRefused out false,
      s0.me.task.role ≠ .tile 5 0 1, (with_ none).me.task.role = .tile 5 0 1 ∧ (((with_ none).part 0).assays.find? fun q => q.id = 5) = some (assay none),
      (assay (some true)).tiles.all fun z => z.verdict.isSome, (assay none).tiles.all fun z => z.verdict = none,
      ((with_ none).part 0).assays.any fun y => y.desc = 0x2000, (s0.part 0).assays = [] ∧ s0.Settled,
      okR (s0.routeScalar (cx s0) .load (0x2000 + 0x18) 8) fun q => !ownPort 0 q && s0.Takes q] : List Bool).all id = true := by decide +kernel

/-! ### Steps of the device -/

def aliasPart (off : Nat) (size : Nat := 8) : Part1 := ⟨coreAddr 0 off, BitVec.ofNat 64 off, size, .alias_, .uo, false, none, 0, none, false, 0⟩
def pagePart : Part1 := ⟨2 ^ 32, 0x100000, 8, .translated, .rc, true, none, 0, none, false, 0⟩
def portPart (off : Nat) : Part1 := { aliasPart off with name := .mesh, va := slot0 off }
def aOut (p : Part1) : Out := ⟨p, 5, none, 1⟩
def aLine (dirty : BitVec 64) : Line := { data := 7, dirty := dirty, page := 2 ^ 32, pte := none, rc := true }
/-- Strand 0 with accesses that are not performed, and with stores in its outbox. -/
def pends (l : List Pend) (s : State := s0) : State := me (fun x => { x with pend := l }) s
def outs (l : List Out) (s : State := sV 2 s0) : State := me (fun x => { x with out := l }) s
/-- A part of a pool and its neighbour: one SO access of two parts. -/
def soPart (i : Nat) : Part1 := { portPart 0x1000 with va := slot0 (0x30000000 + 8 * i), key := poolAddr 0 (8 * i), kind := .so, pos := 64 * i }

theorem meets_EntrySteps :
    let a := aliasPart 0x1000
    let q := aPend a
    let own := aPend (portPart 0x1000)
    let so := { aPend (soPart 0) with parts := [soPart 0, soPart 1] }
    let store := { q with store := some none, got := 5 }
    let rel := { own with store := some (some 4), got := 5 }
    let req : AtomReq := ⟨.add, 1, 0, 4, 5, 0, 0x100⟩
    let inPort := fun (e : PortEntry) (l : List Pend) => me (fun x => { x with port := [e], pend := l }) s0
    let free := fun (e : PortEntry) (l : List Pend) =>
      decide ((inPort e l).me.port[0]? = some e) && !(s0.core 0).boarded ((localOffset 0 e.at_).getD 0) e.at_.size (e.val.isSome || (inPort e l).me.portAtom e)
    let at_ := { own with parts := [], ported := 1, atom := some req }
    let key := shKeyOf 0 (brec 0x1000 0x100 2 2)
    let shadowed := pt (fun p => { p with shadows := [.new key] }) (inPort ⟨{ portPart 0x1000 with thru := some key }, some 5, 0⟩ [])
    ([(pends [q]).me.pend[0]? = some q ∧ q.atom = none ∧ q.store = none ∧ q.parts[0]? = some a ∧ a.kind ≠ .so ∧ (pends [q]).pendWaits 0 0 q a false = false
        ∧ (pends [q]).sleeps a = false ∧ (pends [q]).joins 0 a = false ∧ q.ported = 0,
      ({ q with ported := 1 } : Pend).ported ≠ 0, (pends [own]).joins 0 (portPart 0x1000) ∧ (pends [own]).pendWaits 0 0 own (portPart 0x1000) false = false,
      (soPart 1).samePage (soPart 0) ∧ so.lanes = false ∧ so.parts.all fun b => !(pends [so]).pendWaits 0 0 so b false && !(pends [so]).sleeps b
        && !(pends [so]).joins 0 b,
      ({ so with lanes := true } : Pend).parts.take 0 = [],
      store.store = some none ∧ store.need = [] ∧ (pends [store]).pendWaits 0 0 store a true = false ∧ (pends [store]).portWaits 0 1 none a = false ∧ ownPort 0 a = false,
      rel.parts.all fun p => ownPort 0 p && !(pends [rel]).pendWaits 0 0 rel p true && !(pends [rel]).portWaits 0 rel.id (some 4) p,
      ({ store with need := [⟨.s 3, 7, 0⟩] } : Pend).need ≠ [], free ⟨portPart 0x1000, some 5, 0⟩ [], free ⟨portPart 0x1000, none, 1⟩ [own], free ⟨portPart 0x1000, none, 1⟩ [at_],
      (inPort ⟨portPart 0x1000, none, 1⟩ [at_]).me.portAtom ⟨portPart 0x1000, none, 1⟩, at_.atom = some req,
      s0.shadowTakes 0 none = none, shadowed.shadowTakes 0 (some key) = some (.new key)] : List Bool).all id = true := by decide +kernel

theorem meets_DrainSteps :
    let o := aOut pagePart
    let s := outs [o]
    let may := fun (s : State) (go : List Out) => go.all fun q => q.at_.thru.isNone && !s.swapBytes 0 q.at_.key q.at_.size && !special q.at_
      && !s.sleeps q.at_ && !s.stagingBusy q.at_ && (decide (q.at_.name ≠ .alias_) || !(s.core 0).boarded q.at_.va.toNat q.at_.size true)
    let uo := { aOut { pagePart with kind := .uo } with rel := some 4 }
    let so := [aOut (soPart 0), aOut (soPart 1)]
    ([s.me.out[0]? = some o ∧ may s [o], may (outs [aOut (aliasPart 0x1000)]) [aOut (aliasPart 0x1000)], pagePart.cached,
      ((s.tlbFor 0 0 pagePart).any fun e => ((((s.fillFor 0 0 pagePart e).core 0).line pagePart.key).isSome)),
      (outs [{ o with rel := some 4 }]).strlReady 0 1 4, (outs [uo]).backHeld 0 = false ∧ may (outs [uo]) [uo], (4 : BitVec 3) ≠ 0,
      so.all fun q => q.id = 1 && q.at_.kind = .so && q.at_.samePage (soPart 0)] : List Bool).all id = true := by decide +kernel

theorem meets_OtherSteps :
    let line := fun (l : Line) => co (fun c => { c with lines := [(2 ^ 32, l)] }) s0
    let fenced := fun (f : Fence) (o : List Out) => me (fun x => { x with fences := [(9, f)], out := o }) s0
    let first := fun (s : State) => s.me.fences.find? fun g => s.fenceDone 0 g.1 g.2
    let req : AtomReq := ⟨.add, 1, 0, 4, 5, 0, 0x100⟩
    let atom := { aPend (aliasPart 0x1000) with atom := some req }
    let own := { aPend (portPart 0x1000) with atom := some req }
    let free := fun (q : Pend) (a : Part1) => decide (q.parts = [a] ∧ q.parked = false ∧ q.need = []) && !(pends [q]).pendWaits 0 0 q a false
      && !(pends [q]).pendWaits 0 0 q a true && !(pends [q]).sleeps a
    ([((sV 2 s0).core 0).tlb = [page 2] ∧ Pte.frame (page 2).lo = 2 ^ 32 ∧ Pte.ord (page 2).lo ≠ 0 ∧ (2 ^ 32 + 0xFFC0) % 64 = 0 ∧ (s0.core 0).line (2 ^ 32) = none,
      ((line (aLine 0)).core 0).line (2 ^ 32) = some (aLine 0), ((line (aLine 1)).core 0).line (2 ^ 32) = some (aLine 1) ∧ (aLine 1).dirty ≠ 0
        ∧ (line (aLine 1)).lineHeld 0 (2 ^ 32, aLine 1) = false,
      s0.me.st ≠ .free ∧ s0.me.fbuf.length < 8 ∧ ((match s0.fetchWord 0 0x100 with | .word _ _ => true | _ => false) : Bool),
      free atom (aliasPart 0x1000) ∧ (pends [atom]).atomHeld 0 (aliasPart 0x1000) = false ∧ ownPort 0 (aliasPart 0x1000) = false,
      free own (portPart 0x1000) ∧ ownPort 0 ((pends [own]).uncopied own.win (portPart 0x1000)),
      first (fenced (.fence 4) []) = some (9, .fence 4), first (fenced .lbfenc []) = some (9, .lbfenc), first (fenced .ifenc []) = some (9, .ifenc),
      first (fenced .efenc []) = some (9, .efenc), first (fenced (.fence 0) [aOut pagePart]) = none,
      first (me (fun x => { x with fences := [(8, .lbfenc), (9, .fence 0)], pend := [{ aPend (aliasPart 0x1000) with id := 7 }] }) s0) = none,
      first (me (fun x => { x with fences := [(8, .lbfenc), (9, .ifenc)], pend := [{ aPend (aliasPart 0x1000) with id := 7 }] }) s0) = some (9, .ifenc)] : List Bool).all id = true := by decide +kernel

/-- A copy of four words between two places of local memory, as command 7 of channel 0. -/
def aCopy (src dst : BRec) : Cmd := { s0.newCmd (.copy 0 src dst false 1 0 0) 0 with id := 7, level := 0 }
def src4 : BRec := brec 0x1000 0x10 2 1 4 1 4
def dst4 : BRec := brec 0x2000 0x10 2 1 4 1 4
def run (c : Cmd) (s : State := s0) : State := { s with cmds := [c] }

theorem meets_CommandSteps :
    let c := aCopy src4 dst4
    let got := { c with got := (List.range 4).map fun i => (i, (5 : Word)) }
    let done := { got with wrote := (List.range 4).map fun i => (i, ()) }
    let bad := aCopy (brec 0x1000 4 2 1 4 1 4) dst4
    let badW := { aCopy src4 (brec 0x2000 0 2 1 4 1 4) with got := got.got }
    let void := aCopy (brec 0x200000 0x10 2 0 4 1 4) dst4
    let voidW := { aCopy src4 (brec 0x200000 0x10 2 0 4 1 4) with got := got.got }
    let lb := { s0.newCmd (.lbld (brec 0x1000 0x1000 19 1 4 4 16 64) 0) 0 with got := [(0, 0), (1, 0), (2, 0), (3, 0)] }
    let view := { Loom.reset with viewAct := ⟨1, 4, 0, 19, true⟩ }
    let gone := { s0.newCmd (.lmm accC src4 4 false 0 view.viewAct 0 4 true) 0 with level := 0 }
    let swap := s0.newCmd .lbswp 0
    let armed := { done with cw := 0x1003 }
    let ok := fun (s : State) (c : Cmd) acc p => match s.pieceRoute c acc p with | .ok a => !special a && !s.engineWaits 0 a (acc = .store) | _ => false
    let rows := fun (f : List (Nat × Unit)) =>
      { (sR s0).newCmd (.rwrite (brec 0x1000 0x20 2 1 4 2 4 16) (brec 0x2000 0x20 2 1 4 2 4 16) 1) 0 with
        id := 7, level := 0, got := (List.range 8).map fun i => (i, (5 : Word)), wrote := f }
    let row1 := rows ((List.range 4).map fun i => (i, ()))
    let fails := fun (s : State) (c : Cmd) acc p b => match s.pieceRoute c acc p with | .fail _ _ q => q == b | _ => false
    let sM := fun (s : State) => pt (fun p => { p with ptreg := 0x0001000001000000, ptroot := 0x1000000 }) s
    let may := fun (c : Cmd) => (run c).cmd? c.id = some c ∧ (run c).mayStep c
    let req : AtomReq := ⟨.add, 1, 0, 4, 5, 0, 0x100⟩
    let held := { aPend (aliasPart 0x1000) with atom := some req, parked := true }
    let queue := fun (q : Parked) => pt (fun p => { p with parkq := [⟨q, true⟩] }) (run c (me (fun x => { x with pend := [held] }) s0))
    ([({ s0 with issued := [c] } : State).issued.find? (fun c => c.by_ = 0) = some c ∧ s0.viewHolds c ∧ s0.boardRoom (s0.ranges c),
      s0.viewHolds gone = false, may c ∧ 0 < c.op.readCount ∧ c.got.has 0 = false ∧ c.readReady 0 ∧ s0.bitmapGone c = false, s0.bitmapGone gone,
      ok s0 c .load (c.op.readPiece 0), fails s0 bad .load (bad.op.readPiece 1) false,
      s0.pieceRoute (aCopy (brec 0x1000 4 2 1 4 1 4 0 2) dst4) .load ((aCopy (brec 0x1000 4 2 1 4 1 4 0 2) dst4).op.readPiece 1) = .dropped,
      may got ∧ got.writeReady 0 ∧ got.op.landing 0 = none ∧ ok s0 got .store (got.op.writePiece 0) ∧ s0.rowReady got 0
        ∧ s0.engineShadow got ((got.op.writePiece 0).key 0) = none ∧ s0.lands = [] ∧ (rows []).op.rows ∧ ((rows []).rowParked 4).2 = false,
      (sR s0).rowReady row1 4 ∧ row1.writeReady 4 ∧ row1.rowsWritten 4 ∧ ok (sR s0) row1 .store (row1.op.writePiece 4) ∧ row1.op.landing 4 = some 1
        ∧ (sR s0).messagesBefore row1 1 = false,
      (sR s0).rowReady (rows []) 4 = false ∧ (rows []).writeReady 4 ∧ ok (sR s0) (rows []) .store ((rows []).op.writePiece 4),
      (run lb).mayStep lb ∧ lb.writeReady 0, badW.writeReady 0 ∧ fails s0 badW .store (badW.op.writePiece 0) false,
      (run done).atHead done ∧ done.parked = [] ∧ done.taken ∧ (run done).mayStep done,
      armed.taken ∧ cwValid armed.cw ∧ cwRemote armed.cw = false ∧ s0.net = [] ∧ 1 < ((s0.setCell 0 3 { Cell.zero with count := 2 }).cell 0 3).count.toNat,
      (run swap).cmd? swap.id = some swap ∧ (run swap).mayStep swap,
      (sM s0).walk 0 0x200000 = .invalid ∧ fails (sM s0) void .load (void.op.readPiece 0) true ∧ (sM s0).parkRoom 0 0x200000,
      fails (sM s0) voidW .store (voidW.op.writePiece 0) true ∧ voidW.writeReady 0,
      ((queue (.piece 7 0 0x1000)).part 0).parkq[0]? = some ⟨.piece 7 0 0x1000, true⟩ ∧ (queue (.piece 7 0 0x1000)).cmd? 7 = some c,
      (match (queue (.piece 7 0 0x1000)).pieceRoute c .load (c.op.readPiece 0) with | .ok a => !(queue (.piece 7 0 0x1000)).engineWaits 0 a false | _ => false),
      ((queue (.atomic 0 (aliasPart 0x1000) req [] 2)).me.pend.find? (fun q => q.parked && q.atom = some req && q.parts = [aliasPart 0x1000])) = some held,
      (let s := queue (.atomic 0 (aliasPart 0x1000) req [] 2)
       okR (s.route ⟨0, 0, 2, []⟩ .atomic 0x1000 8 0) fun p => !s.pendWaits 0 0 held p false && !s.pendWaits 0 0 held p true && !s.atomHeld 0 p)]
        : List Bool).all id = true := by decide +kernel

theorem meets_ShadowSteps :
    let k := shKeyOf 0 src4
    let h : Shadow := { Shadow.new k with closed := true }
    let y : Shadow := { h with bytes := [(2 ^ 32, 5)], vas := [(2 ^ 32, 0x100000)] }
    let s := fun (w : Wait) (l : List Shadow) => pt (fun p => { p with shadows := l, shreg := 1 <<< 48 }) (me (fun x => { x with wait := w }) s0)
    let none_ := assay none
    let z0 : Tile := ⟨true, true, some true, false, false, false, []⟩
    let z1 : Tile := ⟨false, false, none, false, false, false, []⟩
    let tile := fun (f : Tile → Tile) => { none_ with tile := brec 0x1000 0x10 2 1 4 1 4, tiles := [f z0, z1] }
    let st := s0.coreHalted 0 = false
    let sealed := fun (s : State) => co (fun c => { c with tlb := [{ page 2 with lo := (page 2).lo ||| 0x4000000, key := 8 }] }) s
    ([st ∧ (s (.publ k) [h]).shadowOf 0 k = some h ∧ (s (.publ k) [h]).shadowSettled 0 h true ∧ (s .none [h]).lacks 0 0 h [] = none,
      (s (.publ k) [y]).shadowSettled 0 y true ∧ (sealed (s .none [y])).lacks 0 0 y [] = some 0x100000,
      (s (.disc k) [h]).me.wait = .disc k ∧ (s (.disc k) [h]).shadowSettled 0 h false, (me (fun x => { x with st := .parked }) (s (.shadow k) [])).me.st = .parked ∧ ((s (.shadow k) []).part 0).shadowFits k,
      (tile fun z => { z with verdict := some false }).tiles[0]?.any fun z => !z.published && !z.exact && z.sDone && z.cDone && decide (z.verdict ≠ some true),
      (tile id).tiles[0]? = some z0,
      (s .none [{ h with key := shKeyOf 0 ((tile id).tileRec 0) }]).shadowOf 0 (shKeyOf 0 ((tile id).tileRec 0)) = some { h with key := shKeyOf 0 ((tile id).tileRec 0) },
      (tile fun z => { z with verdict := some false }).tiles[0]?.all fun z => z.verdict ≠ some true, 0 < (tile id).opened ∧ (s .none [h]).lacks 0 (tile id).core h (tile id).seals = none
        ∧ (s .none [h]).publishHeld 0 h = false ∧ (tile id).tiles[1]? = some z1 ∧ z1.published = false]
        : List Bool).all id = true := by decide +kernel

/-- An item for rank 2, at strand 0 of core 1. -/
def item (b : Body) : Msg := { id := 3, ord := 3, sender := 0, rank := some 2, dest := 16, counted := true, held := false, for_ := none, stays := false, body := b }
def sent (m : Msg) : State := { sR s0 with net := [m] }

theorem meets_NetworkSteps :
    let dec := item (.decrement 3 1 [7] none false)
    let stopped := fun (m : Msg) => pt (fun p => { p with gang := some 1 }) (sent m)
    let moved := far (table + 8) 4 (placeEntry 1 32).toNat ((sent dec).modStrand 16 fun x => { x with st := .free, fwd := some 32 })
    let again := ({ moved with net := [] } : State).modCore 1 fun c => { c with strands := 1 }
    let free := s0.modStrand 16 fun x => { x with st := .free }
    ([(co (fun c => { c with ni := [(2, 0)] }) s0).myCore.ni.any fun e => e.1 = 2, (sent dec).net[0]? = some dec ∧ (sent dec).deliverable 0 dec,
      (stopped dec).deliverable 0 dec ∧ (stopped dec).coreHalted 1 ∧ dec.held = false, ((sent dec).payloadOf 1).countP (·.slot.isNone) + 1 ≤ 512, inCore (((sR s0).core 1).queues.get 2) < 16,
      (sent dec).coreHalted 1 = false ∧ (sent dec).payloadRoom 1 1
        ∧ (1 : BitVec 8).toNat < (((sent dec).setCell 1 3 { Cell.zero with count := 2 }).cell 1 3).count.toNat,
      (sent { item (.record (aRec 2)) with rank := none }).deliverable 0 { item (.record (aRec 2)) with rank := none } ∧ ((sR s0).core 1).hasRoom 2,
      (sent (item (.entry 3 7))).deliverable 0 (item (.entry 3 7)), (sent (item (.handover 7 0 0 0x100))).deliverable 0 (item (.handover 7 0 0 0x100))
        ∧ ((sR s0).strand 16).freeSeal = some 0,
      (moved.strand 16).fwd = some 32 ∧ moved.movedOn dec ∧ (moved.strand 16).st ≠ .moving, ({ moved with net := [] } : State).net = [],
      ((moved.modCore 1 fun c => { c with strands := 0 }).core 1).strands.getLsbD 0 = false, (again.core 1).strands.getLsbD 0 ∧ (again.strand 16).st = .free ∧ (again.setStrand 16 { again.strand 16 with fwd := none }).frameTaken 16 = false,
      free.partOf 0 ≠ 8 ∧ free.partOfCore 1 = free.partOf 0 ∧ (free.core 1).stage = (free.core 0).stage ∧ free.me.st = .ready ∧ free.me.wait.movable
        ∧ free.settled 0 ∧ free.me.fwd = none ∧ free.coreHalted 0 = false ∧ free.backHeld 0 = false ∧ free.freeFrame 1 = some 16,
      (me (fun x => { x with st := .moving, fwd := some 16 }) s0).me.fwd = some 16] : List Bool).all id = true := by decide +kernel

theorem meets_SchedulerSteps :
    let q := fun (core : Nat) (p : Fin 4) => s0.modCore core fun c => { c with queues := c.queues.set p.val [aRec 2] p.isLt }
    let w := s0.modStrand 1 fun x => { x with st := .ready, resident := false }
    let irq := me (fun x => { x with irq := some 5, csr := { x.csr with tstat := 1 } }) s0
    let idle := me (fun x => { x with st := .idle }) s0
    let g := fun (n : BitVec 2) => co (fun c => { c with gate := n }) s0
    ([(q 0 2).runs 0 ∧ ((q 0 2).core 0).topQueue = some 2 ∧ ((q 0 2).core 0).queues.get 2 = [aRec 2] ∧ ((q 0 2).idleStrand 0).isSome,
      ((q 0 2).core 0).hasRoom 3 ∧ ((2 : Fin 3).castSucc = (2 : Fin 4)), (q 1 3).runs 0 ∧ ((q 1 3).part 0).dmode = false ∧ ((q 1 3).core 0).topQueue = none
        ∧ (q 1 3).idleStrand 0 ≠ none ∧ ((List.range 47).map fun i => (i + 1) % 48).findSome? (fun v => ((q 1 3).core v).stealable.map fun y => (v, y)) = some (1, 3, 0, aRec 2), inCore (((q 0 2).core 0).queues.get 3) < 16,
      w.waiting 0 = [1] ∧ w.residents 0 < 4, (w.modStrand 0 fun x => { x with st := .idle }).me.resident ∧ (w.modStrand 0 fun x => { x with st := .idle }).waiting 0 ≠ [], (me (fun x => { x with st := .blocked }) s0).me.slow = false,
      (me (fun x => { x with wait := .wfi }) s0).me.wait = .wfi, irq.interrupted 0 ∧ (irq.core 0).cmtvec = 0,
      (co (fun c => { c with cmtvec := 0x600 }) irq).interrupted 0, (co (fun c => { c with gateReq := true }) idle).gateReady 0, (g 1).myCore.gate = 1 ∧ (g 1).backHeld 0 = false, (g 2).myCore.gate = 2 ∧ ((me (fun x => { x with resident := false }) (g 2)).strand 0).waits,
      ({ g 2 with net := [{ item (.record (aRec 2)) with dest := 0 }] } : State).net.any fun m => coreOf m.dest = 0, (g 3).myCore.gate = 3] : List Bool).all id = true := by
  decide +kernel

/-- Page tables from 2^24: the page of 0x100000 at 2^40, tier 1; its entry is at 0x100C100. -/
def sT (tier : Nat) (frame : Nat) (s : State := s0) : State :=
  far 0x1000000 8 (1 + 0x401 * 2 ^ 32) (far 0x1004000 8 (1 + 0x402 * 2 ^ 32) (far 0x1008000 8 (1 + 0x403 * 2 ^ 32)
    (far 0x100C100 8 (0xB3 + 2 ^ 17 + 2 * 2 ^ 19 + tier * 2 ^ 28 + frame / 2 ^ 14 * 2 ^ 32)
      (pt (fun p => { p with ptreg := 0x0001000001000000, ptroot := 0x1000000 }) s))))

theorem meets_TableSteps :
    let s := sT 1 (2 ^ 40)
    let pend := fun (s : State) => { s with ptePend := [(0, 0x100C100)] }
    let hotP := pt (fun p => { p with tierctl := 0x0000000000000101 }) s
    let hot := fun (s : State) => (s.part 0).tierctl.getLsbD 0 ∧ ((s.part 0).tierctl.extractLsb' 48 16).toNat ≤ 1 ∧ Pte.tier (s.pteLo 0x100C100) = 1
      ∧ ((s.leaves 0).find? (fun l => l.2 = 0x100C100)).any fun l => s.movable 0 l.1 0x100C100
    let two := far 0x100C110 8 (0xB3 + 2 ^ 17 + 2 * 2 ^ 19 + 0x40000 * 2 ^ 32) (pt (fun p => { p with swap := some (0x100C100, 0x100C110) }) s)
    let clear := fun (e f : Nat) => e + 8 ≤ f ∨ f + 0x10000 ≤ e
    ([s.partOfCore 0 ≠ 8 ∧ (s.core 0).gate.toNat < 2 ∧ vaRegion 0x100000 = .translated ∧ (s.part 0).ptreg.extractLsb' 48 16 ≠ 0,
      (s.walkVia 0 0x100000 (s.die (s.walkHome 0 0x100000)).walk 4 1 (s.part 0).ptroot.toNat []).isSome, s.ptePend.countP (· = (0, 0x100C100)) = 0,
      ((pt (fun p => { p with saved := some { mask := 1, strands := [], cores := [], cells := [], clusters := [], dies := [], looms := [], chans := [], cmds := [], net := [], spilled := 0 } }) s).part 0).saved.isSome,
      (pend s).ptePend.countP (· = (0, 0x100C100)) ≠ 0 ∧ s.baseLeaf 0 0x100C100, s0.baseLeaf 0 0x100C100 = false, ¬ hot s, hot hotP ∧ (hotP.part 0).swap = none
        ∧ (hotP.part 0).victims = [], (two.part 0).swap.isSome ∧ 0x100C100 ∉ (two.part 0).cands ∧ (two.part 0).cands = [],
      hotP.leaves 0 = [(0x100000, 0x100C100)] ∧ ((hotP.part 0).tierctl.extractLsb' 48 16).toNat ≤ Pte.cnt (hotP.pteHi 0x100C100) / 2 ∧ hotP.movable 0 0x100000 0x100C100,
      (s.part 0).mask ≠ 0 ∧ (s.part 0).tierctl.extractLsb' 8 24 ≠ 0 ∧ s.leaves 0 = [(0x100000, 0x100C100)],
      (two.part 0).swap = some (0x100C100, 0x100C110) ∧ two.frameBusy 0 (2 ^ 40) = false ∧ two.frameBusy 0 (2 ^ 32) = false, two.MemWf ∧ two.fqBase 0 = none,
      clear 0x100C100 (2 ^ 40) ∧ clear 0x100C100 (2 ^ 32) ∧ clear 0x100C110 (2 ^ 40) ∧ clear 0x100C110 (2 ^ 32)] : List Bool).all id = true := by decide +kernel

theorem meets_LaunchSteps :
    let up := { s0 with io := { s0.io with stage := 3 } }
    let l : Launch := { id := 5, packet := packet, by_ := none, path := 0, ord := 0, cwCore := 0, rank := 0, pc := 0, outer := [], slot := 0, boot := false }
    let at_ := fun (l : Launch) => pt (fun p => { p with launches := [l] }) up
    let here := { l with packet := packet ||| (0x1000#512 <<< 64) }
    let pool := { l with packet := packet ||| (0xFFFFFFFF#512 <<< 160) }
    let code := loc 0x3000 4 0xB8000020 s0
    let f : ForgeReq := { strand := 0, part := 0, index := 3, code := 0x3000, size := 4, map := 0, src := none, args := [], steps := 16, insns := 16, d := 4 }
    let win := pt (fun p => { p with fcreg := 0x1000000001000000 }) (far 0x100D000 8 (0xB3 + 2 ^ 17 + 2 * 2 ^ 19 + 0x40000 * 2 ^ 32)
      (sT 0 (2 ^ 33) (me (fun x => { x with wait := .forge }) code)))
    let boltz := bs fun b => { b with records := [(0, BoltRec.new)] }
    let bolt := { oneSet with records := [(0, BoltRec.new)] }
    let y := at_ l
    let path : HostPath := { link := false, ide := false }
    ([(s0.part 0).saved = none ∧ s0.deaf path 0, up.deaf path 0 = false ∧ up.packetRefused 0 packet 1 = false ∧ up.packetSpawn 0 (up.lead 0 * 48) packet = none,
      up.packetRefused 0 0 1, up.fqBase 0 = none, 32767 < 32768 ∧ 32768 * 64 - 1 < 32768 * 64, (y.part 0).launches = [l] ∧ (pktPool packet + 0xFFFF) / 0x10000 = 0,
      (pktPool pool.packet + 0xFFFF) / 0x10000 ≠ 0 ∧ (packetClusters pool.packet).any fun c => (up.cluster c).unreserved < (pktPool pool.packet + 0xFFFF) / 0x10000,
      packetCopies here.packet = [(0, 0, 0x1000)] ∧ ((match ((at_ here).setLaunch 0 { here with runs := some [] }).poolRoute 0 here.packet 0 0x1000 with | .ok a => !special a && !(at_ here).engineWaits 0 a true | _ => false) : Bool)
        ∧ l.next = 0 ∧ l.stuck = false ∧ l.runs = none, { l with boot := true }.boot,
      (s0.die 0).forge = [] ∧ s0.me.wait ≠ .forge, win.me.wait = .forge ∧ ((match win.forge f with | .ok out _ stop _ _ => out.length = 1 && stop.isNone | _ => false) : Bool),
      ((hd 1).part 0).handle 3 |>.held, (s0.part 0).window.2 = 0, ((win.part 0).handle 3).held = false ∧ (win.part 0).window.2 ≠ 0 ∧ (win.part 0).freeRun 4 = some 0x1000000
        ∧ ((match (win.forgeCount f).writeResidual 0 0 0x1000000 [0xB8000020] with | .ok _ => true | _ => false) : Bool) ∧ f.src = none,
      (boltz.part 0).set? 3 = some bolt ∧ bolt.records.has 0 ∧ bolt.over BoltRec.new = false ∧ (List.range 1).filter (fun k => !BoltRec.new.done.getLsbD k) = [] ++ 0 :: [],
      (let n := bolt.ticket 0 0 (boltz.stageDepth 0 3 0) false; 0 < n), 8 % 8 = 0 ∧ offRange 0 8 ∧ (pt (fun p => { p with pcwin := 1 }) s0 |>.part 0).pcwin.getLsbD 0,
      s0.swapBytes 0 8 8 = false, offRange (0xFF * 2 ^ 36) 8 = false, 2 ^ 36 < 2 ^ 36 - 4 + 8, vaRegion 0x1000 ≠ .translated] : List Bool).all id = true := by decide +kernel

theorem meets_StopSteps :
    let stopped := pt (fun p => { p with gang := some 1 }) s0
    let sig := co (fun c => { c with sig := 1, cdbg := 2 ^ 32 }) s0
    let pair := fun (x y : BitVec 256) => ((s0.modPart 0 fun p => { p with slots := [(7, x)] }).modPart 1 fun p => { p with mask := 2, slots := [(7, y)] }).modCluster 0
      (fun c => { c with rpcfg := 0x11 }) |>.modCluster 16 fun c => { c with rpcfg := 1 }
    let c := aCopy src4 dst4
    ([(s0.part 0).mask ≠ 0 ∧ (s0.part 0).gang = none ∧ 0 ∈ s0.strandsOf 0 ∧ s0.me.st ≠ .free ∧ s0.me.st ≠ .moving ∧ s0.me.st ≠ .halted,
      (stopped.part 0).gang.isSome ∧ (stopped.part 0).saved = none, (s0.part 1).mask = 0, stopped.quietReady 0 ∧ (stopped.part 0).quiet = false,
      (sig.core 0).sig.getLsbD 0, 0 ∈ sig.touchedCores 0 ∧ (sig.core 0).cdbg.getLsbD 32,
      (pair 5 5).replicaPair 0 7 = some (1, 5, 5), (pair 5 6).replicaPair 0 7 = some (1, 5, 6) ∧ (5 : BitVec 256) ≠ 6,
      ((held60 s0).core 0).line 0x8005 = some ⟨7, 1, 0x8000, none, true⟩ ∧ lineAt 0x8005 = 0x8000 ∧ s0.partOfCore 0 = 0,
      s0.issuable 0, (run c).cmd? 7 = some c ∧ c.fail = none, s0.fqBase 0 = none, (0 : BitVec 3) ≠ 7 ∧ s0.partOfDie 0 < 8,
      (s0.cluster 0).cecnt ≠ BitVec.allOnes 32, ((s0.modCluster 0 fun c => { c with cecnt := BitVec.allOnes 32 }).cluster 0).cecnt = BitVec.allOnes 32]
        : List Bool).all id = true := by decide +kernel

theorem meets_RegisterSteps :
    let quiet := me (fun x => { x with st := .idle }) s0
    let stopped := pt (fun p => { p with gang := some 1 }) s0
    let st := fun (x : SState) => (me (fun y => { y with st := x }) s0).me.st
    let up := { stopped with io := { s0.io with stage := 3 } }
    let may := fun (s : State) (m : BitVec 8) => (List.range 8).all fun d =>
      (m.getLsbD d = false || s.partOfDie d = 8 || s.partOfDie d = 0) && (m.getLsbD d = (s.part 0).mask.getLsbD d || s.dieHalted d)
    let csr := fun (c : BitVec 12) => partKept c = true ∧ (csrLevels c).isSome ∧ c.toNat ≠ 0x221 ∧ c.toNat ≠ 0x72
    ([(s0.part 0).mask ≠ 0, quiet.quietFor 0 none, s0.quietFor 0 none = false, (s0.part 1).mask = 0, (0x10 : Word).extractLsb' 4 4 = 1, (0x20 : Word).extractLsb' 4 4 ≠ 1,
      ((0x0001000000000001 : Word).extractLsb' 32 16).toNat < ((0x0001000000000001 : Word).extractLsb' 48 16).toNat ∧ (s0.part 0).tierctl.getLsbD 0 = false,
      ((1 : Word).extractLsb' 48 16).toNat ≤ ((1 : Word).extractLsb' 32 16).toNat, s0.partOfCore 0 ≠ 8 ∧ s0.coreHalted 0 = false, stopped.coreHalted 0,
      (0x2 : Word).getLsbD 33 = false ∧ ((2 ^ 33 : Nat) : Word).getLsbD 33, (s0.wmwinValue 0 (0 ||| 0x0008000000000000)).isSome,
      s0.wmwinValue 0 (0x7000000000000000 ||| 0x0008000000000000) = none, (0 : Word).extractLsb' 3 2 ≠ 3 ∧ st .free = .free, st .halted = .halted ∧ (2 : Word).extractLsb' 0 3 = 2,
      (0x18 : Word).extractLsb' 3 2 = 3, st .ready ≠ .free ∧ st .ready ≠ .halted, ((pt (fun p => { p with tdi := .locked }) s0).part 0).locked,
      (up.part 0).locked = false ∧ (up.part 0).saved = none ∧ up.io.fail = 0 ∧ up.io.stage = 3 ∧ may up 3,
      (pt (fun p => { p with mask := 0 }) up |>.part 0).mask = 0 ∧ may (pt (fun p => { p with mask := 0 }) up) 1, csr 0x210, (up.part 0).gang = some 1,
      (s0.part 0).gang ≠ some 1, ((up.part 0).csrWrite 0x211 1 true).isSome ∧ ((up.part 0).csrWrite 0x210 1 true).isNone,
      (me (fun x => { x with dead := 1 }) s0).me.dead.getLsbD 0 ∧ (v 0 5 s0).me.dead.getLsbD 0 = false, partKept 0x221 ∧ (csrLevels 0x221).isSome,
      ((s0.modStrand 16 fun x => { x with st := .free }).strand 16).st = .free ∧ (s0.modStrand 16 fun x => { x with st := .free }).frameTaken 16 = false,
      up.packetRefused 0 (up.part 0).boot 2, up.packetRefused 0 packet 2 = false ∧ up.packetSpawn 0 (up.lead 0 * 48) packet = none] : List Bool).all id = true := by
  decide +kernel

theorem meets_RegisterSteps_boot :
    let up := pt (fun p => { p with gang := some 1 }) s0
    let here := packet ||| (0x1000#512 <<< 64)
    let pool := packet ||| (0xFFFFFFFF#512 <<< 160)
    ([up.packetRefused 0 pool 2 = false ∧ up.packetSpawn 0 (up.lead 0 * 48) pool = none, (up.part 0).launches = [],
      (pktPool pool + 0xFFFF) / 0x10000 ≠ 0 ∧ (packetClusters pool).any fun c => (up.cluster c).unreserved < (pktPool pool + 0xFFFF) / 0x10000,
      up.packetRefused 0 here 2 = false ∧ (pktPool here + 0xFFFF) / 0x10000 = 0 ∧ packetCopies here = [(0, 0, 0x1000)],
      ((match (pt (fun p => { p with boot := here }) up).launchAccept 0 0 here 2 true with
        | .ok s1 => (match (s1.part 0).launches with
          | [l] => let s2 := s1.setLaunch 0 { l with runs := some [] }
                   (match s2.poolRoute 0 here 0 0x1000 with | .ok a => !s2.engineWaits 0 a true && !special a | _ => false)
          | _ => false)
        | _ => false) : Bool) = true] : List Bool).all id = true := by
  decide +kernel

theorem meets_HostSteps :
    let io := fun (f : Io → Io) => { s0 with io := f s0.io }
    let data := fun (n : Nat) => (io fun x => { x with mbdata := bytesLe 8 n }).io.mbdata
    let cl := s0.partOfCore 0
    ([s0.io.mbrun = none, (io fun x => { x with mbrun := some (0, [1]) }).io.mbrun = some (0, [1]), ([0, 0, 0, 0, 0, 0, 0, 0, 0, 0] : List (BitVec 16)).length = 10,
      numLe ((data (2 ^ 26)).take 8) + (((data (2 ^ 26)).take 9).drop 8).length ≤ 2 ^ 26, numLe ((data (2 ^ 26 + 1)).take 8) + 0 > 2 ^ 26,
      8 ≤ 240 ∧ (7 < 8 ∧ 240 < 241), numLe ((data 5).take 8) ≤ 2 ^ 26, (s0.measured 1).isSome ∧ (s0.measured 11).isSome, s0.measured 12 = none ∧ s0.measured 0 = none,
      s0.io.fail = 0 ∧ s0.io.stage = 1, (io fun x => { x with stage := 2 }).io.stage = 2, (io fun x => { x with fail := 1 }).io.fail ≠ 0, (io fun x => { x with fail := 4 }).io.fail = 4 ∧ s0.io.fail ≠ 4, s0.MemWf,
      (s0.part 0).tdi = .unlocked ∧ (s0.part 0).mask ≠ 0, (pt (fun p => { p with tdi := .locked, tdiLink := true }) s0 |>.part 0).tdi = .locked,
      (pt (fun p => { p with tdi := .run }) s0 |>.part 0).tdi ≠ .unlocked, 300 ≤ ((1800 : Word).extractLsb' 0 12).toNat ∧ ((1800 : Word).extractLsb' 0 12).toNat ≤ 1800,
      ((1801 : Word).extractLsb' 0 12).toNat > 1800, cl ≠ 8] : List Bool).all id = true := by decide +kernel

theorem meets_LinkSteps :
    let ring := brec 0x100000 0x100 17 0
    let up := { sV 17 s0 with io := { s0.io with stage := 3 } }
    let n := ((List.range 12).find? fun n => up.portPart n = 0).getD 0
    let on := up.modPort n fun x => { x with up := true, en := true, rx := ring, tx := ring, rxn := 4, txn := 4, ready := [0] }
    let okP := fun (s : State) (acc : Acc) => ((match s.ringParts n ring acc (ringOffsets ring 0) with | .ok _ => true | .error _ => false) : Bool)
    let set_ := (up.modPort n fun x => { x with rxr := slot0 0x1000, txr := slot0 0x1000 })
    let placed := loc 0x1000 32 ring.toNat set_
    let moving := (sT 2 (2 ^ 40)).modPort n fun x => { x with rxr := 0x100000 }
    ([up.io.stage = 3 ∧ (up.slport n).up = false, 1 ≤ (8 : BitVec 4).toNat ∧ (8 : BitVec 4).toNat ≤ 8, on.swapBytes 0 (2 ^ 32) 16 = false ∧ (on.part 0).swap = none, s0.io.stage ≠ 3, (on.slport n).up ∧ (on.slport n).en ∧ up.portPart n = 0 ∧ (up.part 0).saved = none,
      (placed.slport n).en = false ∧ okR (placed.ringRoute 0 (slot0 0x1000)) (fun a => Memory.readN placed.mem a.key 32 = ring.toNat) ∧ ringBlocks ring = some 4,
      (faultR (up.ringRoute 0 0x500000) || invalidR (up.ringRoute 0 0x500000)) ∧ up.ringWaits 0 (slot0 0x1000) = false, moving.portHeld 0 n,
      (3 : BitVec 32).toNat < (on.slport n).txn ∧ (on.slport n).ready.contains 3 = false, (on.slport n).txn ≤ (4 : BitVec 32).toNat,
      (on.slport n).ready.contains (on.slport n).txNext ∧ okP on .load, ((on.slport n).rxNext - (on.slport n).cons).toNat < 4 ∧ okP on .store,
      ((on.modPort n fun x => { x with out := [(0, 7, 7)] }).slport n).out.any fun o => o.1 = 0] : List Bool).all id = true := by decide +kernel

theorem meets_VectorIntegers :
    let f := fun (w : IWord) => ((w.extractLsb' 26 6).toNat, (w.extractLsb' 21 5).toNat, (w.extractLsb' 11 5).toNat, (w.extractLsb' 3 5).toNat, (w.extractLsb' 0 3).toNat)
    ([f 0x98000064 = (0x26, 0, 0, 12, 4), f 0x98000868 = (0x26, 0, 1, 13, 0), f 0x99000080 = (0x26, 8, 0, 16, 0), (3 : BitVec 3).toNat < 4] : List Bool).all id = true := by
  decide +kernel

theorem meets_VectorTransfers :
    let f := fun (w : IWord) => ((w.extractLsb' 26 6).toNat, (w.extractLsb' 11 5).toNat, (w.extractLsb' 8 3).toNat, (w.extractLsb' 3 5).toNat, (w.extractLsb' 0 3).toNat)
    ([f 0xA8000108 = (0x2A, 0, 1, 1, 0), f 0xA8000F10 = (0x2A, 1, 7, 2, 0), f 0xA8000800 = (0x2A, 1, 0, 0, 0), f 0xA8000840 = (0x2A, 1, 0, 8, 0),
      f 0xB4000007 = (0x2D, 0, 0, 0, 7)] : List Bool).all id = true := by decide +kernel

theorem meets_MaskOperations :
    let w : IWord := 0xB0000000
    let f := fun (w : IWord) => ((w.extractLsb' 26 6).toNat, (w.extractLsb' 3 5).toNat)
    ([f w = (0x2C, 0), f (w ||| 0x18) = (0x2C, 3) ∧ (w ||| 0x818).extractLsb' 11 5 ≠ 0, (w ||| 0x100).extractLsb' 8 3 ≠ 0, 7 < ((w ||| 0x80000).extractLsb' 16 5).toNat,
      7 < ((w ||| 0x1000000).extractLsb' 21 5).toNat, 7 < ((w ||| 0x4000).extractLsb' 11 5).toNat] : List Bool).all id = true := by decide +kernel

theorem meets_DecodeEncode : (Instr.addi 7 0 1).wf = true ∧ (Instr.lsemi 4 0 1).wf = true := by decide +kernel

theorem meets_EncodeDecode : decode 0x08E00001 0 = .ok (.addi 7 0 1) ∧ decode 0x04C62000 5 = .ok (.add 6 6 4 0) := ⟨rfl, rfl⟩

theorem meets_StepRunsDecoded :
    let at_ := fun (s : State) (l : List Move) => { s with agenda := l }
    let one := State.reset.withFetchWord 32 0x08E00001
    let two := match encode (.lsemi 4 0 1) with | [w, x] => State.reset.withFetchWord 64 (w.toNat + 2 ^ 32 * x.toNat) | _ => one
    let bad := State.reset.withFetchWord 32 0
    let needs := Instr.uses false
    let words := fun (s : State) (f : IWord → IWord → Bool) => ((match s.prepare 0 false with | .words w x _ => f w x | _ => false) : Bool)
    let plain := fun (s : State) => decide (s.interrupted 0 = false ∧ s.issuable 0 ∧ (s.strand 0).fbuf = [] ∧ inLocal (s.strand 0).pc 4 ∧ inLocal ((s.strand 0).pc + 4) 4)
    ([one.agenda = [⟨0, .issue 0, false⟩] ∧ one.strands.all (fun e => e.2.held = []) ∧ words one fun w x => okE (decode w x) fun i => i = .addi 7 0 1, words two fun w x => okE (decode w x) fun i => i = .lsemi 4 0 1,
      words bad fun w x => errE (decode w x) fun e => e = .major, plain one && plain two,
      (one.strand 0).awaitsFence = false ∧ (one.strand 0).unknown (needs (.addi 7 0 1)).reads = false, (two.strand 0).unknown (needs (.lsemi 4 0 1)).reads = false,
      (me (fun x => { x with fences := [(9, .fence 4)] }) s0).me.awaitsFence ∧ accessMajor 0x50856008 ∧ isLong 0x50856008 = false, accessMajor 0x08E00001 = false,
      (awaited s0).me.unknown (needs (.addi 7 4 1)).reads ∧ (needs (.addi 7 4 1)).reads = some [.s 4] ∧ (needs (.addi 7 4 1)).writes = some [.s 7],
      (awaited s0).me.unknown (needs (.beq 4 5 1)).reads ∧ (needs (.beq 4 5 1)).writes = none,
      Instr.accesses (.digest 6 5 0) ∧ Instr.afterRetired (.haltg 3) ∧ (awaited s0).me.retired = false ∧ s0.me.retired, isLong 0xF14C5000,
      BitVec.ofNat 32 (Memory.readN one.mem (coreAddr 0 0x1000) 4) = 0x08E00001,
      (me (fun x => { x with irq := some 5, csr := { x.csr with tstat := 1 } }) s0).interrupted 0, encode .throttle = [], encode .eret ≠ [],
      (at_ s0 [⟨0, .idle, false⟩]).agenda = [⟨0, .idle, false⟩]] : List Bool).all id = true := by decide +kernel

theorem meets_MemoryInvariant :
    let s := State.reset.withFetchWord 32 0x08E00001
    s.MemWf ∧ goes (step s) (fun t => t.me.s.get 7 = 1) = true := by decide +kernel

end Sys2Proof.Tests
end

section
/-! PROOF. TLBINV and PTSYNC (R78 to R81). What leaves a core copy or a core TLB goes home, and nothing else happens to memory
(`State.GoesHome`); a removal is that, a filter of every TLB, and the end of core copies for what is under way in the range. -/

namespace Sys2Proof

/-! ## Sparse lists -/

/-- The default stands at every key that no entry lists. -/
theorem SMap.get_of_unlisted {α : Type} (d : α) (m : SMap α) {i : Nat} (h : i ∉ m.map (·.1)) : SMap.get d m i = d := by
  induction m with
  | nil => rfl
  | cons e m ih =>
    obtain ⟨k, v⟩ := e
    simp only [List.map_cons, List.mem_cons, not_or] at h
    simp only [SMap.get, if_neg h.1, ih h.2]

/-- A map over the entries that keeps the default is a map of what a reader finds. -/
theorem SMap.get_map {α : Type} (d : α) (g : Nat → α → α) (m : SMap α) {i : Nat} (hd : g i d = d) :
    SMap.get d (m.map fun x => (x.1, g x.1 x.2)) i = g i (SMap.get d m i) := by
  induction m with
  | nil => exact hd.symm
  | cons e m ih =>
    obtain ⟨k, v⟩ := e
    simp only [List.map_cons, SMap.get, ih]
    split
    · rename_i hk; rw [hk]
    · rfl

namespace Machine

/-- What every step of a fold keeps, the fold keeps. -/
theorem foldl_keeps {α β : Type} (g : State → β) (f : State → α → State) (hf : ∀ s a, g (f s a) = g s) (l : List α) (s : State) :
    g (l.foldl f s) = g s := by
  induction l generalizing s with
  | nil => rfl
  | cons a l ih => rw [List.foldl_cons, ih, hf]

/-! ## What a write-back writes (R42) -/

/-- A byte that a line holds dirty. -/
def dirtyByte (l : Nat × Line) (a : Nat) : Prop := l.1 ≤ a ∧ a < l.1 + 64 ∧ l.2.dirty.getLsbD (a - l.1) = true

theorem read_writeDirty {m : List Host.Cell} (l : Nat × Line) {a : Nat} (hm : Memory.wf m = true) (ha : ¬ dirtyByte l a) {n : Nat} (hn : n ≤ 64) :
    Memory.read (writeDirty m l.1 l.2 n) a = Memory.read m a := by
  induction n with
  | zero => rfl
  | succ n ih =>
    rw [writeDirty]
    split
    · rename_i hd
      have hne : a ≠ l.1 + n := by
        rintro rfl
        exact ha ⟨by omega, by omega, by rwa [Nat.add_sub_cancel_left]⟩
      rw [Memory.read_write _ _ _ (Memory.wf_writeDirty _ _ _ hm), if_neg hne, ih (by omega)]
    · exact ih (by omega)

theorem State.writeLines_read (s : State) (core : Nat) (ls : List (Nat × Line)) {a : Nat} (hm : s.MemWf) (ha : ∀ l ∈ ls, ¬ dirtyByte l a) :
    Memory.read (s.writeLines core ls).mem a = Memory.read s.mem a := by
  have fold : ∀ (ds : List (Nat × Line)) (m : List Host.Cell), Memory.wf m = true → (∀ l ∈ ds, ¬ dirtyByte l a) →
      Memory.read (ds.foldl (fun m (l : Nat × Line) => writeDirty m l.1 l.2 64) m) a = Memory.read m a := by
    intro ds
    induction ds with
    | nil => intros; rfl
    | cons l ds ih =>
      intro m hm hds
      rw [List.foldl_cons, ih _ (Memory.wf_writeDirty _ _ _ hm) fun x hx => hds x (List.mem_cons_of_mem _ hx),
        read_writeDirty l hm (hds l List.mem_cons_self) (Nat.le_refl _)]
  exact fold _ _ hm fun l hl => ha l (List.mem_filter.1 hl).1

/-- A write-back of all of a core's lines moves home what it held dirty, and no other byte. -/
theorem State.writeBackAll_synced (s : State) (core : Nat) : CoreSynced core s (s.writeBackAll core) :=
  fun hm _ ha => s.writeLines_read core _ hm fun l hl hd => ha ⟨l, hl, hd⟩

/-! ## Going home -/

/-- From s to t dirty bytes went home and translations left, and nothing else happened to memory, strands or partitions: a byte that no core
held dirty reads as before, and no further byte became dirty. -/
structure State.GoesHome (s t : State) : Prop where
  cur : t.cur = s.cur
  parts : t.parts = s.parts
  strand : ∀ n, t.strand n = s.strand n
  wf : s.MemWf → t.MemWf
  read : s.MemWf → ∀ a, (∀ k, ¬ s.dirtyIn k a) → Memory.read t.mem a = Memory.read s.mem a
  dirty : ∀ k a, t.dirtyIn k a → s.dirtyIn k a

theorem State.GoesHome.refl (s : State) : s.GoesHome s := ⟨rfl, rfl, fun _ => rfl, id, fun _ _ _ => rfl, fun _ _ => id⟩

theorem State.GoesHome.trans {s t u : State} (h : s.GoesHome t) (k : t.GoesHome u) : s.GoesHome u where
  cur := k.cur.trans h.cur
  parts := k.parts.trans h.parts
  strand n := (k.strand n).trans (h.strand n)
  wf hm := k.wf (h.wf hm)
  read hm a ha := (k.read (h.wf hm) a fun c hc => ha c (h.dirty c a hc)).trans (h.read hm a ha)
  dirty c a hc := h.dirty c a (k.dirty c a hc)

theorem State.GoesHome.partOf {s t : State} (h : s.GoesHome t) (n : Nat) : t.partOf n = s.partOf n := by
  simp only [State.partOf, State.partOfCore, State.partOfDie, State.part, h.parts]

theorem State.GoesHome.me {s t : State} (h : s.GoesHome t) : t.me = s.me := by
  rw [State.me, h.cur, h.strand, State.me]

theorem State.GoesHome.foldl {α : Type} {f : State → α → State} (hf : ∀ (s : State) a, s.GoesHome (f s a)) (l : List α) (s : State) :
    s.GoesHome (l.foldl f s) := by
  induction l generalizing s with
  | nil => exact .refl s
  | cons a l ih => exact (hf s a).trans (ih _)

/-- Lines of a core that are its own are written back, and the core keeps none of them with a byte dirty that it did not hold dirty. -/
theorem State.writeLines_setCore_goesHome (s : State) (core : Nat) {ls : List (Nat × Line)} {x : Core} (hl : ∀ l ∈ ls, l ∈ (s.core core).lines)
    (hx : ∀ l ∈ x.lines, ∀ a, dirtyByte l a → s.dirtyIn core a) : s.GoesHome ((s.writeLines core ls).setCore core x) where
  cur := rfl
  parts := rfl
  strand _ := rfl
  wf hm := s.writeLines_wf core ls hm
  read hm _ ha := s.writeLines_read core ls hm fun l h hd => ha core ⟨l, hl l h, hd⟩
  dirty k a hk := by
    obtain ⟨l, hl, hd⟩ := hk
    rw [State.setCore_core] at hl
    split at hl
    · rename_i hc; rw [hc]; exact hx l hl a hd
    · exact ⟨l, hl, hd⟩

theorem State.writeBackAll_goesHome (s : State) (core : Nat) : s.GoesHome (s.writeBackAll core) := by
  refine s.writeLines_setCore_goesHome core (fun _ => id) fun l hl a hd => ?_
  obtain ⟨l', -, rfl⟩ := List.mem_map.1 hl
  simp [dirtyByte] at hd

theorem State.dropLines_goesHome (s : State) (core : Nat) (f : Nat × Line → Bool) : s.GoesHome (s.dropLines core f) := by
  unfold State.dropLines; dsimp only; split
  · exact .refl s
  · exact s.writeLines_setCore_goesHome core (fun l hl => (List.mem_filter.1 hl).1) fun l hl a hd => ⟨l, (List.mem_filter.1 hl).1, hd⟩

/-- A change of a core that leaves its lines alone moves nothing. -/
theorem State.modCore_goesHome (s : State) (core : Nat) {f : Core → Core} (hf : ∀ x, (f x).lines = x.lines) : s.GoesHome (s.modCore core f) where
  cur := rfl
  parts := rfl
  strand _ := rfl
  wf := id
  read _ _ _ := rfl
  dirty k a hk := by
    obtain ⟨l, hl, hd⟩ := hk
    rw [State.modCore, State.setCore_core] at hl
    split at hl
    · rename_i hc; rw [hf] at hl; rw [hc]; exact ⟨l, hl, hd⟩
    · exact ⟨l, hl, hd⟩

theorem State.foldl_dropPage_goesHome (s : State) (core : Nat) (l : List TlbEntry) :
    s.GoesHome (l.foldl (fun s e => s.dropPage core (Pte.frame e.lo)) s) :=
  .foldl (fun u _ => u.dropLines_goesHome core _) l s

theorem State.tlbDrop_goesHome (s : State) (core : Nat) (f : TlbEntry → Bool) : s.GoesHome (s.tlbDrop core f) := by
  unfold State.tlbDrop; dsimp only; split
  · exact .refl s
  · refine State.GoesHome.trans ?_ (State.foldl_dropPage_goesHome _ core _)
    exact s.modCore_goesHome core fun _ => rfl

/-! ## What a core TLB keeps -/

theorem State.dropLines_tlb (s : State) (core : Nat) (f : Nat × Line → Bool) (c : Nat) : ((s.dropLines core f).core c).tlb = (s.core c).tlb := by
  unfold State.dropLines; dsimp only; split
  · rfl
  · rw [State.setCore_core]; split
    · rename_i hc; rw [hc]
    · rfl

theorem State.writeBackAll_tlb (s : State) (core c : Nat) : ((s.writeBackAll core).core c).tlb = (s.core c).tlb := by
  unfold State.writeBackAll; dsimp only
  rw [State.setCore_core]; split
  · rename_i hc; rw [hc]
  · rfl

theorem State.foldl_dropPage_tlb (s : State) (core : Nat) (l : List TlbEntry) (c : Nat) :
    ((l.foldl (fun s e => s.dropPage core (Pte.frame e.lo)) s).core c).tlb = (s.core c).tlb :=
  foldl_keeps (fun u => (u.core c).tlb) _ (fun u _ => u.dropLines_tlb core _ c) l s

theorem State.mem_tlbDrop_tlb (s : State) (core : Nat) (f : TlbEntry → Bool) (c : Nat) (e : TlbEntry) :
    e ∈ ((s.tlbDrop core f).core c).tlb ↔ e ∈ (s.core c).tlb ∧ ¬ (c = core ∧ f e = true) := by
  unfold State.tlbDrop; dsimp only; split
  · rename_i hgone
    have hnone : ∀ e ∈ (s.core core).tlb, ¬ f e = true := by
      simpa [List.isEmpty_iff, List.filter_eq_nil_iff] using hgone
    refine ⟨fun he => ⟨he, ?_⟩, fun he => he.1⟩
    rintro ⟨rfl, hfe⟩; exact hnone e he hfe
  · rw [State.foldl_dropPage_tlb, State.modCore, State.setCore_core]
    split
    · rename_i hc; simp [hc]
    · rename_i hc; simp [hc]

theorem State.mem_foldl_tlbDrop_tlb (s : State) (f : TlbEntry → Bool) (l : List Nat) (c : Nat) (e : TlbEntry) :
    e ∈ ((l.foldl (fun s c => s.tlbDrop c f) s).core c).tlb ↔ e ∈ (s.core c).tlb ∧ ¬ (c ∈ l ∧ f e = true) := by
  induction l generalizing s with
  | nil => simp
  | cons k l ih =>
    rw [List.foldl_cons, ih, State.mem_tlbDrop_tlb, List.mem_cons, and_assoc, ← not_or, ← or_and_right]

/-- A core that nothing has touched holds no translation. -/
theorem State.mem_touchedCores (s : State) {p c : Nat} {e : TlbEntry} (hp : s.partOfCore c = p) (he : e ∈ (s.core c).tlb) : c ∈ s.touchedCores p := by
  refine List.mem_filter.2 ⟨Decidable.byContradiction fun hc => ?_, by simpa using hp⟩
  rw [State.core, SMap.get_of_unlisted _ _ hc] at he
  simp [Core.reset] at he

/-! ## What a die's walk cache has no part in -/

section
variable (s : State) (d : Nat) (g : Die → List WalkEntry)

theorem State.setWalk_die (k : Nat) :
    (s.modDie d fun x => { x with walk := g x }).die k = if k = d then { s.die d with walk := g (s.die d) } else s.die k := SMap.get_set ..

theorem State.setWalk_core (c : Nat) : (s.modDie d fun x => { x with walk := g x }).core c = s.core c := by
  have h : ((s.modDie d fun x => { x with walk := g x }).die (dieOfCore c)).frames = (s.die (dieOfCore c)).frames := by
    rw [State.setWalk_die]; split
    · rename_i hk; rw [hk]
    · rfl
  rw [State.core, h, State.modDie_cores, State.core]

theorem State.setWalk_strand (n : Nat) : (s.modDie d fun x => { x with walk := g x }).strand n = s.strand n := by
  have h : ((s.modDie d fun x => { x with walk := g x }).die (dieOfCore (coreOf n))).freshStrand (frameOf n)
      = (s.die (dieOfCore (coreOf n))).freshStrand (frameOf n) := by
    rw [State.setWalk_die]; split
    · rename_i hk; rw [hk]; rfl
    · rfl
  rw [State.strand, h, State.modDie_strands, State.strand]

theorem State.setWalk_goesHome : s.GoesHome (s.modDie d fun x => { x with walk := g x }) where
  cur := rfl
  parts := rfl
  strand := s.setWalk_strand d g
  wf := id
  read _ _ _ := rfl
  dirty k a := by rw [State.dirtyIn, s.setWalk_core d g, State.dirtyIn]; exact id
end

/-! ## Removal of translations -/

theorem State.setClusters_goesHome (s : State) (m : SMap Cluster) : s.GoesHome { s with clusters := m } :=
  ⟨rfl, rfl, fun _ => rfl, id, fun _ _ _ => rfl, fun _ _ => id⟩

theorem State.removeXlate_goesHome (s : State) (p : Nat) (leaf : TlbEntry → Bool) (ptr : WalkEntry → Bool) : s.GoesHome (s.removeXlate p leaf ptr) := by
  unfold State.removeXlate
  exact ((State.GoesHome.foldl (fun u c => u.tlbDrop_goesHome c _) _ _).trans (State.setClusters_goesHome _ _)).trans
    (.foldl (fun u d => u.setWalk_goesHome d _) _ _)

theorem State.mem_removeXlate_tlb (s : State) {p : Nat} (leaf : TlbEntry → Bool) (ptr : WalkEntry → Bool) {c : Nat} (hc : s.partOfCore c = p)
    (e : TlbEntry) : e ∈ ((s.removeXlate p leaf ptr).core c).tlb ↔ e ∈ (s.core c).tlb ∧ ¬ (e.part = p ∧ leaf e = true) := by
  have hcore : (s.removeXlate p leaf ptr).core c =
      ((s.touchedCores p).foldl (fun s c => s.tlbDrop c fun e => e.part = p && leaf e) s).core c :=
    foldl_keeps (fun u => u.core c) _ (fun u d => u.setWalk_core d _ c) _ _
  rw [hcore]
  refine (s.mem_foldl_tlbDrop_tlb _ _ c e).trans (and_congr_right fun he => not_congr ?_)
  simp [s.mem_touchedCores hc he]

theorem State.tlbDrop_clusters (s : State) (core : Nat) (f : TlbEntry → Bool) : (s.tlbDrop core f).clusters = s.clusters := by
  unfold State.tlbDrop; dsimp only; split
  · rfl
  · refine foldl_keeps State.clusters _ (fun u e => ?_) _ _
    unfold State.dropPage State.dropLines; dsimp only; split <;> rfl

theorem State.removeXlate_cluster (s : State) (p : Nat) (leaf : TlbEntry → Bool) (ptr : WalkEntry → Bool) (c : Nat) :
    ((s.removeXlate p leaf ptr).cluster c).tlb = (s.cluster c).tlb.filter fun e => !(e.part = p && leaf e) := by
  have hmap : (s.removeXlate p leaf ptr).clusters =
      s.clusters.map fun c => (c.1, { c.2 with tlb := c.2.tlb.filter fun e => !(e.part = p && leaf e) }) := by
    unfold State.removeXlate
    refine (foldl_keeps State.clusters _ (fun u d => u.modDie_clusters d _) _ _).trans ?_
    exact congrArg (List.map _) (foldl_keeps State.clusters _ (fun u c => u.tlbDrop_clusters c _) _ _)
  rw [State.cluster, hmap, SMap.get_map Cluster.reset (fun _ x => { x with tlb := x.tlb.filter fun e => !(e.part = p && leaf e) }) _ rfl]; rfl

/-! ## The end of core copies for what is under way (R80) -/

/-- A part that was translated in a range goes home from then on. -/
def Part1.uncopied (r : Nat × Nat) (a : Part1) : Part1 := if a.within [r] then { a with cached := false } else a

/-- So do those of a strand's stores in its outbox and of its accesses not yet performed. -/
def Strand.uncopied (r : Nat × Nat) (x : Strand) : Strand :=
  { x with out := x.out.map fun o => { o with at_ := o.at_.uncopied r }, pend := x.pend.map fun q => { q with parts := q.parts.map (Part1.uncopied r) } }

theorem Part1.uncopied_cached {r : Nat × Nat} {a : Part1} (h : (a.uncopied r).within [r] = true) : (a.uncopied r).cached = false := by
  unfold Part1.uncopied at *; split
  · rfl
  · rename_i hw; rw [if_neg hw] at h; exact absurd h hw

theorem Part1.uncopied_uncached (r : Nat × Nat) (a : Part1) : { a.uncopied r with cached := false } = { a with cached := false } := by
  unfold Part1.uncopied; split <;> rfl

theorem Strand.uncopied_out {r : Nat × Nat} {x : Strand} {o : Out} (ho : o ∈ (x.uncopied r).out) (hw : o.at_.within [r] = true) :
    o.at_.cached = false := by
  obtain ⟨o', -, rfl⟩ := List.mem_map.1 ho
  exact Part1.uncopied_cached hw

theorem Strand.uncopied_uncached (r : Nat × Nat) (x : Strand) : (x.uncopied r).uncached = x.uncached := by
  simp [Strand.uncached, Strand.uncopied, Function.comp_def, Part1.uncopied_uncached]

theorem Strand.uncopied_idle (r : Nat × Nat) {x : Strand} (ho : x.out = []) (hp : x.pend = []) : x.uncopied r = x := by
  cases x; cases ho; cases hp; rfl

theorem Die.freshStrand_idle (d : Die) (n : Nat) : (d.freshStrand n).out = [] ∧ (d.freshStrand n).pend = [] := by
  unfold Die.freshStrand; split <;> exact ⟨rfl, rfl⟩

theorem State.uncopyRange_strand (s : State) (p : Nat) (r : Nat × Nat) (n : Nat) :
    (s.uncopyRange p r).strand n = if s.partOf n = p then (s.strand n).uncopied r else s.strand n := by
  have hmap : (s.uncopyRange p r).strands = s.strands.map fun x => (x.1, if s.partOf x.1 = p then x.2.uncopied r else x.2) := by
    unfold State.uncopyRange
    refine List.map_congr_left fun x _ => ?_
    by_cases hp : s.partOf x.1 = p
    · rw [if_neg (not_not_intro hp), if_pos hp]; rfl
    · rw [if_pos hp, if_neg hp]
  have hidle := (s.die (dieOfCore (coreOf n))).freshStrand_idle (frameOf n)
  refine (congrArg (SMap.get _ · n) hmap).trans (SMap.get_map _ (fun i (x : Strand) => if s.partOf i = p then x.uncopied r else x) _ ?_)
  split
  · exact Strand.uncopied_idle r hidle.1 hidle.2
  · rfl

theorem State.uncopyRange_uncached (s : State) (p : Nat) (r : Nat × Nat) (n : Nat) :
    ((s.uncopyRange p r).strand n).uncached = (s.strand n).uncached := by
  rw [State.uncopyRange_strand]; split
  · exact Strand.uncopied_uncached r _
  · rfl

/-! ## TLBINV -/

/-- No write-back of a core is held while its partition swaps no pages (R60). -/
theorem State.lineHeld_noSwap (s : State) {c : Nat} (h : (s.part (s.partOfCore c)).swap = none) (l : Nat × Line) : s.lineHeld c l = false := by
  simp [State.lineHeld, State.swapBytes, h]

theorem State.backHeld_noSwap (s : State) (h : s.myPart.swap = none) : s.backHeld (coreOf s.cur) = false := by
  simp [State.backHeld, s.lineHeld_noSwap (c := coreOf s.cur) h]

theorem State.removeHeld_noSwap (s : State) (h : s.myPart.swap = none) (leaf : TlbEntry → Bool) : s.removeHeld (s.partOf s.cur) leaf = false := by
  refine List.any_eq_false.2 fun c hc => ?_
  have hp : s.partOfCore c = s.partOf s.cur := by simpa using (List.mem_filter.1 hc).2
  simp [State.pageHeld, s.lineHeld_noSwap (c := c) (by rw [hp]; exact h)]

/-- The strand remembers a range until its PTSYNC, and retires. -/
def State.remember (s : State) (r : Nat × Nat) : State := (s.setMe { s.me with inv := r :: s.me.inv }).retire

theorem State.remember_me (s : State) (r : Nat × Nat) : (s.remember r).me = { s.me.advance 4 with inv := r :: s.me.inv } := by
  rw [State.remember, State.retire_me, State.setMe_me]; rfl

theorem State.remember_ne (s : State) (r : Nat × Nat) {n : Nat} (h : n ≠ s.cur) : (s.remember r).strand n = s.strand n := by
  rw [State.remember, State.retire_ne (State.setMe _ _) h, State.setMe_ne _ _ h]

/-- The dirty bytes of the strand's core went home, and the entries of its partition that a scope names are gone. -/
def State.removed (s : State) (leaf : TlbEntry → Bool) (ptr : WalkEntry → Bool) : State :=
  (s.writeBackAll (coreOf s.cur)).removeXlate (s.partOf s.cur) leaf ptr

/-- The state after a TLBINV that removed a range. -/
def State.invalidated (s : State) (r : Nat × Nat) (leaf : TlbEntry → Bool) (ptr : WalkEntry → Bool) : State :=
  ((s.removed leaf ptr).uncopyRange (s.partOf s.cur) r).remember r

section
variable (s : State) (range : Option (Nat × Nat)) (leaf : TlbEntry → Bool) (ptr : WalkEntry → Bool)

theorem State.tlbinv_level0 (h : s.me.level = 0) : s.tlbinv range leaf ptr = .next (s.deliver 0x02 s.ir s.me.pc) := if_pos h

theorem State.tlbinv_waits (h : s.me.level ≠ 0) (ho : s.me.out ≠ []) : s.tlbinv range leaf ptr = .next s := by
  unfold State.tlbinv; dsimp only
  rw [if_neg h, if_pos (by simp [ho])]; rfl

/-- A settled strand's TLBINV waits for nothing. -/
theorem State.tlbinv_settled (h : s.me.level ≠ 0) (hs : s.Settled) : s.tlbinv range leaf ptr = .next (match range with
    | none => (s.writeBackAll (coreOf s.cur)).retire
    | some r => s.invalidated r leaf ptr) := by
  obtain ⟨-, -, hpend, hout, hport, -, -, -, hswap⟩ := hs
  unfold State.tlbinv; dsimp only
  rw [if_neg h, if_neg (by simp [hpend, hout, hport, s.backHeld_noSwap hswap, s.removeHeld_noSwap hswap])]
  cases range <;> rfl
end

section
variable (s : State) (r : Nat × Nat) (leaf : TlbEntry → Bool) (ptr : WalkEntry → Bool)

theorem State.removed_goesHome : s.GoesHome (s.removed leaf ptr) :=
  (s.writeBackAll_goesHome _).trans (State.removeXlate_goesHome _ _ _ _)

theorem State.invalidated_cur : (s.invalidated r leaf ptr).cur = s.cur := (s.removed_goesHome leaf ptr).cur

theorem State.mem_invalidated_tlb {c : Nat} (hc : s.partOfCore c = s.partOf s.cur) (e : TlbEntry) :
    e ∈ ((s.invalidated r leaf ptr).core c).tlb ↔ e ∈ (s.core c).tlb ∧ ¬ (e.part = s.partOf s.cur ∧ leaf e = true) :=
  (State.mem_removeXlate_tlb (s.writeBackAll (coreOf s.cur)) leaf ptr hc e).trans (by rw [State.writeBackAll_tlb])

theorem State.mem_invalidated_cluster (c : Nat) (e : TlbEntry) :
    e ∈ ((s.invalidated r leaf ptr).cluster c).tlb ↔ e ∈ (s.cluster c).tlb ∧ ¬ (e.part = s.partOf s.cur ∧ leaf e = true) := by
  have h : ((s.invalidated r leaf ptr).cluster c).tlb = (s.cluster c).tlb.filter fun e => !(e.part = s.partOf s.cur && leaf e) :=
    State.removeXlate_cluster (s.writeBackAll (coreOf s.cur)) (s.partOf s.cur) leaf ptr c
  rw [h, List.mem_filter]
  refine and_congr_right fun _ => ?_
  rw [Bool.not_eq_true', ← Bool.not_eq_true, Bool.and_eq_true, decide_eq_true_iff]

theorem State.invalidated_read (hm : s.MemWf) {x : Nat} (hx : ∀ k, ¬ s.dirtyIn k x) :
    Memory.read (s.invalidated r leaf ptr).mem x = Memory.read s.mem x := (s.removed_goesHome leaf ptr).read hm x hx

theorem State.invalidated_strand {n : Nat} (hn : n ≠ s.cur) :
    (s.invalidated r leaf ptr).strand n = if s.partOf n = s.partOf s.cur then (s.strand n).uncopied r else s.strand n := by
  have home := s.removed_goesHome leaf ptr
  rw [State.invalidated, State.remember_ne (State.uncopyRange _ _ _) _ fun h => hn (h.trans home.cur), State.uncopyRange_strand, home.partOf, home.strand]

/-- A settled strand has no access of its own under way that could lose its core copy. -/
theorem State.invalidated_me (hs : s.Settled) : (s.invalidated r leaf ptr).me = { s.me.advance 4 with inv := r :: s.me.inv } := by
  obtain ⟨-, -, hpend, hout, -⟩ := hs
  have hme : ((s.removed leaf ptr).uncopyRange (s.partOf s.cur) r).me = s.me := by
    refine (State.uncopyRange_strand _ _ _ _).trans ?_
    change (if _ then (s.removed leaf ptr).me.uncopied r else (s.removed leaf ptr).me) = s.me
    rw [(s.removed_goesHome leaf ptr).me, Strand.uncopied_idle r hout hpend, ite_self]
  rw [State.invalidated, State.remember_me, hme]

theorem State.invalidated_out (hs : s.Settled) {n : Nat} (hn : s.partOf n = s.partOf s.cur) {o : Out}
    (ho : o ∈ ((s.invalidated r leaf ptr).strand n).out) (hw : o.at_.within [r] = true) : o.at_.cached = false := by
  by_cases hc : n = s.cur
  · have hme := s.invalidated_me r leaf ptr hs
    rw [State.me, s.invalidated_cur] at hme
    obtain ⟨-, -, -, hout, -⟩ := hs
    rw [hc, hme] at ho
    simp [Strand.advance, hout] at ho
  · rw [s.invalidated_strand r leaf ptr hc, if_pos hn] at ho
    exact Strand.uncopied_out ho hw

theorem State.invalidated_uncached {n : Nat} (hn : n ≠ s.cur) : ((s.invalidated r leaf ptr).strand n).uncached = (s.strand n).uncached := by
  rw [s.invalidated_strand r leaf ptr hn]; split
  · exact Strand.uncopied_uncached r _
  · rfl
end

/-- What the obligation asks of a removal at va, of the entries that a predicate names. -/
def State.Removed (s : State) (va : Nat) (named : TlbEntry → Prop) (t : State) : Prop :=
  (∀ c, s.partOfCore c = s.partOf s.cur → ∀ e, e ∈ (t.core c).tlb ↔ e ∈ (s.core c).tlb ∧ ¬ (e.part = s.partOf s.cur ∧ named e))
  ∧ (∀ c e, e ∈ (t.cluster c).tlb ↔ e ∈ (s.cluster c).tlb ∧ ¬ (e.part = s.partOf s.cur ∧ named e))
  ∧ (s.MemWf → ∀ x, (∀ k, ¬ s.dirtyIn k x) → Memory.read t.mem x = Memory.read s.mem x)
  ∧ (∃ r, t.me = { s.me.advance 4 with inv := r :: s.me.inv }
    ∧ (named ⟨s.partOf s.cur, va / 2 ^ 16 * 2 ^ 16, false, 0, 0, 0, 0⟩ → r.1 ≤ va ∧ va < r.2)
    ∧ ∀ n, s.partOf n = s.partOf s.cur → ∀ o ∈ (t.strand n).out, o.at_.within [r] = true → o.at_.cached = false)
  ∧ ∀ n, n ≠ s.cur → (t.strand n).uncached = (s.strand n).uncached

theorem State.invalidated_removed (s : State) {r : Nat × Nat} {leaf : TlbEntry → Bool} (ptr : WalkEntry → Bool) {va : Nat} {named : TlbEntry → Prop}
    (hs : s.Settled) (hn : ∀ e, leaf e = true ↔ named e) (hr : r.1 ≤ va ∧ va < r.2) : s.Removed va named (s.invalidated r leaf ptr) := by
  obtain rfl : named = fun e => leaf e = true := funext fun e => propext (hn e).symm
  exact ⟨fun _ hc => s.mem_invalidated_tlb r leaf ptr hc, s.mem_invalidated_cluster r leaf ptr,
    fun hm _ hx => s.invalidated_read r leaf ptr hm hx,
    ⟨r, s.invalidated_me r leaf ptr hs, fun _ => hr, fun _ hp _ ho hw => s.invalidated_out r leaf ptr hs hp ho hw⟩,
    fun _ hc => s.invalidated_uncached r leaf ptr hc⟩

/-- A TLBINV of a settled strand that removes nothing writes its core back and retires. -/
theorem State.writeBackAll_retire_synced (s : State) :
    MemSynced s (s.writeBackAll (coreOf s.cur)).retire ∧ (s.writeBackAll (coreOf s.cur)).retire.me = s.me.advance 4 :=
  ⟨s.writeBackAll_synced _, by rw [State.retire_me, (s.writeBackAll_goesHome _).me]⟩

/-! ## The addresses TLBINV takes -/

theorem invVa_translated (w : Word) (h : 0x40000 ≤ (w.extractLsb' 0 56).toNat ∧ (w.extractLsb' 0 56).toNat < 2 ^ 55) :
    invVa w = some (w.extractLsb' 0 56).toNat := by
  have hn : ¬ ((w.extractLsb' 0 56).toNat ≥ meshBase ∨ (w.extractLsb' 0 56).toNat < 0x40000) := by unfold meshBase; omega
  simpa [invVa] using hn

theorem invVa_untranslated (w : Word) (h : ¬ (0x40000 ≤ (w.extractLsb' 0 56).toNat ∧ (w.extractLsb' 0 56).toNat < 2 ^ 55)) :
    invVa w = none := by
  have hn : (w.extractLsb' 0 56).toNat < meshBase → (w.extractLsb' 0 56).toNat < 0x40000 := by unfold meshBase; omega
  simpa [invVa] using hn

theorem exec_tlbinvAll (s : State) (h : BitVec 2) : exec (.tlbinvAll h) s = s.tlbinv (some (0, 2 ^ 56)) (fun _ => true) fun _ => true := rfl

section
variable (s : State) (a : BitVec 5) (h : BitVec 2)

/-- Both forms with an address take one of two scopes, so what holds of every removal holds of them. -/
theorem exec_tlbinv_scope : ∃ range leaf ptr, exec (.tlbinv a h) s = s.tlbinv range leaf ptr := by
  change ∃ range leaf ptr, execTlbinv a h s = _
  unfold execTlbinv; split <;> exact ⟨_, _, _, rfl⟩

theorem exec_tlbinvRng_scope : ∃ range leaf ptr, exec (.tlbinvRng a h) s = s.tlbinv range leaf ptr := by
  change ∃ range leaf ptr, execTlbinvRng a h s = _
  unfold execTlbinvRng; split <;> exact ⟨_, _, _, rfl⟩

theorem exec_tlbinv_some {va : Nat} (hv : invVa (s.rs a) = some va) : exec (.tlbinv a h) s =
    s.tlbinv (some (va / 2 ^ 16 * 2 ^ 16, va / 2 ^ 16 * 2 ^ 16 + 2 ^ 16))
      (fun e => if e.large then e.va = va / 2 ^ 26 * 2 ^ 26 else e.va = va / 2 ^ 16 * 2 ^ 16) fun _ => false := by
  change execTlbinv a h s = _
  unfold execTlbinv; rw [hv]

theorem exec_tlbinv_none (hv : invVa (s.rs a) = none) : exec (.tlbinv a h) s = s.tlbinv none (fun _ => false) fun _ => false := by
  change execTlbinv a h s = _
  unfold execTlbinv; rw [hv]

theorem exec_tlbinvRng_some {va : Nat} (hv : invVa (s.rs a) = some va) : exec (.tlbinvRng a h) s =
    s.tlbinv (some (va / 2 ^ 26 * 2 ^ 26, va / 2 ^ 26 * 2 ^ 26 + 2 ^ 26)) (fun e => e.va / 2 ^ 26 * 2 ^ 26 = va / 2 ^ 26 * 2 ^ 26)
      fun e => e.level = 3 && e.index = va / 2 ^ 26 := by
  change execTlbinvRng a h s = _
  unfold execTlbinvRng; rw [hv]

theorem exec_tlbinvRng_none (hv : invVa (s.rs a) = none) : exec (.tlbinvRng a h) s = s.tlbinv none (fun _ => false) fun _ => false := by
  change execTlbinvRng a h s = _
  unfold execTlbinvRng; rw [hv]
end

/-- A settled strand's removal completes as said. -/
theorem completes_removed {i : Instr} {s : State} {r : Nat × Nat} {leaf : TlbEntry → Bool} {ptr : WalkEntry → Bool} {va : Nat}
    {named : TlbEntry → Prop} (hi : exec i s = s.tlbinv (some r) leaf ptr) (hl : s.me.level ≠ 0) (hs : s.Settled)
    (hn : ∀ e, leaf e = true ↔ named e) (hr : r.1 ≤ va ∧ va < r.2) : Completes i s (s.Removed va named) :=
  ⟨_, hi.trans (s.tlbinv_settled _ leaf ptr hl hs), s.invalidated_removed ptr hs hn hr⟩

/-- A settled strand's TLBINV of an address that no translation covers removes nothing. -/
theorem completes_unremoved {i : Instr} {s : State} {leaf : TlbEntry → Bool} {ptr : WalkEntry → Bool} (hi : exec i s = s.tlbinv none leaf ptr)
    (hl : s.me.level ≠ 0) (hs : s.Settled) : Completes i s fun t => MemSynced s t ∧ t.me = s.me.advance 4 :=
  ⟨_, hi.trans (s.tlbinv_settled _ leaf ptr hl hs), s.writeBackAll_retire_synced⟩

/-! ## PTSYNC (R80) -/

theorem ptsync_level0 (s : State) (h : BitVec 2) (hl : s.me.level = 0) : Raises (.ptsync h) s 0x02 s.ir := if_pos hl

theorem ptsync_waits (s : State) (h : BitVec 2) (hl : s.me.level ≠ 0) (hq : s.rangesQuiet (s.partOf s.cur) s.me.inv = false) :
    Waits (.ptsync h) s := by
  change execPtsync h s = _
  unfold execPtsync; dsimp only
  rw [if_neg hl, hq, if_neg Bool.false_ne_true]; rfl

theorem ptsync_completes (s : State) (h : BitVec 2) (hl : s.me.level ≠ 0) (hq : s.rangesQuiet (s.partOf s.cur) s.me.inv = true) :
    Completes (.ptsync h) s fun t => OthersKept s t ∧ t.me = { s.me.advance 4 with inv := [] } := by
  refine ⟨(s.setMe { s.me with inv := [] }).retire, ?_, ⟨rfl, fun n hn => ?_, fun _ => rfl⟩, ?_⟩
  · change execPtsync h s = _
    unfold execPtsync; dsimp only
    rw [if_neg hl, hq, if_pos rfl]
  · rw [State.retire_ne (State.setMe _ _) hn, State.setMe_ne _ _ hn]
  · rw [State.retire_me, State.setMe_me]; rfl

/-- Settles O31. A removal is a write-back, a filter of the TLBs and the end of core copies in the range (`State.invalidated_removed`); the
forms differ in their scope only. -/
theorem translationRemoval : Obligations.TranslationRemoval := by
  unfold Obligations.TranslationRemoval
  intro s a h
  dsimp only
  have hall := exec_tlbinvAll s h
  obtain ⟨_, _, _, hinv⟩ := exec_tlbinv_scope s a h
  obtain ⟨_, _, _, hrng⟩ := exec_tlbinvRng_scope s a h
  have refused (hl : s.me.level = 0) {i range leaf ptr} (hi : exec i s = s.tlbinv range leaf ptr) : Raises i s 0x02 s.ir :=
    hi.trans (s.tlbinv_level0 _ _ _ hl)
  have waits (hl : s.me.level ≠ 0) (ho : s.me.out ≠ []) {i range leaf ptr} (hi : exec i s = s.tlbinv range leaf ptr) : Waits i s :=
    hi.trans (s.tlbinv_waits _ _ _ hl ho)
  refine ⟨fun hl => ⟨refused hl hinv, refused hl hrng, refused hl hall, ptsync_level0 s h hl⟩, fun hl =>
    ⟨fun ho => ⟨waits hl ho hinv, waits hl ho hrng, waits hl ho hall⟩, fun hs => ⟨fun hv => ?_, fun hv => ?_, ?_⟩,
      ptsync_completes s h hl, ptsync_waits s h hl⟩⟩
  · have hva := invVa_translated _ hv
    exact ⟨completes_removed (exec_tlbinv_some s a h hva) hl hs (fun e => by simp) (by dsimp only; omega),
      completes_removed (exec_tlbinvRng_some s a h hva) hl hs (fun e => by simp) (by dsimp only; omega)⟩
  · have hva := invVa_untranslated _ hv
    exact ⟨completes_unremoved (exec_tlbinv_none s a h hva) hl hs, completes_unremoved (exec_tlbinvRng_none s a h hva) hl hs⟩
  · exact completes_removed hall hl hs (fun e => by simp) ⟨Nat.zero_le _, BitVec.isLt _⟩

end Machine
end Sys2Proof
end
